-- ==== Sys2Proof/Word.lean ====
section
/-!
DEFINITION. The word types of the Tuintifer and their plainest arithmetic (02_notation R29-R31, R43, R44).
-/
namespace Sys2Proof

/-- One byte of memory. -/
abbrev Byte := BitVec 8
/-- An instruction word, and a lane's vector register. -/
abbrev Word := BitVec 32
/-- A route, a sequencer scalar, a pair of vector registers. -/
abbrev W64 := BitVec 64

/-- Bits `hi` down to `lo` of a number (02_notation R43: `x[h:l]`). -/
def bits (x hi lo : Nat) : Nat := x / 2 ^ lo % 2 ^ (hi + 1 - lo)

/-- One bit of a number. -/
def bit (x n : Nat) : Bool := x / 2 ^ n % 2 == 1

/-- The signed reading of the low `n` bits of `x` (Table 2-6, SignExt). -/
def signed (n x : Nat) : Int :=
  if x % 2 ^ n < 2 ^ (n - 1) then (x % 2 ^ n : Nat) else ((x % 2 ^ n : Nat) : Int) - (2 ^ n : Nat)

/-- An integer reduced modulo `2^n`. -/
def wrap (n : Nat) (z : Int) : Nat := (z % ((2 ^ n : Nat) : Int)).toNat

end Sys2Proof
end

