-- ==== Sys2Proof/Syntax.lean ====
section
/-!
DEFINITION. The instructions and events of the Tuintifer, one constructor for each row of the opcode table: the 212
major forms of Table 3-13 (03_encoding R71) and the 86 events of 95_what_each_step_holds.md.
-/
namespace Sys2Proof

/-- A B field of the formats R and P: a register, or a literal word (03_encoding R55). -/
inductive Src where
  | reg (n : BitVec 6)
  | lit (w : Word)
  deriving DecidableEq, Repr

/-- The R format (03_encoding R57); `gp = 31` is "always". -/
structure RArgs where
  d : BitVec 6
  a : BitVec 6
  b : Src
  gn : Bool
  gp : BitVec 5
  deriving DecidableEq, Repr

/-- The I format (03_encoding R58). -/
structure IArgs where
  d : BitVec 6
  a : BitVec 6
  imm : BitVec 12
  deriving DecidableEq, Repr

/-- The P format (03_encoding R59). -/
structure PArgs where
  pd : BitVec 5
  cc : BitVec 3
  cmb : BitVec 2
  a : BitVec 6
  b : Src
  deriving DecidableEq, Repr

/-- The M format (03_encoding R60). -/
structure MArgs where
  d : BitVec 6
  a : BitVec 6
  off : BitVec 8
  la : BitVec 4
  deriving DecidableEq, Repr

/-- The A format (03_encoding R61). -/
structure AArgs where
  d : BitVec 6
  a : BitVec 6
  b : BitVec 6
  scope : BitVec 3
  ord : BitVec 2
  deriving DecidableEq, Repr

/-- The B format (03_encoding R62). -/
structure BArgs where
  p : BitVec 5
  pn : Bool
  mode : BitVec 2
  off : BitVec 16
  deriving DecidableEq, Repr

/-- The second source of the K format: a scalar register, or a literal (03_encoding R55, R64). -/
inductive KSrc where
  | k (n : BitVec 5)
  | lit (w : Word)
  deriving DecidableEq, Repr

/-- The K format (03_encoding R64). -/
structure KArgs where
  kd : BitVec 5
  ka : BitVec 5
  kb : KSrc
  imm : BitVec 8
  deriving DecidableEq, Repr

/-- The K-branch format (03_encoding R64). -/
structure KbrArgs where
  kp : BitVec 3
  neg : Bool
  off : BitVec 16
  deriving DecidableEq, Repr

/-- The X format, both words (03_encoding R65). -/
structure XArgs where
  acc : BitVec 3
  ta : BitVec 6
  tb : BitVec 6
  kf : BitVec 5
  la : BitVec 4
  sa : BitVec 3
  ba : BitVec 2
  sb : BitVec 3
  bb : BitVec 2
  sstep : BitVec 2
  ti : BitVec 6
  ra : Bool
  rb : Bool
  deriving DecidableEq, Repr

/-- The C formats with up to three register fields, in [23:18], [17:12] and [11:6] (Tables 9-5, 19-4, 05_traps R118, R119). -/
structure LArgs where
  d : BitVec 6
  a : BitVec 6
  b : BitVec 6
  deriving DecidableEq, Repr

/-- Whom a host pre-emption names: one workgroup slot, or a tenant (05_traps R118, R122). -/
inductive PreemptTarget where
  | slot (wg : Nat)
  | tenant (t : Nat)
  deriving DecidableEq, Repr

/-- The engines that acknowledge a pre-emption (Table 5-6). -/
inductive Engine where
  | quads | matrix | copy | coalescer | hamper | egress
  deriving DecidableEq, Repr

/-- The host's answer to an ATS request: what it grants (09_routes R194). -/
structure Translation where
  read : Bool
  write : Bool
  deriving DecidableEq, Repr

/-- A flit: 8 header bytes, 15 beats, CRC-64 (Table 17-1). -/
structure Flit where
  hdr : BitVec 64
  payload : BitVec 1920
  crc : BitVec 64
  deriving DecidableEq, Repr

/-- The kinds of access that the levels tell apart (Table 9-3), with the relinquish of 13_hamper R267. -/
inductive AccKind where
  | load | store | atomic | fetch | relinquish
  deriving DecidableEq, Repr

/-- What an atomic does to a location (Table 10-4); `radd` is the add of CPR (14_copy R290), `bf16` its BF16 form. -/
inductive AtomicOp where
  | xchg | cas | add | min | max | and | or | xor | fadd | bfadd | decnz
  deriving DecidableEq, Repr

/-- An answer to a request that left the module or the die's own memory (17_fabric R326, R333), on the path slot of the
request: the values read, each with its size, and the clock of the release that an acquire has read; an acknowledgement with the destination's
RCV; an error with level, label and cause; or the refusal of a full hold. -/
inductive Answer where
  | data (slot : Nat) (vals : List (Nat × Nat)) (clock : List (Nat × Nat))
  | ack (slot rcv : Nat)
  | error (slot level label cause : Nat)
  | holdFull (slot : Nat)
  deriving DecidableEq, Repr

/-- The path slot of an answer. -/
def Answer.slot (a : Answer) : Nat :=
  match a with
  | .data c _ _ => c
  | .ack c _ => c
  | .error c _ _ _ => c
  | .holdFull c => c

/-- What a release at DEV or CG carries (10_memory_ops R238, 17_fabric R328, R332): the instance it names, its die's component
of the vector clock and its number there, and the releases that its clock counts. -/
structure Stamp where
  inst : Nat
  key : Nat
  n : Nat
  vc : List (Nat × Nat)
  deriving DecidableEq, Repr

/-- One access of a line message: route offset bytes as given, size, data and comparand. -/
structure MsgAcc where
  addr : BitVec 64
  size : Nat
  data : Nat
  cmp : Nat
  deriving DecidableEq, Repr

/-- A request (17_fabric R325, R330, R333): its kind and accesses, of one line or, in a gather packet, of several; its issuing
module's pod label and die, the issuer's tag, its path slot, whether it is counted there and how many were before it; for an STO
or a release the four SENT values it carries, for a release at DEV or CG its stamp, and for an acquire the instance it names. -/
structure Request where
  kind : AccKind
  aop : AtomicOp
  accs : List MsgAcc
  srcPl : Nat
  srcDie : Nat
  op : Nat
  part : Nat
  slot : Nat
  counted : Bool
  ord : Nat
  counts : List Nat
  stamp : Option Stamp
  acq : Option Nat
  deriving DecidableEq, Repr

/-- What a fabric message carries (17_fabric R325, R326, R330). Seat-full notices and seat returns are those of 19_itinerary
R354, skips those of R331, and notes tell which releases have been applied (R332). `ord` is how many packets of the slot were counted
before a notice, or before the lost packet. -/
inductive MsgBody where
  | request (r : Request)
  | answer (die op part : Nat) (a : Answer)
  | seatFull (gradient : Bool) (seat count srcPl srcDie op slot ord : Nat) (counts : List Nat)
  | seatReturn (gradient : Bool) (srcPl srcDie op slot : Nat)
  | skip (srcPl srcDie slot ord : Nat)
  | note (clock : List (Nat × Nat))
  deriving DecidableEq, Repr

/-- A fabric message with its tenant, path label and hop index (17_fabric R325). -/
structure FabricMsg where
  tenant : Nat
  label : BitVec 12
  hop : Nat
  body : MsgBody
  deriving DecidableEq, Repr

/-- A flit that a link receives, with the messages whose last beat it carries (17_fabric R321). -/
structure FlitIn where
  flit : Flit
  msgs : List FabricMsg
  deriving DecidableEq, Repr

/-- The end of a link at which an ACK has not advanced: this one, or the far one (17_fabric R323). -/
structure LinkEnd where
  link : Nat
  far : Bool
  deriving DecidableEq, Repr

/-- The causal groups of a tenant that the fabric manager names (17_fabric R328): die, group and index, and the pod labels of the
group's other modules. -/
structure CausalGroups where
  dies : List (Nat × Nat × Nat)
  peers : List Nat
  deriving DecidableEq, Repr

/-- The host changes SELFPL: this module's, or that of the module that had a pod label (17_fabric R331). -/
inductive SelfplChange where
  | own (label : BitVec 12)
  | peer (pl : Nat)
  deriving DecidableEq, Repr

/-- The 32 bytes of a range entry (Table 9-4). -/
structure RangeImage where
  d0 : BitVec 64
  d1 : BitVec 64
  d2 : BitVec 64
  d3 : BitVec 64
  deriving DecidableEq, Repr

/-- TDISP states (Table 21-1). -/
inductive TdiState where
  | unlocked | locked | run | error
  deriving DecidableEq, Repr

/-- Life-cycle states (21_host_security R374). -/
inductive LifeCycle where
  | provision | secure | debug | retired
  deriving DecidableEq, Repr

/-- What the scrubber finds in a line (21_host_security R379). -/
inductive ScrubFinding where
  | clean | correctable | uncorrectable
  deriving DecidableEq, Repr

/-- An AtomicOp of the host on a location of the device (21_host_security R366): FetchAdd, Swap or CAS, of 4 or 8 bytes. -/
structure HostAtomic where
  op : AtomicOp
  size : Nat
  route : BitVec 64
  data : Nat
  cmp : Nat
  deriving DecidableEq, Repr

/-- A TLP of a TDI: outside its IDE stream, or inside it, where it may be an AtomicOp (21_host_security R366). -/
inductive HostTlp where
  | outside
  | inside (atomic : Option HostAtomic)
  deriving DecidableEq, Repr

/-- The clocks of a die (01_device R25). -/
inductive ClockPart where
  | arithmetic | crossbar | bridge | slice | base | link
  deriving DecidableEq, Repr

/-- What a control loop sets (21_host_security R377). -/
inductive LoopSetting where
  | clock (part : ClockPart) (mhz : Nat)
  | cool
  | equalisation (link n : Nat)
  | refresh (stack n : Nat)
  deriving DecidableEq, Repr

/-- Every row of the opcode table. -/
inductive Instr where
  | iadd (a : RArgs)
  | isub (a : RArgs)
  | imul (a : RArgs)
  | imulh (a : RArgs)
  | imulhu (a : RArgs)
  | imad (a : RArgs)
  | idp4 (a : RArgs)
  | idp4u (a : RArgs)
  | iand (a : RArgs)
  | ior (a : RArgs)
  | ixor (a : RArgs)
  | andn (a : RArgs)
  | shl (a : RArgs)
  | shr (a : RArgs)
  | sar (a : RArgs)
  | imin (a : RArgs)
  | imax (a : RArgs)
  | umin (a : RArgs)
  | umax (a : RArgs)
  | popc (a : RArgs)
  | clz (a : RArgs)
  | brev (a : RArgs)
  | bfx (a : RArgs)
  | bfi (a : RArgs)
  | sel (a : RArgs)
  | mov (a : RArgs)
  | add64 (a : RArgs)
  | sub64 (a : RArgs)
  | madw (a : RArgs)
  | shl64 (a : RArgs)
  | shr64 (a : RArgs)
  | iaddi (a : IArgs)
  | andi (a : IArgs)
  | ori (a : IArgs)
  | xori (a : IArgs)
  | shli (a : IArgs)
  | shri (a : IArgs)
  | sari (a : IArgs)
  | add64i (a : IArgs)
  | movi (a : IArgs)
  | icmp (a : PArgs)
  | icmp64 (a : PArgs)
  | fcmp (a : PArgs)
  | pand (a : RArgs)
  | por (a : RArgs)
  | pxor (a : RArgs)
  | pnot (a : RArgs)
  | ptov (a : RArgs)
  | vtop (a : RArgs)
  | shfq (a : RArgs)
  | shfg (a : RArgs)
  | vote (a : RArgs)
  | fadd (a : RArgs)
  | fsub (a : RArgs)
  | fmul (a : RArgs)
  | ffma (a : RArgs)
  | fmin (a : RArgs)
  | fmax (a : RArgs)
  | fabs (a : RArgs)
  | fneg (a : RArgs)
  | frcp (a : RArgs)
  | frsq (a : RArgs)
  | fsqrt (a : RArgs)
  | fexp2 (a : RArgs)
  | flog2 (a : RArgs)
  | ftanh (a : RArgs)
  | fscale (a : RArgs)
  | frnd (a : IArgs)
  | hadd2 (a : RArgs)
  | hmul2 (a : RArgs)
  | hfma2 (a : RArgs)
  | badd2 (a : RArgs)
  | bmul2 (a : RArgs)
  | bfma2 (a : RArgs)
  | cvt (a : IArgs)
  | packb2 (a : RArgs)
  | packh2 (a : RArgs)
  | unpkb2 (a : RArgs)
  | unpkh2 (a : RArgs)
  | pk4e4m3 (a : RArgs)
  | pk4e5m2 (a : RArgs)
  | pk8e2m1 (a : RArgs)
  | pk16e2m3 (a : RArgs)
  | pk16e3m2 (a : RArgs)
  | upk4e4m3 (a : RArgs)
  | upk4e5m2 (a : RArgs)
  | upk8e2m1 (a : RArgs)
  | upk16e2m3 (a : RArgs)
  | upk16e3m2 (a : RArgs)
  | vqdec (a : RArgs)
  | addm64 (a : RArgs)
  | subm64 (a : RArgs)
  | mulm64 (a : RArgs)
  | nttbf (a : RArgs)
  | ld8 (a : MArgs)
  | ld8s (a : MArgs)
  | ld16 (a : MArgs)
  | ld16s (a : MArgs)
  | ld32 (a : MArgs)
  | ld64 (a : MArgs)
  | ld128 (a : MArgs)
  | st8 (a : MArgs)
  | st16 (a : MArgs)
  | st32 (a : MArgs)
  | st64 (a : MArgs)
  | st128 (a : MArgs)
  | sto (a : MArgs)
  | ldaq (a : AArgs)
  | strl (a : AArgs)
  | axchg (a : AArgs)
  | acas (a : AArgs)
  | aadd (a : AArgs)
  | amin (a : AArgs)
  | amax (a : AArgs)
  | aand (a : AArgs)
  | aor (a : AArgs)
  | axor (a : AArgs)
  | afadd (a : AArgs)
  | axchg64 (a : AArgs)
  | acas64 (a : AArgs)
  | aadd64 (a : AArgs)
  | gld (a : RArgs)
  | gst (a : RArgs)
  | lds (a : MArgs)
  | sts (a : MArgs)
  | lds128 (a : MArgs)
  | sts128 (a : MArgs)
  | lset (a : MArgs)
  | lclr (a : MArgs)
  | ldp (a : MArgs)
  | stp (a : MArgs)
  | cpl4 (a : RArgs)
  | cpl8 (a : RArgs)
  | cpl16 (a : RArgs)
  | stn (a : MArgs)
  | rlq (a : MArgs)
  | fence (scope : BitVec 3) (kind : BitVec 2)
  | fencea (scope : BitVec 3) (paths : BitVec 4)
  | waitv (a c : BitVec 6) (cc : BitVec 3)
  | hfree (a : RArgs)
  | itout (a : RArgs)
  | itdone (a : RArgs)
  | br (a : BArgs)
  | brd (a : BArgs)
  | join (off : BitVec 16)
  | jmpr (a : BitVec 6)
  | call (slide : BitVec 5) (off : BitVec 16)
  | callr (slide : BitVec 5) (a : BitVec 6)
  | ret
  | regang (id : BitVec 8)
  | bara (b : BitVec 4)
  | barw (b : BitVec 4)
  | bars (b : BitVec 4)
  | cbars (id : BitVec 8)
  | fork (m c a : BitVec 6)
  | rdv
  | post (c : BitVec 6) (target : BitVec 2) (q : BitVec 6) (prio : BitVec 2)
  | exit
  | qfence (mask : BitVec 7)
  | idemb (live : BitVec 16)
  | ideme
  | trap (code : BitVec 3)
  | csrr (a : IArgs)
  | csrw (a : IArgs)
  | itld (a : LArgs)
  | itgo (a : LArgs)
  | itstop (a : LArgs)
  | itstat (a : IArgs)
  | nop
  | yield
  | rett (mode : BitVec 2)
  | scsrr (a : IArgs)
  | scsrw (a : IArgs)
  | rtset (a : LArgs)
  | dmset (a : LArgs)
  | rgset (a : LArgs)
  | mapx (a : LArgs)
  | unmapx (a : LArgs)
  | migx (a : LArgs)
  | preempt (a : LArgs)
  | ctxsv (a : LArgs)
  | ctxld (a : LArgs)
  | kmov (a : KArgs)
  | kadd (a : KArgs)
  | ksub (a : KArgs)
  | kmul (a : KArgs)
  | kand (a : KArgs)
  | kor (a : KArgs)
  | kshl (a : KArgs)
  | kshr (a : KArgs)
  | kcmp (a : KArgs)
  | kbr (a : KbrArgs)
  | kld (a : KArgs)
  | kst (a : KArgs)
  | kbara (a : KArgs)
  | kbarw (a : KArgs)
  | kend (a : KArgs)
  | tdef (a : KArgs)
  | mma (a : XArgs)
  | mmag (a : XArgs)
  | mmam (a : XArgs)
  | aclr (a : KArgs)
  | acst (a : KArgs)
  | acld (a : KArgs)
  | sxld (a : KArgs)
  | cbld (a : KArgs)
  | lrdef (a : KArgs)
  | cpt (a : KArgs)
  | cpto (a : KArgs)
  | cpr (a : KArgs)
  | cpmc (a : KArgs)
  | cpwt (a : KArgs)
  | clauseHeaderIssue
  | loadDataReturn (op : Nat)
  | storeAcknowledgement (op part : Nat)
  | homeAccessPerform (op part : Nat)
  | impreciseReportDelivery (wg quad : Nat)
  | waitvReadReturn (op : Nat)
  | stnNameWrite (op : Nat)
  | exitComplete (wg quad : Nat)
  | joinDecrement (n : Nat)
  | postRingSpace (wg quad : Nat)
  | cardAdmission (cluster : Nat) (cores : List Nat)
  | swapOutOnWait (unit : Nat)
  | swapSlotRetest (unit : Nat)
  | wakeTest (unit : Nat)
  | handlerEntry (wg : Nat)
  | terminationComplete (unit : Nat)
  | watchdogExpiry (unit : Nat)
  | hostPreemptRequest (target : PreemptTarget)
  | engineStopAck (wg : Nat) (engine : Engine)
  | preemptionSave (unit : Nat)
  | tileLineWrite (op line : Nat)
  | copyPerformed (op : Nat)
  | multicastDelivery (op core line : Nat)
  | laneCopyBatchComplete (op : Nat)
  | matrixOpComplete (op : Nat)
  | mmagGatherEnd (wg : Nat)
  | atsTranslationCompletion (op part : Nat) (answer : Translation)
  | priPageResponse (op part : Nat) (ok : Bool)
  | atsInvalidation (die tenant first last : Nat)
  | tableChangeDrained (wg quad : Nat)
  | mapxAtBaseDie (stack choice : Nat)
  | migrationLineCopy (stack slot : Nat)
  | migrationSwitch (stack slot : Nat)
  | flitReceived (link : Nat) (flit : FlitIn)
  | linkDownAckTimeout (link : LinkEnd)
  | linkReady (link : Nat)
  | fabricHop (link channel : Nat)
  | holdResend (n : Nat)
  | orderedPacketForward (n : Nat)
  | skipReceive (source die tenant slot : Nat)
  | remoteAnswerArrival (die op part : Nat) (answer : Answer)
  | remoteTimeoutExpiry (op part : Nat)
  | peerLost (tenant index : Nat) (mirror : Bool)
  | swapTableLoad (label : Nat) (entry : BitVec 64)
  | itineraryEntryStart
  | itineraryEntryClosed (entry : Nat)
  | seatFullNotice (source : Nat) (gradient : Bool) (seat count : Nat)
  | seatReturn (source : Nat) (gradient : Bool)
  | q5OperationPerformed (wg quad : Nat)
  | itstatWaitComplete (wg quad : Nat)
  | hostItineraryResume
  | hostItineraryClear
  | hostLaunch (tenant : Nat) (route : BitVec 64) (queue : BitVec 32) (prio : Nat)
  | hostRangeWrite (tenant index : Nat) (clear : Bool) (image : RangeImage)
  | setHypervisorTenant (tenant : Option Nat)
  | setSelfpl (tenant : Nat) (change : SelfplChange)
  | setGrants (tenant stack slFirst slCount xFirst xCount : Nat)
  | setFrameGrant (stack frame : Nat) (tenant : Option Nat)
  | setPoolLabel (tenant stack : Nat) (label : Option Nat)
  | setTenantwt (die tenant : Nat) (weight : BitVec 8)
  | setFtimeout (tenant cycles : Nat)
  | setAtomicWindow (die tenant index : Nat) (d0 d1 : BitVec 64)
  | setQueueRing (cluster prio : Nat) (base : BitVec 64) (size : Nat)
  | setErrorRing (base : BitVec 64) (size : Nat)
  | setPowerCap (watts : Nat)
  | hostTlpArrival (tdi : Option Nat) (tlp : HostTlp)
  | tdiStateChange (tdi : Nat) (target : TdiState)
  | keySet (tdi stack slot : Nat) (material : BitVec 512)
  | spdmMeasurementRequest (tdi : Option Nat) (nonce : BitVec 256)
  | lifeCycleChange (target : LifeCycle)
  | deviceReset
  | functionReady (bit : Nat)
  | thermalLimit (die : Nat)
  | scrubRead (stack line : Nat) (finding : ScrubFinding)
  | scrubWriteBack (stack : Nat)
  | rowActivationRefresh (stack bank row upset : Nat)
  | arithmeticClockTick (die : Nat)
  | crossbarCycle (die first choice : Nat)
  | migxAtBaseDie (stack choice : Nat)
  | acstLineWrite (op line : Nat)
  | tileReadComplete (op : Nat)
  | hfreePerformed (wg quad : Nat)
  | peerReturn (tenant index : Nat) (mirror : Bool)
  | setCausalGroups (tenant : Nat) (groups : CausalGroups)
  | controlLoopAdjust (die : Nat) (setting : LoopSetting)
  | readinessLost (bit : Nat)
  deriving DecidableEq, Repr

end Sys2Proof
end

