-- ==== Sys2Proof/WellFormed.lean ====
section
/-!
DEFINITION. Which field values each instruction allows (03_encoding R54 to R65 and the defining rule of each
instruction). A word whose fields decode to an instruction that is not well formed raises ILL_FIELD (R70).
-/
namespace Sys2Proof

/-- The kinds of operand field (07_quad_compute R146, 03_encoding R54). -/
inductive Kind where
  | any | pair | pred | zero
  | group (n : Nat)
  deriving DecidableEq, Repr

/-- Does a six-bit field hold a value of its kind (R54)? -/
def Kind.ok (k : Kind) (n : BitVec 6) : Bool :=
  match k with
  | .any => true
  | .pair => n.toNat % 2 == 0
  | .pred => n.toNat < 24
  | .zero => n.toNat == 0
  | .group g => n.toNat % 2 == 0 && n.toNat + g ≤ 64

/-- Does a B field hold a source of its kind? v63 cannot be a B source (R55). -/
def Kind.srcOk (k : Kind) (s : Src) : Bool :=
  match s with
  | .reg n => n.toNat != 63 && k.ok n
  | .lit _ => k == .any || k == .pair

/-- A guard field: GP of 24-30, or GN with GP 31, is illegal (R57). -/
def guardOk (gn : Bool) (gp : BitVec 5) : Bool :=
  gp.toNat < 24 || (gp.toNat == 31 && !gn)

/-- R format with the kinds of its three fields (R57). -/
def RArgs.ok (r : RArgs) (kd ka kb : Kind) : Bool :=
  kd.ok r.d && ka.ok r.a && kb.srcOk r.b && guardOk r.gn r.gp

/-- I format (R58). -/
def IArgs.ok (r : IArgs) (kd ka : Kind) (immOk : Nat → Bool) : Bool :=
  kd.ok r.d && ka.ok r.a && immOk r.imm.toNat

/-- P format: PD of 24-31 is illegal (R59). -/
def PArgs.ok (r : PArgs) (k : Kind) : Bool :=
  r.pd.toNat < 24 && k.ok r.a && k.srcOk r.b

/-- M format (R60). -/
def MArgs.ok (r : MArgs) (kd ka : Kind) : Bool := kd.ok r.d && ka.ok r.a

/-- A format: a SCOPE of 6 or 7 is illegal, and so is an ORD that the row does not allow (R61, 10_memory_ops R241). -/
def AArgs.ok (r : AArgs) (kd kb : Kind) (ords : List Nat) : Bool :=
  kd.ok r.d && r.a.toNat % 2 == 0 && kb.ok r.b && r.scope.toNat < 6 && ords.contains r.ord.toNat

/-- The condition fields of the B format (R62). -/
def BArgs.ok (r : BArgs) (modes : Nat) : Bool :=
  guardOk r.pn r.p && r.mode.toNat < modes

/-- Kinds of the K fields (R64, 14_copy R276). -/
inductive KKind where
  | k | zero | low3
  deriving DecidableEq, Repr

/-- Does a five-bit field hold a value of its kind? -/
def KKind.ok (k : KKind) (n : BitVec 5) : Bool :=
  match k with
  | .k => true
  | .zero => n.toNat == 0
  | .low3 => n.toNat < 8

/-- How a K form uses its second source: not at all, a register only, or a register or a literal. -/
inductive KbKind where
  | zero | reg | regLit
  deriving DecidableEq, Repr

/-- Does the second source suit the form (R55, R276)? -/
def KbKind.ok (k : KbKind) (s : KSrc) : Bool :=
  match k, s with
  | .zero, .k n => n.toNat == 0
  | .zero, .lit _ => false
  | .reg, .k _ => true
  | .reg, .lit _ => false
  | .regLit, _ => true

/-- K format (R64). -/
def KArgs.ok (r : KArgs) (kd ka : KKind) (kb : KbKind) (immOk : Nat → Bool) : Bool :=
  kd.ok r.kd && ka.ok r.ka && kb.ok r.kb && immOk r.imm.toNat

/-- X format: SSTEP of 11 is illegal (R65). -/
def XArgs.ok (r : XArgs) : Bool := r.sstep.toNat != 3

/-- C formats of registers. -/
def LArgs.ok (r : LArgs) (kd ka kb : Kind) : Bool := kd.ok r.d && ka.ok r.a && kb.ok r.b

/-- Fields of ITSTAT: SEL of 8 or more, bits [11:9], or WAIT with a SEL other than 0 and 1 are illegal; A must be 0 when
the selector does not read v[A] (19_itinerary R357). -/
def itstatOk (r : IArgs) : Bool :=
  let imm := r.imm.toNat
  let sel := imm % 256
  let wait := bit imm 8
  sel < 8 && imm / 512 == 0 && (!wait || sel < 2) &&
    (r.a.toNat == 0 || (sel == 1 && wait) || sel == 6 || sel == 7)

/-- Is every field of the instruction legal? Events have no fields that a word could get wrong. An odd A of GLD and GST is
accepted, since R243 gives A the kind r (log entry 66). -/
def Instr.wellFormed : Instr → Bool
  | .iadd a => a.ok .any .any .any
  | .isub a => a.ok .any .any .any
  | .imul a => a.ok .any .any .any
  | .imulh a => a.ok .any .any .any
  | .imulhu a => a.ok .any .any .any
  | .imad a => a.ok .any .any .any
  | .idp4 a => a.ok .any .any .any
  | .idp4u a => a.ok .any .any .any
  | .iand a => a.ok .any .any .any
  | .ior a => a.ok .any .any .any
  | .ixor a => a.ok .any .any .any
  | .andn a => a.ok .any .any .any
  | .shl a => a.ok .any .any .any
  | .shr a => a.ok .any .any .any
  | .sar a => a.ok .any .any .any
  | .imin a => a.ok .any .any .any
  | .imax a => a.ok .any .any .any
  | .umin a => a.ok .any .any .any
  | .umax a => a.ok .any .any .any
  | .popc a => a.ok .any .any .zero
  | .clz a => a.ok .any .any .zero
  | .brev a => a.ok .any .any .zero
  | .bfx a => a.ok .any .any .any
  | .bfi a => a.ok .any .any .any
  | .sel a => a.ok .any .any .any
  | .mov a => a.ok .any .zero .any
  | .add64 a => a.ok .pair .pair .pair
  | .sub64 a => a.ok .pair .pair .pair
  | .madw a => a.ok .pair .any .any
  | .shl64 a => a.ok .pair .pair .any
  | .shr64 a => a.ok .pair .pair .any
  | .iaddi a => a.ok .any .any (fun _ => true)
  | .andi a => a.ok .any .any (fun _ => true)
  | .ori a => a.ok .any .any (fun _ => true)
  | .xori a => a.ok .any .any (fun _ => true)
  | .shli a => a.ok .any .any (· < 32)
  | .shri a => a.ok .any .any (· < 32)
  | .sari a => a.ok .any .any (· < 32)
  | .add64i a => a.ok .pair .pair (fun _ => true)
  | .movi a => a.ok .any .zero (fun _ => true)
  | .icmp a => a.ok .any
  | .icmp64 a => a.ok .pair
  | .fcmp a => a.ok .any
  | .pand a => a.ok .pred .pred .pred
  | .por a => a.ok .pred .pred .pred
  | .pxor a => a.ok .pred .pred .pred
  | .pnot a => a.ok .pred .pred .zero
  | .ptov a => a.ok .any .pred .zero
  | .vtop a => a.ok .pred .any .zero
  | .shfq a => a.ok .any .any .any
  | .shfg a => a.ok .any .any .any
  | .vote a => a.ok .any .any .zero
  | .fadd a => a.ok .any .any .any
  | .fsub a => a.ok .any .any .any
  | .fmul a => a.ok .any .any .any
  | .ffma a => a.ok .any .any .any
  | .fmin a => a.ok .any .any .any
  | .fmax a => a.ok .any .any .any
  | .fabs a => a.ok .any .any .zero
  | .fneg a => a.ok .any .any .zero
  | .frcp a => a.ok .any .any .zero
  | .frsq a => a.ok .any .any .zero
  | .fsqrt a => a.ok .any .any .zero
  | .fexp2 a => a.ok .any .any .zero
  | .flog2 a => a.ok .any .any .zero
  | .ftanh a => a.ok .any .any .zero
  | .fscale a => a.ok .any .any .any
  | .frnd a => a.ok .any .any (· < 4)
  | .hadd2 a => a.ok .any .any .any
  | .hmul2 a => a.ok .any .any .any
  | .hfma2 a => a.ok .any .any .any
  | .badd2 a => a.ok .any .any .any
  | .bmul2 a => a.ok .any .any .any
  | .bfma2 a => a.ok .any .any .any
  | .cvt a => a.ok .any .any (fun i => i % 16 < 14 && i / 16 % 16 < 14 && i < 2048)
  | .packb2 a => a.ok .any .any .any
  | .packh2 a => a.ok .any .any .any
  | .unpkb2 a => a.ok .pair .any .zero
  | .unpkh2 a => a.ok .pair .any .zero
  | .pk4e4m3 a => a.ok .any (.group 4) .zero
  | .pk4e5m2 a => a.ok .any (.group 4) .zero
  | .pk8e2m1 a => a.ok .any (.group 8) .zero
  | .pk16e2m3 a => a.ok (.group 3) (.group 16) .zero
  | .pk16e3m2 a => a.ok (.group 3) (.group 16) .zero
  | .upk4e4m3 a => a.ok (.group 4) .any .zero
  | .upk4e5m2 a => a.ok (.group 4) .any .zero
  | .upk8e2m1 a => a.ok (.group 8) .any .zero
  | .upk16e2m3 a => a.ok (.group 16) (.group 3) .zero
  | .upk16e3m2 a => a.ok (.group 16) (.group 3) .zero
  | .vqdec a => a.ok (.group 4) .any .zero
  | .addm64 a => a.ok .pair .pair .pair
  | .subm64 a => a.ok .pair .pair .pair
  | .mulm64 a => a.ok .pair .pair .pair
  | .nttbf a => a.ok .pair .pair .pair && a.d != a.a
  | .ld8 a => a.ok .any .pair
  | .ld8s a => a.ok .any .pair
  | .ld16 a => a.ok .any .pair
  | .ld16s a => a.ok .any .pair
  | .ld32 a => a.ok .any .pair
  | .ld64 a => a.ok .pair .pair
  | .ld128 a => a.ok (.group 4) .pair
  | .st8 a => a.ok .any .pair
  | .st16 a => a.ok .any .pair
  | .st32 a => a.ok .any .pair
  | .st64 a => a.ok .pair .pair
  | .st128 a => a.ok (.group 4) .pair
  | .sto a => a.ok .any .pair
  | .ldaq a => a.ok .any .zero [0, 1]
  | .strl a => a.ok .any .zero [0, 2]
  | .axchg a => a.ok .any .any [0, 1, 2, 3]
  | .acas a => a.ok .any .any [0, 1, 2, 3]
  | .aadd a => a.ok .any .any [0, 1, 2, 3]
  | .amin a => a.ok .any .any [0, 1, 2, 3]
  | .amax a => a.ok .any .any [0, 1, 2, 3]
  | .aand a => a.ok .any .any [0, 1, 2, 3]
  | .aor a => a.ok .any .any [0, 1, 2, 3]
  | .axor a => a.ok .any .any [0, 1, 2, 3]
  | .afadd a => a.ok .any .any [0, 1, 2, 3]
  | .axchg64 a => a.ok .pair .pair [0, 1, 2, 3]
  | .acas64 a => a.ok .pair .pair [0, 1, 2, 3]
  | .aadd64 a => a.ok .pair .pair [0, 1, 2, 3]
  | .gld a => a.ok .any .any .any
  | .gst a => a.ok .any .any .any
  | .lds a => a.ok .any .any
  | .sts a => a.ok .any .any
  | .lds128 a => a.ok (.group 4) .any
  | .sts128 a => a.ok (.group 4) .any
  | .lset a => a.ok .zero .any
  | .lclr a => a.ok .zero .any
  | .ldp a => a.ok .any .any
  | .stp a => a.ok .any .any
  | .cpl4 a => a.ok .any .pair .zero
  | .cpl8 a => a.ok .any .pair .zero
  | .cpl16 a => a.ok .any .pair .zero
  | .stn a => a.ok (.group 8) .pair && a.off.toNat == 0
  | .rlq a => a.ok .zero .pair && a.off.toNat == 0 && a.la.toNat == 0
  | .fence scope kind => scope.toNat < 6 && kind.toNat != 3
  | .fencea scope paths => scope.toNat < 6 && (paths.toNat == 0 || 3 ≤ scope.toNat)
  | .waitv a _ _ => Kind.ok .pair a
  | .hfree a => a.ok .pair .any .zero
  | .itout a => a.ok .zero .pair .any
  | .itdone a => a.ok .zero .zero .any
  | .br a => a.ok 3
  | .brd a => a.ok 1
  | .join _ => true
  | .jmpr a => Kind.ok .pair a
  | .call slide _ => slide.toNat != 0
  | .callr slide a => slide.toNat != 0 && Kind.ok .pair a
  | .ret => true
  | .regang _ => true
  | .bara _ => true
  | .barw _ => true
  | .bars _ => true
  | .cbars _ => true
  | .fork m c a => Kind.ok .pair m && (c.toNat == 63 || Kind.ok .pair c) && Kind.ok .pair a
  | .rdv => true
  | .post c target q _ => Kind.ok .pair c && (target.toNat == 3 || q.toNat == 0)
  | .exit => true
  | .qfence mask => mask.toNat != 0
  | .idemb _ => true
  | .ideme => true
  | .trap _ => true
  | .csrr a => a.ok .any .zero (fun _ => true)
  | .csrw a => a.ok .zero .any (fun _ => true)
  | .itld a => a.ok .any .pair .zero
  | .itgo a => a.ok .any .zero .zero
  | .itstop a => a.ok .any .zero .zero
  | .itstat a => Kind.ok .pair a.d && itstatOk a
  | .nop => true
  | .yield => true
  | .rett mode => mode.toNat != 3
  | .scsrr a => a.ok .any .zero (fun _ => true)
  | .scsrw a => a.ok .zero .any (fun _ => true)
  | .rtset a => a.ok .any .pair .any
  | .dmset a => a.ok .any .pair .any
  | .rgset a => a.ok .any .pair .any
  | .mapx a => a.ok .zero .pair .pair
  | .unmapx a => a.ok .any .zero .any
  | .migx a => a.ok .zero .pair .pair
  | .preempt a => a.ok .any .any .zero
  | .ctxsv a => a.ok .any .pair .zero
  | .ctxld a => a.ok .any .pair .zero
  | .kmov a => a.ok .k .zero .regLit (· == 0)
  | .kadd a => a.ok .k .k .regLit (· == 0)
  | .ksub a => a.ok .k .k .regLit (· == 0)
  | .kmul a => a.ok .k .k .regLit (· == 0)
  | .kand a => a.ok .k .k .regLit (· == 0)
  | .kor a => a.ok .k .k .regLit (· == 0)
  | .kshl a => a.ok .k .k .regLit (· == 0)
  | .kshr a => a.ok .k .k .regLit (· == 0)
  | .kcmp a => a.ok .low3 .k .regLit (· < 32)
  | .kbr _ => true
  | .kld a => a.ok .k .k .zero (fun _ => true)
  | .kst a => a.ok .zero .k .regLit (fun _ => true)
  | .kbara a => a.ok .zero .zero .zero (· < 16)
  | .kbarw a => a.ok .zero .zero .zero (· < 16)
  | .kend a => a.ok .zero .zero .zero (· == 0)
  | .tdef a => a.ok .zero .k .zero (· < 64)
  | .mma a => a.ok && a.ti.toNat == 0
  | .mmag a => a.ok
  | .mmam a => a.kf.toNat != 31 && a.sa.toNat == 0 && a.ba.toNat == 0 && a.sb.toNat == 0 && a.bb.toNat == 0 &&
      a.sstep.toNat == 0 && a.ti.toNat == 0
  | .aclr a => a.ok .low3 .zero .zero (· < 3)
  | .acst a => a.ok .low3 .zero .reg (· < 64)
  | .acld a => a.ok .low3 .zero .reg (fun _ => true)
  | .sxld a => a.ok .low3 .zero .regLit (· < 64)
  | .cbld a => a.ok .zero .zero .zero (· < 64)
  | .lrdef a => a.ok .low3 .k .zero (· < 2) && (a.imm.toNat == 1 || a.ka.toNat % 4 == 0)
  | .cpt a => a.ok .low3 .k .zero (· < 64)
  | .cpto a => a.ok .low3 .k .zero (· < 128)
  | .cpr a => a.ok .low3 .k .zero (· < 128)
  | .cpmc a => a.ok .zero .k .zero (· < 64)
  | .cpwt a => a.ok .k .zero .zero (fun _ => true)
  | .clauseHeaderIssue => true
  | .loadDataReturn _ => true
  | .storeAcknowledgement _ _ => true
  | .homeAccessPerform _ _ => true
  | .impreciseReportDelivery _ _ => true
  | .waitvReadReturn _ => true
  | .stnNameWrite _ => true
  | .exitComplete _ _ => true
  | .joinDecrement _ => true
  | .postRingSpace _ _ => true
  | .cardAdmission _ _ => true
  | .swapOutOnWait _ => true
  | .swapSlotRetest _ => true
  | .wakeTest _ => true
  | .handlerEntry _ => true
  | .terminationComplete _ => true
  | .watchdogExpiry _ => true
  | .hostPreemptRequest _ => true
  | .engineStopAck _ _ => true
  | .preemptionSave _ => true
  | .tileLineWrite _ _ => true
  | .copyPerformed _ => true
  | .multicastDelivery _ _ _ => true
  | .laneCopyBatchComplete _ => true
  | .matrixOpComplete _ => true
  | .mmagGatherEnd _ => true
  | .atsTranslationCompletion _ _ _ => true
  | .priPageResponse _ _ _ => true
  | .atsInvalidation _ _ _ _ => true
  | .tableChangeDrained _ _ => true
  | .mapxAtBaseDie _ _ => true
  | .migrationLineCopy _ _ => true
  | .migrationSwitch _ _ => true
  | .flitReceived _ _ => true
  | .linkDownAckTimeout _ => true
  | .linkReady _ => true
  | .fabricHop _ _ => true
  | .holdResend _ => true
  | .orderedPacketForward _ => true
  | .skipReceive _ _ _ _ => true
  | .remoteAnswerArrival _ _ _ _ => true
  | .remoteTimeoutExpiry _ _ => true
  | .peerLost _ _ _ => true
  | .swapTableLoad _ _ => true
  | .itineraryEntryStart => true
  | .itineraryEntryClosed _ => true
  | .seatFullNotice _ _ _ _ => true
  | .seatReturn _ _ => true
  | .q5OperationPerformed _ _ => true
  | .itstatWaitComplete _ _ => true
  | .hostItineraryResume => true
  | .hostItineraryClear => true
  | .hostLaunch _ _ _ _ => true
  | .hostRangeWrite _ _ _ _ => true
  | .setHypervisorTenant _ => true
  | .setSelfpl _ _ => true
  | .setGrants _ _ _ _ _ _ => true
  | .setFrameGrant _ _ _ => true
  | .setPoolLabel _ _ _ => true
  | .setTenantwt _ _ _ => true
  | .setFtimeout _ _ => true
  | .setAtomicWindow _ _ _ _ _ => true
  | .setQueueRing _ _ _ _ => true
  | .setErrorRing _ _ => true
  | .setPowerCap _ => true
  | .hostTlpArrival _ _ => true
  | .tdiStateChange _ _ => true
  | .keySet _ _ _ _ => true
  | .spdmMeasurementRequest _ _ => true
  | .lifeCycleChange _ => true
  | .deviceReset => true
  | .functionReady _ => true
  | .thermalLimit _ => true
  | .scrubRead _ _ _ => true
  | .scrubWriteBack _ => true
  | .rowActivationRefresh _ _ _ _ => true
  | .arithmeticClockTick _ => true
  | .crossbarCycle _ _ _ => true
  | .migxAtBaseDie _ _ => true
  | .acstLineWrite _ _ => true
  | .tileReadComplete _ => true
  | .hfreePerformed _ _ => true
  | .peerReturn _ _ _ => true
  | .setCausalGroups _ _ => true
  | .controlLoopAdjust _ _ => true
  | .readinessLost _ => true

/-- Does the row have an encoding, or is it an event (95_what_each_step_holds.md)? -/
def Instr.isWord : Instr → Bool
  | .clauseHeaderIssue => false
  | .loadDataReturn _ => false
  | .storeAcknowledgement _ _ => false
  | .homeAccessPerform _ _ => false
  | .impreciseReportDelivery _ _ => false
  | .waitvReadReturn _ => false
  | .stnNameWrite _ => false
  | .exitComplete _ _ => false
  | .joinDecrement _ => false
  | .postRingSpace _ _ => false
  | .cardAdmission _ _ => false
  | .swapOutOnWait _ => false
  | .swapSlotRetest _ => false
  | .wakeTest _ => false
  | .handlerEntry _ => false
  | .terminationComplete _ => false
  | .watchdogExpiry _ => false
  | .hostPreemptRequest _ => false
  | .engineStopAck _ _ => false
  | .preemptionSave _ => false
  | .tileLineWrite _ _ => false
  | .copyPerformed _ => false
  | .multicastDelivery _ _ _ => false
  | .laneCopyBatchComplete _ => false
  | .matrixOpComplete _ => false
  | .mmagGatherEnd _ => false
  | .atsTranslationCompletion _ _ _ => false
  | .priPageResponse _ _ _ => false
  | .atsInvalidation _ _ _ _ => false
  | .tableChangeDrained _ _ => false
  | .mapxAtBaseDie _ _ => false
  | .migrationLineCopy _ _ => false
  | .migrationSwitch _ _ => false
  | .flitReceived _ _ => false
  | .linkDownAckTimeout _ => false
  | .linkReady _ => false
  | .fabricHop _ _ => false
  | .holdResend _ => false
  | .orderedPacketForward _ => false
  | .skipReceive _ _ _ _ => false
  | .remoteAnswerArrival _ _ _ _ => false
  | .remoteTimeoutExpiry _ _ => false
  | .peerLost _ _ _ => false
  | .swapTableLoad _ _ => false
  | .itineraryEntryStart => false
  | .itineraryEntryClosed _ => false
  | .seatFullNotice _ _ _ _ => false
  | .seatReturn _ _ => false
  | .q5OperationPerformed _ _ => false
  | .itstatWaitComplete _ _ => false
  | .hostItineraryResume => false
  | .hostItineraryClear => false
  | .hostLaunch _ _ _ _ => false
  | .hostRangeWrite _ _ _ _ => false
  | .setHypervisorTenant _ => false
  | .setSelfpl _ _ => false
  | .setGrants _ _ _ _ _ _ => false
  | .setFrameGrant _ _ _ => false
  | .setPoolLabel _ _ _ => false
  | .setTenantwt _ _ _ => false
  | .setFtimeout _ _ => false
  | .setAtomicWindow _ _ _ _ _ => false
  | .setQueueRing _ _ _ _ => false
  | .setErrorRing _ _ => false
  | .setPowerCap _ => false
  | .hostTlpArrival _ _ => false
  | .tdiStateChange _ _ => false
  | .keySet _ _ _ _ => false
  | .spdmMeasurementRequest _ _ => false
  | .lifeCycleChange _ => false
  | .deviceReset => false
  | .functionReady _ => false
  | .thermalLimit _ => false
  | .scrubRead _ _ _ => false
  | .scrubWriteBack _ => false
  | .rowActivationRefresh _ _ _ _ => false
  | .arithmeticClockTick _ => false
  | .crossbarCycle _ _ _ => false
  | .migxAtBaseDie _ _ => false
  | .acstLineWrite _ _ => false
  | .tileReadComplete _ => false
  | .hfreePerformed _ _ => false
  | .peerReturn _ _ _ => false
  | .setCausalGroups _ _ => false
  | .controlLoopAdjust _ _ => false
  | .readinessLost _ => false
  | _ => true

end Sys2Proof
end

