-- ==== Sys2Proof/Decode.lean ====
section
/-!
DEFINITION. From words to instructions and back: the opcode map of Table 3-13 and the formats of 03_encoding R57 to R65.
Decoding is total; it refuses by name, and leaves to `Instr.wellFormed` the field values that a format can hold but an
instruction forbids.
-/
namespace Sys2Proof

/-- Why a word is no instruction: ILL_OP (R73), a literal or second word past the clause (R48), a reserved field (R56). -/
inductive DecErr where
  | illOp | short | illField
  deriving DecidableEq, Repr

/-- The classes of a clause header (Table 3-1). -/
inductive Class where
  | alu | mem | ctrl | sys | mtx | cpy
  deriving DecidableEq, Repr

/-- The `n` bits of a word from bit `lo` up. -/
def fld (w lo n : Nat) : BitVec n := BitVec.ofNat n (w / 2 ^ lo)

/-- How the words of one opcode are read: the format and the constructor it fills. For R and K, whether a literal may
stand for B or KB. -/
inductive Form where
  | r (lit : Bool) (mk : RArgs → Instr)
  | i (mk : IArgs → Instr)
  | p (mk : PArgs → Instr)
  | m (mk : MArgs → Instr)
  | a (mk : AArgs → Instr)
  | b (mk : BArgs → Instr)
  | k (lit : Bool) (mk : KArgs → Instr)
  | kbr (mk : KbrArgs → Instr)
  | x (mk : XArgs → Instr)
  | l (mk : LArgs → Instr)
  | c (mk : Nat → Option Instr)

/-- Row 0_ of the opcode map (Table 3-13). -/
def opRow0 : List (Option Form) := [
  none,
  some (.r true .iadd),
  some (.r true .isub),
  some (.r true .imul),
  some (.r true .imulh),
  some (.r true .imulhu),
  some (.r true .imad),
  some (.r true .idp4),
  some (.r true .idp4u),
  some (.r true .iand),
  some (.r true .ior),
  some (.r true .ixor),
  some (.r true .andn),
  some (.r true .shl),
  some (.r true .shr),
  some (.r true .sar)]

/-- Row 1_ of the opcode map (Table 3-13). -/
def opRow1 : List (Option Form) := [
  some (.r true .imin),
  some (.r true .imax),
  some (.r true .umin),
  some (.r true .umax),
  some (.r false .popc),
  some (.r false .clz),
  some (.r false .brev),
  some (.r true .bfx),
  some (.r true .bfi),
  some (.r true .sel),
  some (.r true .mov),
  some (.r true .add64),
  some (.r true .sub64),
  some (.r true .madw),
  some (.r true .shl64),
  some (.r true .shr64)]

/-- Row 2_ of the opcode map (Table 3-13). -/
def opRow2 : List (Option Form) := [
  some (.i .iaddi),
  some (.i .andi),
  some (.i .ori),
  some (.i .xori),
  some (.i .shli),
  some (.i .shri),
  some (.i .sari),
  some (.i .add64i),
  some (.i .movi)]

/-- Row 3_ of the opcode map (Table 3-13). -/
def opRow3 : List (Option Form) := [
  some (.p .icmp),
  some (.p .icmp64),
  some (.p .fcmp),
  some (.r false .pand),
  some (.r false .por),
  some (.r false .pxor),
  some (.r false .pnot),
  some (.r false .ptov),
  some (.r false .vtop),
  some (.r true .shfq),
  some (.r true .shfg),
  some (.r false .vote)]

/-- Row 4_ of the opcode map (Table 3-13). -/
def opRow4 : List (Option Form) := [
  some (.r true .fadd),
  some (.r true .fsub),
  some (.r true .fmul),
  some (.r true .ffma),
  some (.r true .fmin),
  some (.r true .fmax),
  some (.r false .fabs),
  some (.r false .fneg),
  some (.r false .frcp),
  some (.r false .frsq),
  some (.r false .fsqrt),
  some (.r false .fexp2),
  some (.r false .flog2),
  some (.r false .ftanh),
  some (.r true .fscale),
  some (.i .frnd)]

/-- Row 5_ of the opcode map (Table 3-13). -/
def opRow5 : List (Option Form) := [
  some (.r true .hadd2),
  some (.r true .hmul2),
  some (.r true .hfma2),
  some (.r true .badd2),
  some (.r true .bmul2),
  some (.r true .bfma2),
  none,
  none,
  some (.i .cvt),
  some (.r true .packb2),
  some (.r true .packh2),
  some (.r false .unpkb2),
  some (.r false .unpkh2),
  some (.r false .pk4e4m3),
  some (.r false .pk4e5m2),
  some (.r false .pk8e2m1)]

/-- Row 6_ of the opcode map (Table 3-13). -/
def opRow6 : List (Option Form) := [
  some (.r false .pk16e2m3),
  some (.r false .pk16e3m2),
  some (.r false .upk4e4m3),
  some (.r false .upk4e5m2),
  some (.r false .upk8e2m1),
  some (.r false .upk16e2m3),
  some (.r false .upk16e3m2),
  some (.r false .vqdec),
  some (.r true .addm64),
  some (.r true .subm64),
  some (.r true .mulm64),
  some (.r true .nttbf)]

/-- Row 7_ of the opcode map (Table 3-13). -/
def opRow7 : List (Option Form) := [
]

/-- Row 8_ of the opcode map (Table 3-13). -/
def opRow8 : List (Option Form) := [
  some (.m .ld8),
  some (.m .ld8s),
  some (.m .ld16),
  some (.m .ld16s),
  some (.m .ld32),
  some (.m .ld64),
  some (.m .ld128),
  some (.m .st8),
  some (.m .st16),
  some (.m .st32),
  some (.m .st64),
  some (.m .st128),
  some (.m .sto),
  some (.a .ldaq),
  some (.a .strl),
  some (.a .axchg)]

/-- Row 9_ of the opcode map (Table 3-13). -/
def opRow9 : List (Option Form) := [
  some (.a .acas),
  some (.a .aadd),
  some (.a .amin),
  some (.a .amax),
  some (.a .aand),
  some (.a .aor),
  some (.a .axor),
  some (.a .afadd),
  some (.a .axchg64),
  some (.a .acas64),
  some (.a .aadd64),
  some (.r true .gld),
  some (.r true .gst),
  some (.m .lds),
  some (.m .sts),
  some (.m .lds128)]

/-- Row A_ of the opcode map (Table 3-13). -/
def opRowA : List (Option Form) := [
  some (.m .sts128),
  some (.m .lset),
  some (.m .lclr),
  some (.m .ldp),
  some (.m .stp),
  some (.r false .cpl4),
  some (.r false .cpl8),
  some (.r false .cpl16),
  some (.m .stn),
  some (.m .rlq),
  some (.c (fun n => if n % 2 ^ 19 = 0 then some (.fence (fld n 21 3) (fld n 19 2)) else none)),
  some (.c (fun n => if n % 2 ^ 17 = 0 then some (.fencea (fld n 21 3) (fld n 17 4)) else none)),
  some (.c (fun n => if n % 2 ^ 9 = 0 then some (.waitv (fld n 18 6) (fld n 12 6) (fld n 9 3)) else none)),
  some (.r false .hfree),
  some (.r true .itout),
  some (.r true .itdone)]

/-- Row B_ of the opcode map (Table 3-13). -/
def opRowB : List (Option Form) := [
  some (.b .br),
  some (.b .brd),
  some (.c (fun n => if n / 2 ^ 16 % 2 ^ 8 = 0 then some (.join (fld n 0 16)) else none)),
  some (.c (fun n => if n % 2 ^ 18 = 0 then some (.jmpr (fld n 18 6)) else none)),
  some (.c (fun n => if n / 2 ^ 16 % 2 ^ 3 = 0 then some (.call (fld n 19 5) (fld n 0 16)) else none)),
  some (.c (fun n => if n / 2 ^ 18 % 2 = 0 && n % 2 ^ 12 = 0 then some (.callr (fld n 19 5) (fld n 12 6)) else none)),
  some (.c (fun n => if n % 2 ^ 24 = 0 then some .ret else none)),
  some (.c (fun n => if n % 2 ^ 16 = 0 then some (.regang (fld n 16 8)) else none)),
  some (.c (fun n => if n % 2 ^ 20 = 0 then some (.bara (fld n 20 4)) else none)),
  some (.c (fun n => if n % 2 ^ 20 = 0 then some (.barw (fld n 20 4)) else none)),
  some (.c (fun n => if n % 2 ^ 20 = 0 then some (.bars (fld n 20 4)) else none)),
  some (.c (fun n => if n % 2 ^ 16 = 0 then some (.cbars (fld n 16 8)) else none)),
  some (.c (fun n => if n % 2 ^ 6 = 0 then some (.fork (fld n 18 6) (fld n 12 6) (fld n 6 6)) else none)),
  some (.c (fun n => if n % 2 ^ 24 = 0 then some .rdv else none)),
  some (.c (fun n => if n % 2 ^ 8 = 0 then some (.post (fld n 18 6) (fld n 16 2) (fld n 10 6) (fld n 8 2)) else none)),
  some (.c (fun n => if n % 2 ^ 24 = 0 then some .exit else none))]

/-- Row C_ of the opcode map (Table 3-13). -/
def opRowC : List (Option Form) := [
  some (.c (fun n => if n % 2 ^ 17 = 0 then some (.qfence (fld n 17 7)) else none)),
  some (.c (fun n => if n % 2 ^ 8 = 0 then some (.idemb (fld n 8 16)) else none)),
  some (.c (fun n => if n % 2 ^ 24 = 0 then some .ideme else none)),
  some (.c (fun n => if n % 2 ^ 21 = 0 then some (.trap (fld n 21 3)) else none)),
  some (.i .csrr),
  some (.i .csrw),
  some (.l .itld),
  some (.l .itgo),
  some (.l .itstop),
  some (.i .itstat),
  some (.c (fun n => if n % 2 ^ 24 = 0 then some .nop else none)),
  some (.c (fun n => if n % 2 ^ 24 = 0 then some .yield else none))]

/-- Row D_ of the opcode map (Table 3-13). -/
def opRowD : List (Option Form) := [
  some (.c (fun n => if n % 2 ^ 22 = 0 then some (.rett (fld n 22 2)) else none)),
  some (.i .scsrr),
  some (.i .scsrw),
  some (.l .rtset),
  some (.l .dmset),
  some (.l .rgset),
  some (.l .mapx),
  some (.l .unmapx),
  some (.l .migx),
  some (.l .preempt),
  some (.l .ctxsv),
  some (.l .ctxld)]

/-- Row E_ of the opcode map (Table 3-13). -/
def opRowE : List (Option Form) := [
  some (.k true .kmov),
  some (.k true .kadd),
  some (.k true .ksub),
  some (.k true .kmul),
  some (.k true .kand),
  some (.k true .kor),
  some (.k true .kshl),
  some (.k true .kshr),
  some (.k true .kcmp),
  some (.kbr .kbr),
  some (.k false .kld),
  some (.k true .kst),
  some (.k false .kbara),
  some (.k false .kbarw),
  some (.k false .kend),
  some (.k false .tdef)]

/-- Row F_ of the opcode map (Table 3-13). -/
def opRowF : List (Option Form) := [
  some (.x .mma),
  some (.x .mmag),
  some (.x .mmam),
  some (.k false .aclr),
  some (.k false .acst),
  some (.k false .acld),
  some (.k true .sxld),
  some (.k false .cbld),
  some (.k false .lrdef),
  some (.k false .cpt),
  some (.k false .cpto),
  some (.k false .cpr),
  some (.k false .cpmc),
  some (.k false .cpwt)]

/-- The opcode map (Table 3-13). -/
def opRows : List (List (Option Form)) :=
  [opRow0, opRow1, opRow2, opRow3, opRow4, opRow5, opRow6, opRow7, opRow8, opRow9, opRowA, opRowB, opRowC, opRowD,
   opRowE, opRowF]

/-- The form of an opcode, or nothing where it is unassigned (R73). -/
def formOf (op : Nat) : Option Form := ((opRows.getD (op / 16) []).getD (op % 16) none)

/-- The classes an opcode belongs to (Table 3-14; the shared sequencer forms belong to two, R49). -/
def opClasses (op : Nat) : List Class :=
  if op < 0x80 then [.alu] else if op < 0xB0 then [.mem] else if op < 0xD0 then [.ctrl] else if op < 0xE0 then [.sys]
  else if op < 0xF0 then [.mtx, .cpy] else if op < 0xF8 then [.mtx] else [.cpy]

/-- The R format of a word, its B field read as the source given (R57). -/
def readR (n : Nat) (b : Src) : RArgs := ⟨fld n 18 6, fld n 12 6, b, bit n 5, fld n 0 5⟩
/-- The I format (R58). -/
def readI (n : Nat) : IArgs := ⟨fld n 18 6, fld n 12 6, fld n 0 12⟩
/-- The P format (R59). -/
def readP (n : Nat) (b : Src) : PArgs := ⟨fld n 19 5, fld n 16 3, fld n 14 2, fld n 8 6, b⟩
/-- The M format (R60). -/
def readM (n : Nat) : MArgs := ⟨fld n 18 6, fld n 12 6, fld n 4 8, fld n 0 4⟩
/-- The A format (R61). -/
def readA (n : Nat) : AArgs := ⟨fld n 18 6, fld n 12 6, fld n 6 6, fld n 3 3, fld n 1 2⟩
/-- The B format (R62). -/
def readB (n : Nat) : BArgs := ⟨fld n 19 5, bit n 18, fld n 16 2, fld n 0 16⟩
/-- The K format (R64). -/
def readK (n : Nat) (b : KSrc) : KArgs := ⟨fld n 19 5, fld n 14 5, b, fld n 0 8⟩
/-- The K-branch format (R64). -/
def readKbr (n : Nat) : KbrArgs := ⟨fld n 21 3, bit n 20, fld n 0 16⟩
/-- The X format from its two words (R65). -/
def readX (n m : Nat) : XArgs :=
  ⟨fld n 21 3, fld n 15 6, fld n 9 6, fld n 4 5, fld n 0 4, fld m 29 3, fld m 27 2, fld m 24 3, fld m 22 2, fld m 20 2,
   fld m 14 6, bit m 13, bit m 12⟩
/-- The C formats of registers. -/
def readL (n : Nat) : LArgs := ⟨fld n 18 6, fld n 12 6, fld n 6 6⟩

/-- Reads an instruction of the form from its first word `n` and the words after it in the clause; gives the
instruction and the number of words it takes. -/
def Form.read (f : Form) (n : Nat) (rest : List Word) : Except DecErr (Instr × Nat) :=
  match f with
  | .r lit mk =>
    if lit && n / 2 ^ 6 % 64 == 63 then
      match rest with
      | w :: _ => .ok (mk (readR n (.lit w)), 2)
      | [] => .error .short
    else .ok (mk (readR n (.reg (fld n 6 6))), 1)
  | .i mk => .ok (mk (readI n), 1)
  | .p mk =>
    if n / 2 ^ 2 % 64 == 63 then
      match rest with
      | w :: _ => if n % 4 == 0 then .ok (mk (readP n (.lit w)), 2) else .error .illField
      | [] => .error .short
    else if n % 4 == 0 then .ok (mk (readP n (.reg (fld n 2 6))), 1) else .error .illField
  | .m mk => .ok (mk (readM n), 1)
  | .a mk => if n % 2 == 0 then .ok (mk (readA n), 1) else .error .illField
  | .b mk => .ok (mk (readB n), 1)
  | .k lit mk =>
    if bit n 8 then
      if lit then
        match rest with
        | w :: _ => if n / 2 ^ 9 % 32 == 0 then .ok (mk (readK n (.lit w)), 2) else .error .illField
        | [] => .error .short
      else .error .illField
    else .ok (mk (readK n (.k (fld n 9 5))), 1)
  | .kbr mk => if n / 2 ^ 16 % 16 == 0 then .ok (mk (readKbr n), 1) else .error .illField
  | .x mk =>
    match rest with
    | w :: _ => if w.toNat % 2 ^ 12 == 0 then .ok (mk (readX n w.toNat), 2) else .error .illField
    | [] => .error .short
  | .l mk => if n % 64 == 0 then .ok (mk (readL n), 1) else .error .illField
  | .c mk =>
    match mk n with
    | some ins => .ok (ins, 1)
    | none => .error .illField

/-- Decodes the instruction at the head of the words left in a clause (R70, up to the field checks). -/
def decode (ws : List Word) : Except DecErr (Instr × Nat) :=
  match ws with
  | [] => .error .short
  | w :: rest =>
    match formOf (w.toNat / 2 ^ 24) with
    | none => .error .illOp
    | some f => f.read w.toNat rest

/-- The words of a byte string, little-endian (Table 2-5, `.word`). -/
def wordsOfBytes : List Byte → List Word
  | a :: b :: c :: d :: rest => BitVec.ofNat 32 (a.toNat + b.toNat * 2 ^ 8 + c.toNat * 2 ^ 16 + d.toNat * 2 ^ 24) :: wordsOfBytes rest
  | _ => []

/-- The bytes of a word, lowest address first. -/
def bytesOfWord (w : Word) : List Byte := [fld w.toNat 0 8, fld w.toNat 8 8, fld w.toNat 16 8, fld w.toNat 24 8]

/-- Decodes the instruction at the start of a byte string. -/
def decodeBytes (bs : List Byte) : Except DecErr (Instr × Nat) := decode (wordsOfBytes bs)

/-- The two words of the opcode table's numbering, laid out as bytes; bits above `nbits` are 0. -/
def tableBytes (nbits w : Nat) : List Byte :=
  let v := w % 2 ^ nbits
  bytesOfWord (fld v 0 32) ++ bytesOfWord (fld v 32 32)

/-- The instruction that the decoder reads from a row's bits. -/
def decodeTableWord (nbits w : Nat) : Option Instr :=
  match decodeBytes (tableBytes nbits w) with
  | .ok (i, _) => some i
  | .error _ => none

/-- The value of the B field, and the literal word it calls for. -/
def Src.field (s : Src) : Nat :=
  match s with
  | .reg n => n.toNat
  | .lit _ => 63
/-- The literal word that follows, if any. -/
def Src.words (s : Src) : List Word :=
  match s with
  | .reg _ => []
  | .lit w => [w]
/-- KB and LIT as they stand in bits [13:8]. -/
def KSrc.field (s : KSrc) : Nat :=
  match s with
  | .k n => n.toNat * 2
  | .lit _ => 1
/-- The literal word that follows, if any. -/
def KSrc.words (s : KSrc) : List Word :=
  match s with
  | .k _ => []
  | .lit w => [w]

/-- A word from its opcode and its low 24 bits. -/
def encC (op low : Nat) : Word := BitVec.ofNat 32 (op * 2 ^ 24 + low)
/-- R format (R57). -/
def encR (op : Nat) (r : RArgs) : List Word :=
  encC op (r.d.toNat * 2 ^ 18 + r.a.toNat * 2 ^ 12 + r.b.field * 2 ^ 6 + r.gn.toNat * 2 ^ 5 + r.gp.toNat) :: r.b.words
/-- I format (R58). -/
def encI (op : Nat) (r : IArgs) : List Word := [encC op (r.d.toNat * 2 ^ 18 + r.a.toNat * 2 ^ 12 + r.imm.toNat)]
/-- P format (R59). -/
def encP (op : Nat) (r : PArgs) : List Word :=
  encC op (r.pd.toNat * 2 ^ 19 + r.cc.toNat * 2 ^ 16 + r.cmb.toNat * 2 ^ 14 + r.a.toNat * 2 ^ 8 + r.b.field * 2 ^ 2) :: r.b.words
/-- M format (R60). -/
def encM (op : Nat) (r : MArgs) : List Word :=
  [encC op (r.d.toNat * 2 ^ 18 + r.a.toNat * 2 ^ 12 + r.off.toNat * 2 ^ 4 + r.la.toNat)]
/-- A format (R61). -/
def encA (op : Nat) (r : AArgs) : List Word :=
  [encC op (r.d.toNat * 2 ^ 18 + r.a.toNat * 2 ^ 12 + r.b.toNat * 2 ^ 6 + r.scope.toNat * 2 ^ 3 + r.ord.toNat * 2)]
/-- B format (R62). -/
def encB (op : Nat) (r : BArgs) : List Word :=
  [encC op (r.p.toNat * 2 ^ 19 + r.pn.toNat * 2 ^ 18 + r.mode.toNat * 2 ^ 16 + r.off.toNat)]
/-- K format (R64). -/
def encK (op : Nat) (r : KArgs) : List Word :=
  encC op (r.kd.toNat * 2 ^ 19 + r.ka.toNat * 2 ^ 14 + r.kb.field * 2 ^ 8 + r.imm.toNat) :: r.kb.words
/-- K-branch format (R64). -/
def encKbr (op : Nat) (r : KbrArgs) : List Word := [encC op (r.kp.toNat * 2 ^ 21 + r.neg.toNat * 2 ^ 20 + r.off.toNat)]
/-- X format, two words (R65, Table 15-5). -/
def encX (op : Nat) (r : XArgs) : List Word :=
  [encC op (r.acc.toNat * 2 ^ 21 + r.ta.toNat * 2 ^ 15 + r.tb.toNat * 2 ^ 9 + r.kf.toNat * 2 ^ 4 + r.la.toNat),
   BitVec.ofNat 32 (r.sa.toNat * 2 ^ 29 + r.ba.toNat * 2 ^ 27 + r.sb.toNat * 2 ^ 24 + r.bb.toNat * 2 ^ 22 +
     r.sstep.toNat * 2 ^ 20 + r.ti.toNat * 2 ^ 14 + r.ra.toNat * 2 ^ 13 + r.rb.toNat * 2 ^ 12)]
/-- C formats of registers. -/
def encL (op : Nat) (r : LArgs) : List Word := [encC op (r.d.toNat * 2 ^ 18 + r.a.toNat * 2 ^ 12 + r.b.toNat * 2 ^ 6)]

/-- The words of an instruction; an event has none. -/
def encode : Instr → List Word
  | .iadd a => encR 0x01 a
  | .isub a => encR 0x02 a
  | .imul a => encR 0x03 a
  | .imulh a => encR 0x04 a
  | .imulhu a => encR 0x05 a
  | .imad a => encR 0x06 a
  | .idp4 a => encR 0x07 a
  | .idp4u a => encR 0x08 a
  | .iand a => encR 0x09 a
  | .ior a => encR 0x0A a
  | .ixor a => encR 0x0B a
  | .andn a => encR 0x0C a
  | .shl a => encR 0x0D a
  | .shr a => encR 0x0E a
  | .sar a => encR 0x0F a
  | .imin a => encR 0x10 a
  | .imax a => encR 0x11 a
  | .umin a => encR 0x12 a
  | .umax a => encR 0x13 a
  | .popc a => encR 0x14 a
  | .clz a => encR 0x15 a
  | .brev a => encR 0x16 a
  | .bfx a => encR 0x17 a
  | .bfi a => encR 0x18 a
  | .sel a => encR 0x19 a
  | .mov a => encR 0x1A a
  | .add64 a => encR 0x1B a
  | .sub64 a => encR 0x1C a
  | .madw a => encR 0x1D a
  | .shl64 a => encR 0x1E a
  | .shr64 a => encR 0x1F a
  | .iaddi a => encI 0x20 a
  | .andi a => encI 0x21 a
  | .ori a => encI 0x22 a
  | .xori a => encI 0x23 a
  | .shli a => encI 0x24 a
  | .shri a => encI 0x25 a
  | .sari a => encI 0x26 a
  | .add64i a => encI 0x27 a
  | .movi a => encI 0x28 a
  | .icmp a => encP 0x30 a
  | .icmp64 a => encP 0x31 a
  | .fcmp a => encP 0x32 a
  | .pand a => encR 0x33 a
  | .por a => encR 0x34 a
  | .pxor a => encR 0x35 a
  | .pnot a => encR 0x36 a
  | .ptov a => encR 0x37 a
  | .vtop a => encR 0x38 a
  | .shfq a => encR 0x39 a
  | .shfg a => encR 0x3A a
  | .vote a => encR 0x3B a
  | .fadd a => encR 0x40 a
  | .fsub a => encR 0x41 a
  | .fmul a => encR 0x42 a
  | .ffma a => encR 0x43 a
  | .fmin a => encR 0x44 a
  | .fmax a => encR 0x45 a
  | .fabs a => encR 0x46 a
  | .fneg a => encR 0x47 a
  | .frcp a => encR 0x48 a
  | .frsq a => encR 0x49 a
  | .fsqrt a => encR 0x4A a
  | .fexp2 a => encR 0x4B a
  | .flog2 a => encR 0x4C a
  | .ftanh a => encR 0x4D a
  | .fscale a => encR 0x4E a
  | .frnd a => encI 0x4F a
  | .hadd2 a => encR 0x50 a
  | .hmul2 a => encR 0x51 a
  | .hfma2 a => encR 0x52 a
  | .badd2 a => encR 0x53 a
  | .bmul2 a => encR 0x54 a
  | .bfma2 a => encR 0x55 a
  | .cvt a => encI 0x58 a
  | .packb2 a => encR 0x59 a
  | .packh2 a => encR 0x5A a
  | .unpkb2 a => encR 0x5B a
  | .unpkh2 a => encR 0x5C a
  | .pk4e4m3 a => encR 0x5D a
  | .pk4e5m2 a => encR 0x5E a
  | .pk8e2m1 a => encR 0x5F a
  | .pk16e2m3 a => encR 0x60 a
  | .pk16e3m2 a => encR 0x61 a
  | .upk4e4m3 a => encR 0x62 a
  | .upk4e5m2 a => encR 0x63 a
  | .upk8e2m1 a => encR 0x64 a
  | .upk16e2m3 a => encR 0x65 a
  | .upk16e3m2 a => encR 0x66 a
  | .vqdec a => encR 0x67 a
  | .addm64 a => encR 0x68 a
  | .subm64 a => encR 0x69 a
  | .mulm64 a => encR 0x6A a
  | .nttbf a => encR 0x6B a
  | .ld8 a => encM 0x80 a
  | .ld8s a => encM 0x81 a
  | .ld16 a => encM 0x82 a
  | .ld16s a => encM 0x83 a
  | .ld32 a => encM 0x84 a
  | .ld64 a => encM 0x85 a
  | .ld128 a => encM 0x86 a
  | .st8 a => encM 0x87 a
  | .st16 a => encM 0x88 a
  | .st32 a => encM 0x89 a
  | .st64 a => encM 0x8A a
  | .st128 a => encM 0x8B a
  | .sto a => encM 0x8C a
  | .ldaq a => encA 0x8D a
  | .strl a => encA 0x8E a
  | .axchg a => encA 0x8F a
  | .acas a => encA 0x90 a
  | .aadd a => encA 0x91 a
  | .amin a => encA 0x92 a
  | .amax a => encA 0x93 a
  | .aand a => encA 0x94 a
  | .aor a => encA 0x95 a
  | .axor a => encA 0x96 a
  | .afadd a => encA 0x97 a
  | .axchg64 a => encA 0x98 a
  | .acas64 a => encA 0x99 a
  | .aadd64 a => encA 0x9A a
  | .gld a => encR 0x9B a
  | .gst a => encR 0x9C a
  | .lds a => encM 0x9D a
  | .sts a => encM 0x9E a
  | .lds128 a => encM 0x9F a
  | .sts128 a => encM 0xA0 a
  | .lset a => encM 0xA1 a
  | .lclr a => encM 0xA2 a
  | .ldp a => encM 0xA3 a
  | .stp a => encM 0xA4 a
  | .cpl4 a => encR 0xA5 a
  | .cpl8 a => encR 0xA6 a
  | .cpl16 a => encR 0xA7 a
  | .stn a => encM 0xA8 a
  | .rlq a => encM 0xA9 a
  | .fence scope kind => [encC 0xAA (scope.toNat * 2 ^ 21 + kind.toNat * 2 ^ 19)]
  | .fencea scope paths => [encC 0xAB (scope.toNat * 2 ^ 21 + paths.toNat * 2 ^ 17)]
  | .waitv a c cc => [encC 0xAC (a.toNat * 2 ^ 18 + c.toNat * 2 ^ 12 + cc.toNat * 2 ^ 9)]
  | .hfree a => encR 0xAD a
  | .itout a => encR 0xAE a
  | .itdone a => encR 0xAF a
  | .br a => encB 0xB0 a
  | .brd a => encB 0xB1 a
  | .join off => [encC 0xB2 off.toNat]
  | .jmpr a => [encC 0xB3 (a.toNat * 2 ^ 18)]
  | .call slide off => [encC 0xB4 (slide.toNat * 2 ^ 19 + off.toNat)]
  | .callr slide a => [encC 0xB5 (slide.toNat * 2 ^ 19 + a.toNat * 2 ^ 12)]
  | .ret => [encC 0xB6 0]
  | .regang id => [encC 0xB7 (id.toNat * 2 ^ 16)]
  | .bara b => [encC 0xB8 (b.toNat * 2 ^ 20)]
  | .barw b => [encC 0xB9 (b.toNat * 2 ^ 20)]
  | .bars b => [encC 0xBA (b.toNat * 2 ^ 20)]
  | .cbars id => [encC 0xBB (id.toNat * 2 ^ 16)]
  | .fork m c a => [encC 0xBC (m.toNat * 2 ^ 18 + c.toNat * 2 ^ 12 + a.toNat * 2 ^ 6)]
  | .rdv => [encC 0xBD 0]
  | .post c target q prio => [encC 0xBE (c.toNat * 2 ^ 18 + target.toNat * 2 ^ 16 + q.toNat * 2 ^ 10 + prio.toNat * 2 ^ 8)]
  | .exit => [encC 0xBF 0]
  | .qfence mask => [encC 0xC0 (mask.toNat * 2 ^ 17)]
  | .idemb live => [encC 0xC1 (live.toNat * 2 ^ 8)]
  | .ideme => [encC 0xC2 0]
  | .trap code => [encC 0xC3 (code.toNat * 2 ^ 21)]
  | .csrr a => encI 0xC4 a
  | .csrw a => encI 0xC5 a
  | .itld a => encL 0xC6 a
  | .itgo a => encL 0xC7 a
  | .itstop a => encL 0xC8 a
  | .itstat a => encI 0xC9 a
  | .nop => [encC 0xCA 0]
  | .yield => [encC 0xCB 0]
  | .rett mode => [encC 0xD0 (mode.toNat * 2 ^ 22)]
  | .scsrr a => encI 0xD1 a
  | .scsrw a => encI 0xD2 a
  | .rtset a => encL 0xD3 a
  | .dmset a => encL 0xD4 a
  | .rgset a => encL 0xD5 a
  | .mapx a => encL 0xD6 a
  | .unmapx a => encL 0xD7 a
  | .migx a => encL 0xD8 a
  | .preempt a => encL 0xD9 a
  | .ctxsv a => encL 0xDA a
  | .ctxld a => encL 0xDB a
  | .kmov a => encK 0xE0 a
  | .kadd a => encK 0xE1 a
  | .ksub a => encK 0xE2 a
  | .kmul a => encK 0xE3 a
  | .kand a => encK 0xE4 a
  | .kor a => encK 0xE5 a
  | .kshl a => encK 0xE6 a
  | .kshr a => encK 0xE7 a
  | .kcmp a => encK 0xE8 a
  | .kbr a => encKbr 0xE9 a
  | .kld a => encK 0xEA a
  | .kst a => encK 0xEB a
  | .kbara a => encK 0xEC a
  | .kbarw a => encK 0xED a
  | .kend a => encK 0xEE a
  | .tdef a => encK 0xEF a
  | .mma a => encX 0xF0 a
  | .mmag a => encX 0xF1 a
  | .mmam a => encX 0xF2 a
  | .aclr a => encK 0xF3 a
  | .acst a => encK 0xF4 a
  | .acld a => encK 0xF5 a
  | .sxld a => encK 0xF6 a
  | .cbld a => encK 0xF7 a
  | .lrdef a => encK 0xF8 a
  | .cpt a => encK 0xF9 a
  | .cpto a => encK 0xFA a
  | .cpr a => encK 0xFB a
  | .cpmc a => encK 0xFC a
  | .cpwt a => encK 0xFD a
  | .clauseHeaderIssue => []
  | .loadDataReturn _ => []
  | .storeAcknowledgement _ _ => []
  | .homeAccessPerform _ _ => []
  | .impreciseReportDelivery _ _ => []
  | .waitvReadReturn _ => []
  | .stnNameWrite _ => []
  | .exitComplete _ _ => []
  | .joinDecrement _ => []
  | .postRingSpace _ _ => []
  | .cardAdmission _ _ => []
  | .swapOutOnWait _ => []
  | .swapSlotRetest _ => []
  | .wakeTest _ => []
  | .handlerEntry _ => []
  | .terminationComplete _ => []
  | .watchdogExpiry _ => []
  | .hostPreemptRequest _ => []
  | .engineStopAck _ _ => []
  | .preemptionSave _ => []
  | .tileLineWrite _ _ => []
  | .copyPerformed _ => []
  | .multicastDelivery _ _ _ => []
  | .laneCopyBatchComplete _ => []
  | .matrixOpComplete _ => []
  | .mmagGatherEnd _ => []
  | .atsTranslationCompletion _ _ _ => []
  | .priPageResponse _ _ _ => []
  | .atsInvalidation _ _ _ _ => []
  | .tableChangeDrained _ _ => []
  | .mapxAtBaseDie _ _ => []
  | .migrationLineCopy _ _ => []
  | .migrationSwitch _ _ => []
  | .flitReceived _ _ => []
  | .linkDownAckTimeout _ => []
  | .linkReady _ => []
  | .fabricHop _ _ => []
  | .holdResend _ => []
  | .orderedPacketForward _ => []
  | .skipReceive _ _ _ _ => []
  | .remoteAnswerArrival _ _ _ _ => []
  | .remoteTimeoutExpiry _ _ => []
  | .peerLost _ _ _ => []
  | .swapTableLoad _ _ => []
  | .itineraryEntryStart => []
  | .itineraryEntryClosed _ => []
  | .seatFullNotice _ _ _ _ => []
  | .seatReturn _ _ => []
  | .q5OperationPerformed _ _ => []
  | .itstatWaitComplete _ _ => []
  | .hostItineraryResume => []
  | .hostItineraryClear => []
  | .hostLaunch _ _ _ _ => []
  | .hostRangeWrite _ _ _ _ => []
  | .setHypervisorTenant _ => []
  | .setSelfpl _ _ => []
  | .setGrants _ _ _ _ _ _ => []
  | .setFrameGrant _ _ _ => []
  | .setPoolLabel _ _ _ => []
  | .setTenantwt _ _ _ => []
  | .setFtimeout _ _ => []
  | .setAtomicWindow _ _ _ _ _ => []
  | .setQueueRing _ _ _ _ => []
  | .setErrorRing _ _ => []
  | .setPowerCap _ => []
  | .hostTlpArrival _ _ => []
  | .tdiStateChange _ _ => []
  | .keySet _ _ _ _ => []
  | .spdmMeasurementRequest _ _ => []
  | .lifeCycleChange _ => []
  | .deviceReset => []
  | .functionReady _ => []
  | .thermalLimit _ => []
  | .scrubRead _ _ _ => []
  | .scrubWriteBack _ => []
  | .rowActivationRefresh _ _ _ _ => []
  | .arithmeticClockTick _ => []
  | .crossbarCycle _ _ _ => []
  | .migxAtBaseDie _ _ => []
  | .acstLineWrite _ _ => []
  | .tileReadComplete _ => []
  | .hfreePerformed _ _ => []
  | .peerReturn _ _ _ => []
  | .setCausalGroups _ _ => []
  | .controlLoopAdjust _ _ => []
  | .readinessLost _ => []

end Sys2Proof
end

