-- ==== Sys2Proof/Config.lean ====
section
/-!
DEFINITION. The sizes of the module (01_device Table 1-7), which every module shares, and the free values: what the
manual leaves open (00_scope R3).
-/
namespace Sys2Proof.Config

/-- The source of free values (log entry 2): nothing is known of it. The model applies it to a counter in State, so each
use is a fresh value; where the manual bounds the value, the model takes it inside the bound. -/
opaque freeNat : Nat → Nat

/-- The 16 bytes of a beat of a message, which the manual does not lay out (17_fabric R321, log entry 20). -/
opaque beat : FabricMsg → Nat → BitVec 128

/-- What 16 bytes of a line read as under one key and tweak that were written under another, or under none: AES-XTS-256 with
tweaks whose form the manual does not give; the block's index in the line is an input too (21_host_security R370). -/
opaque recrypt : Option (BitVec 512 × Nat) → Option (BitVec 512 × Nat) → Nat → BitVec 128 → BitVec 128

/-- The hash that fixes a line's home among the twelve slices of its stack, which is not architectural (01_device R11). -/
opaque homeHash : Nat → Nat

/-- Card-queue entries held on chip beyond the head (04_execution R87), whose number the manual does not give. -/
opaque chipCards : Nat

/-- What a measurement report says of the module (21_host_security R373): firmware, hardware configuration, the certificate chain
of slot 0; the hash over blocks, and its signature under a request's nonce. -/
opaque firmware : BitVec 384
opaque hardware : BitVec 384
opaque chain : BitVec 1024
opaque digest : List Nat → BitVec 384
opaque sign : BitVec 384 → BitVec 256 → Nat → BitVec 768

/-- Dies of a module (R5). -/
def dies : Nat := 4
/-- Clusters of a die (R7). -/
def clusters : Nat := 6
/-- Cores of a cluster (R7). -/
def cores : Nat := 24
/-- Workgroup slots of a core (R79). -/
def slots : Nat := 4
/-- Quads of a core (R16). -/
def quads : Nat := 64
/-- Scratchpad lines of a core (Table 1-7). -/
def lines : Nat := 12288
/-- HBM stacks of a module (R1). -/
def stackCount : Nat := 16
/-- Frames of a stack (R212). -/
def frames : Nat := 98304
/-- Region entries of a stack (R209). -/
def regions : Nat := 4096
/-- Extent-store entries of a stack (R212). -/
def extents : Nat := 131072
/-- Fabric links of a module (R1). -/
def links : Nat := 32
/-- Tenants of a module (R366). -/
def tenants : Nat := 16

end Sys2Proof.Config
end

