-- ==== Sys2Proof/Machine/Tab.lean ====
section
/-!
DEFINITION. Sparse tables: lists of (key, value) pairs with rising keys, the one form every table of State has. A table
with a default lists no entry that equals it, so equal tables are equal lists.
-/
namespace Sys2Proof

/-- A table by key. -/
abbrev Tab (α : Type) := List (Nat × α)

/-- The entry at a key. -/
def Tab.find {α : Type} (t : Tab α) (k : Nat) : Option α :=
  match t with
  | [] => none
  | (j, v) :: r => if j = k then some v else Tab.find r k

/-- The entry at a key, or the default. -/
def Tab.get {α : Type} (d : α) (t : Tab α) (k : Nat) : α := (t.find k).getD d

/-- Writes an entry, keeping keys in rising order. -/
def Tab.put {α : Type} (t : Tab α) (k : Nat) (v : α) : Tab α :=
  match t with
  | [] => [(k, v)]
  | (j, w) :: r => if j = k then (k, v) :: r else if k < j then (k, v) :: (j, w) :: r else (j, w) :: Tab.put r k v

/-- Removes the entries at a key. -/
def Tab.del {α : Type} (t : Tab α) (k : Nat) : Tab α :=
  match t with
  | [] => []
  | (j, w) :: r => if j = k then Tab.del r k else (j, w) :: Tab.del r k

/-- Writes a value into a table with a default: the default itself is not listed. -/
def Tab.set {α : Type} [DecidableEq α] (d : α) (t : Tab α) (k : Nat) (v : α) : Tab α :=
  if v = d then t.del k else t.put k v

/-- Removes the entries whose key lies in `[lo, lo + n)`. -/
def Tab.clear {α : Type} (t : Tab α) (lo n : Nat) : Tab α := t.filter (fun e => e.1 < lo || lo + n ≤ e.1)

/-- Changes the entry at a key, where there is one. -/
def Tab.upd {α : Type} (t : Tab α) (k : Nat) (f : α → α) : Tab α :=
  match t with
  | [] => []
  | (j, v) :: r => if j = k then (j, f v) :: r else (j, v) :: Tab.upd r k f

/-- `n` bytes from `a` up, little-endian, of a table of bytes that reads 0 where it lists nothing. -/
def Tab.bytes (t : Tab Byte) (a n : Nat) : Nat :=
  match n with
  | 0 => 0
  | n + 1 => (Tab.get (0 : Byte) t a).toNat + 256 * Tab.bytes t (a + 1) n

/-- Writes the low `n` bytes of `x` from `a` up, little-endian. -/
def Tab.setBytes (t : Tab Byte) (a n x : Nat) : Tab Byte :=
  match n with
  | 0 => t
  | n + 1 => Tab.setBytes (Tab.set (0 : Byte) t a (BitVec.ofNat 8 x)) (a + 1) n (x / 256)

/-- A set of numbers: membership, adding and removing. -/
def Tab.has (t : Tab Unit) (k : Nat) : Bool := (t.find k).isSome

end Sys2Proof
end

