-- ==== Sys2Proof/Machine/Memory.lean ====
section
/-!
DEFINITION. The memory of the sixteen stacks (09_routes R212, R213): bytes keyed by stack and physical address. It is a
list of cells in one canonical form; an unlisted byte reads 0, because the wipe at reset writes zeros to every line of
every stack (21_host_security R374).
-/
namespace Sys2Proof

/-- The memory. -/
abbrev Memory := List Host.Cell

/-- What an unlisted byte reads as (R374). -/
def Memory.unlisted : Byte := 0

/-- The key of a byte: `stack × 2^38 + PA` (R213: PA = FRAME × 2^21 + offset, below 2^38). -/
def Memory.key (stack pa : Nat) : Nat := stack * 2 ^ 38 + pa

/-- Canonical form: addresses strictly rising, no entry equal to what an unlisted byte reads as. -/
def Memory.wf (m : Memory) : Bool :=
  match m with
  | [] => true
  | [(_, v)] => v != Memory.unlisted
  | (a, v) :: (b, w) :: r => v != Memory.unlisted && decide (a < b) && Memory.wf ((b, w) :: r)

/-- Reads one byte. -/
def Memory.read (m : Memory) (a : Nat) : Byte :=
  match m with
  | [] => Memory.unlisted
  | (b, v) :: r => if b = a then v else Memory.read r a

/-- Writes one byte, keeping the canonical form. -/
def Memory.write (m : Memory) (a : Nat) (v : Byte) : Memory :=
  match m with
  | [] => if v = Memory.unlisted then [] else [(a, v)]
  | (b, w) :: r =>
    if b = a then (if v = Memory.unlisted then r else (a, v) :: r)
    else if a < b then (if v = Memory.unlisted then (b, w) :: r else (a, v) :: (b, w) :: r)
    else (b, w) :: Memory.write r a v

/-- Reads `n` bytes from `a` up, little-endian. -/
def Memory.readN (m : Memory) (a n : Nat) : Nat :=
  match n with
  | 0 => 0
  | n + 1 => (m.read a).toNat + 256 * Memory.readN m (a + 1) n

/-- Writes the low `n` bytes of `x` from `a` up, little-endian. -/
def Memory.writeN (m : Memory) (a n x : Nat) : Memory :=
  match n with
  | 0 => m
  | n + 1 => Memory.writeN (m.write a (BitVec.ofNat 8 x)) (a + 1) n (x / 256)

/-- Writes zeros to the `n` bytes from `a` up. -/
def Memory.zero (m : Memory) (a n : Nat) : Memory := m.filter (fun c => c.1 < a || a + n ≤ c.1)

/-- The listed cells of the `n` bytes from `a` up. -/
def Memory.within (m : Memory) (a n : Nat) : List Host.Cell := m.filter (fun c => a ≤ c.1 && c.1 < a + n)

/-- Writes a list of cells. -/
def Memory.writeAll (m : Memory) (cs : List Host.Cell) : Memory := cs.foldl (fun m c => m.write c.1 c.2) m

/-- Copies the `n` bytes from `src` up to `dst` up. -/
def Memory.copy (m : Memory) (dst src n : Nat) : Memory :=
  (m.zero dst n).writeAll ((m.within src n).map (fun c => (c.1 - src + dst, c.2)))

end Sys2Proof
end

