-- ==== Sys2Proof/Machine/State.lean ====
section
/-!
DEFINITION. The state of one module: everything the manual gives the machine, as plain data, and its value at reset.
Keys: a workgroup slot is `((die*6 + cluster)*24 + core)*4 + slot`; a line of a stack is `stack*2^31 + PA/128`.
-/
namespace Sys2Proof.Machine

open Sys2Proof

/-- The parties that run instruction words: a quad, and the two sequencer contexts of a workgroup slot (01_device R16). -/
inductive Party where
  | quad (wg q : Nat)
  | mtx (wg : Nat)
  | cpy (wg : Nat)
  deriving DecidableEq, Repr

/-- The workgroup slot of a party. -/
def Party.wg : Party → Nat
  | .quad w _ => w
  | .mtx w => w
  | .cpy w => w

/-- The events of the table that the module itself brings about. -/
inductive Due where
  | homeAccessPerform (op part : Nat)
  | storeAcknowledgement (op part : Nat)
  | remoteTimeoutExpiry (op part : Nat)
  | multicastDelivery (op core line : Nat)
  | tileLineWrite (op line : Nat)
  | acstLineWrite (op line : Nat)
  | loadDataReturn (op : Nat)
  | waitvReadReturn (op : Nat)
  | stnNameWrite (op : Nat)
  | tileReadComplete (op : Nat)
  | copyPerformed (op : Nat)
  | laneCopyBatchComplete (op : Nat)
  | matrixOpComplete (op : Nat)
  | impreciseReportDelivery (wg quad : Nat)
  | exitComplete (wg quad : Nat)
  | postRingSpace (wg quad : Nat)
  | tableChangeDrained (wg quad : Nat)
  | q5OperationPerformed (wg quad : Nat)
  | itstatWaitComplete (wg quad : Nat)
  | hfreePerformed (wg quad : Nat)
  | handlerEntry (wg : Nat)
  | mmagGatherEnd (wg : Nat)
  | engineStopAck (wg : Nat) (engine : Engine)
  | terminationComplete (unit : Nat)
  | watchdogExpiry (unit : Nat)
  | swapOutOnWait (unit : Nat)
  | swapSlotRetest (unit : Nat)
  | preemptionSave (unit : Nat)
  | wakeTest (unit : Nat)
  | joinDecrement (n : Nat)
  | cardAdmission (cluster : Nat) (cores : List Nat)
  | mapxAtBaseDie (stack choice : Nat)
  | migxAtBaseDie (stack choice : Nat)
  | migrationLineCopy (stack slot : Nat)
  | migrationSwitch (stack slot : Nat)
  | scrubWriteBack (stack : Nat)
  | crossbarCycle (die first choice : Nat)
  | orderedPacketForward (n : Nat)
  | fabricHop (link channel : Nat)
  | holdResend (n : Nat)
  | itineraryEntryClosed (entry : Nat)
  | itineraryEntryStart
  | arithmeticClockTick (die : Nat)
  deriving DecidableEq, Repr

/-- What happens next, when the agenda says so (log entry 1): a party issues, an event of the table happens, an event of the
module's own is due, a core grants its next issue slot of the `n` left in the cycle, `issued` naming the quads (workgroup
slot, quad) that have had one (04_execution R94), or a core's matrix engine takes an instruction (15_matrix R297). -/
inductive Turn where
  | run (p : Party)
  | happen (i : Instr)
  | due (d : Due)
  | slots (core n : Nat) (issued : List (Nat × Nat))
  | engine (core : Nat)
  deriving DecidableEq, Repr

/-- A place in a clause (03_encoding R51): the header's address, the index of the next word after it, the words left, and
the clause's class (Table 3-1). With none left, the word at the place is a clause header; a transfer of control has fetched
it already, and `head` is that word (R50). -/
structure Cl where
  hdr : W64
  idx : Nat
  rem : Nat
  cls : Nat
  head : Option Word
  deriving DecidableEq, Repr

/-- The address of the next word. -/
def Cl.pc (c : Cl) : W64 := c.hdr + BitVec.ofNat 64 (4 * c.idx)

/-- What a trap record and an error record say of a fault (05_traps R106, R389). -/
structure FaultInfo where
  cause : Nat
  level : Nat
  inner : Nat
  label : Nat
  route : W64
  lanes : BitVec 4
  tpc : W64
  fetch : Bool
  deriving DecidableEq, Repr

/-- A quad's trap record, the CSRs TCAUSE to TSKID (Table 5-2). -/
structure TrapRec where
  cause : Word
  level : Word
  label : Word
  pc : W64
  route : W64
  lanes : Word
  skid : Word
  deriving DecidableEq, Repr

/-- An entry of the reconvergence stack (08_quad_control, Divergence). -/
structure Recon where
  m : BitVec 4
  pm : BitVec 4
  ppc : W64
  deriving DecidableEq, Repr

/-- An open lookahead window with its pending destination (03_encoding R66): the operation, the physical registers or
accumulators it will write, the instructions that may still issue. -/
structure Win where
  op : Nat
  dst : List Nat
  left : Nat
  deriving DecidableEq, Repr

/-- The wait a party stands in. Only the first five are counted (04_execution R96). `stall` is a wait at issue, `stopped` that of
a sibling whose own instruction has faulted in a halt (05_traps R110). -/
inductive Wait where
  | waitv (op : Nat) (route : W64) (cc : BitVec 3) (cmp : Word)
  | cbars (phase : Nat)
  | full
  | cpwt
  | itstat (a : IArgs)
  | bar
  | rendezvous (vals : List Nat)
  | q5 (i : Instr)
  | drain (ops : List Nat) (d : Nat)
  | ring (cluster prio : Nat) (card : W64)
  | rdv
  | exit
  | words (op : Nat)
  | qfence (ops : List Nat)
  | stall
  | stopped
  | other
  deriving DecidableEq, Repr

/-- A wait in progress: what for, its consecutive cycles, and the WAITCAP it began under (R96, R97). -/
structure Await where
  what : Wait
  count : Nat
  cap : Nat
  deriving DecidableEq, Repr

/-- An open idempotent region (08_quad_control R188). -/
structure Idem where
  addr : W64
  after : Cl
  depth : Nat
  mask : BitVec 16
  regs : Tab Word
  deriving DecidableEq, Repr

/-- An instruction that is executed again alone, in the lanes named; `ord` rises in program order, and `here` says that it is the one
at the quad's resume point, after which the quad goes on from where it leads (05_traps R105, R116). -/
structure Redo where
  pos : Cl
  lanes : BitVec 4
  ord : Nat
  here : Bool
  deriving DecidableEq, Repr

/-- What handler entry saves (05_traps R111): `withdrawn` holds the instructions that R105 withdrew, `rest` those that an
earlier RETT still has to execute again, `kept` the wait in which an arrival of the quad stands (R109), `entered` the target of a
start whose header had not been taken (03_encoding R50). -/
structure Shadow where
  mask : BitVec 4
  preds : Tab (BitVec 24)
  fpstat : Word
  recon : List Recon
  depth : Nat
  frames : List Nat
  resume : Cl
  fault : FaultInfo
  pos : Cl
  ord : Nat
  withdrawn : List Redo
  rest : List Redo
  kept : Option Await
  entered : Option W64
  deriving DecidableEq, Repr

/-- A quad (04_execution R75, R80). Registers are keyed `lane*256 + physical register`, private words `lane*512 + word`,
predicates by lane, path counts by path. `since` is the cycle since which the quad has been ready, if it is (R94). `redo` and `resume` are the instructions that RETT executes again, the present one first, and the place
and mask after them, `kept` the wait to take up there; `got` the words that have been fetched from outside the module for the
present instruction (03_encoding R387). -/
structure Quad where
  live : Bool
  cl : Cl
  entered : Option W64
  mask : BitVec 4
  regs : Tab Word
  preds : Tab (BitVec 24)
  priv : Tab Word
  depth : Nat
  frames : List Nat
  recon : List Recon
  fpstat : Word
  modq : W64
  modb : W64
  uad : Nat
  uap : Nat
  path : Tab Nat
  idem : Option Idem
  trap : TrapRec
  sup : Bool
  shadow : Option Shadow
  wins : List Win
  reports : List (FaultInfo × Cl)
  skid : Nat
  await : Option Await
  redo : List Redo
  resume : Option (Cl × BitVec 4)
  kept : Option Await
  since : Option Nat
  got : List (W64 × Word)
  deriving DecidableEq, Repr

/-- How a sequencer context stands (01_device R23). -/
inductive SeqMode where
  | idle | started | ended
  deriving DecidableEq, Repr

/-- What the two kinds of sequencer context share (14_copy R274, 15_matrix R295). -/
structure Seq where
  mode : SeqMode
  cl : Cl
  entered : Option W64
  k : Tab W64
  kp : Tab Bool
  await : Option Await
  skid : Nat
  got : List (W64 × Word)
  deriving DecidableEq, Repr

/-- A layout record (Table 14-3), its four dwords. -/
structure Layout where
  d0 : W64
  d1 : W64
  d2 : W64
  d3 : W64
  deriving DecidableEq, Repr

/-- The tag of an accumulator (15_matrix R295). -/
inductive Tag where
  | f | i | m
  deriving DecidableEq, Repr

/-- An accumulator: its tag, and its elements by `row*32 + column` (`row*16 + column` in tag M). -/
structure Acc where
  tag : Tag
  el : Tab Nat
  deriving DecidableEq, Repr

/-- What the gather unit has put into the A latch (15_matrix R307): the rows, one after the other, those of +0, and whether an index
names none. -/
structure Latch where
  rows : Tab Byte
  zeros : List Nat
  bad : Bool
  deriving DecidableEq, Repr

/-- The matrix context beside its shared part (Table 15-1). Scale lanes are keyed `vector*32 + lane`. `gather` is the MMAG whose rows
are gathered, `latch` these rows once the gather has ended. -/
structure Mtx where
  seq : Seq
  acc : Tab Acc
  sx : Tab Word
  book : Tab Word
  bookSet : Bool
  wins : List Win
  gather : Option XArgs
  latch : Option Latch
  deriving DecidableEq, Repr

/-- The copy context beside its shared part (14_copy R274). -/
structure Cpy where
  seq : Seq
  ly : Tab Layout
  drops : Word
  deriving DecidableEq, Repr

/-- A numbered barrier: arrivals of the phase, its number, the parties (quads 0-63, 64 matrix, 65 copy) that have
arrived (08_quad_control R181). -/
structure Barrier where
  phase : Nat
  arrived : List Nat
  deriving DecidableEq, Repr

/-- A tile-table entry (Table 14-2); STATE and NFULL follow from the full bits and the readers (14_copy R282). -/
structure Tile where
  base : Nat
  nl : Nat
  deriving DecidableEq, Repr

/-- A gang: parted or not, the quads of it that have issued the present instruction, and the name that the first of them gave
its operation (04_execution R76, R77, 10_memory_ops R232). -/
structure Gang where
  parted : Bool
  issued : List Nat
  lead : Nat
  deriving DecidableEq, Repr

/-- How far a halt has gone (05_traps R109, R111, R113, R122). -/
inductive HaltStage where
  | stopping | handler | ending | saving (cause : Nat) (acks : List Engine)
  deriving DecidableEq, Repr

/-- A halt: its origin (quad, 64 matrix, 65 copy, 127 outside), what started it, whether it was raised in supervisor
mode, its stage, the cycles it has lasted, whether it is an imprecise report's, and the operation, still in flight, that has
further lanes of the faulting instruction (05_traps R389); `ord` places the faulting instruction in program order. -/
structure Halt where
  origin : Nat
  fault : FaultInfo
  pos : Cl
  sup : Bool
  imprecise : Bool
  stage : HaltStage
  cycles : Nat
  op : Option Nat
  ord : Nat
  deriving DecidableEq, Repr

/-- A resident workgroup (04_execution R79, R80). `was` is the halt, if any, that the unit's end has overtaken (05_traps R113). -/
structure Wg where
  uid : Nat
  unit : Nat
  wgid : Nat
  members : Nat
  tenant : Nat
  card : W64
  code : W64
  frame : W64
  succ : W64
  shape : W64
  barq : List Nat
  mseq : BitVec 16
  cseq : BitVec 16
  gen : Nat
  entry : Option (Nat × Nat)
  quads : Tab Quad
  gangs : Tab Gang
  mtx : Mtx
  cpy : Cpy
  scratch : Tab Byte
  full : Tab Unit
  bars : Tab Barrier
  tiles : Tab Tile
  halt : Option Halt
  preempt : Option Nat
  was : Option Halt
  deriving DecidableEq, Repr

/-- Where a line access is performed. -/
inductive Place where
  | dev | remote | host | scratch (wg : Nat) | priv
  deriving DecidableEq, Repr

/-- How far a line access has come: in flight at its core, over a bridge to the die of its home (01_device R6) or its ATS request on
the way to die 0 (R15), arrived at its home slice (R8), held for an absent extent (05_traps R105), waiting for a translation,
sent away, performed. -/
inductive PartState where
  | flying | bridged | arrived | held | xlating | asking | away | performed
  deriving DecidableEq, Repr

/-- One lane's (or chunk's) access within a line access: key, address, size, data to write, comparand, value read. -/
structure Access where
  key : Nat
  addr : W64
  size : Nat
  data : Nat
  cmp : Nat
  got : Nat
  deriving DecidableEq, Repr

/-- A quad's part of a line access (10_memory_ops R232). Parts with one `joint` name are one line access, or one gather packet,
of the lanes of an unparted gang; `range` is the entry that level 0 found, with its index (09_routes R222). `slot` is the path
slot of a remote packet (0-3 primary, 4-7 mirror) and `label` its path label, `mslot` and `mlabel` the mirror packet's, `twin`
the answers a mirrored store still lacks, `stamp` what a release that has left carries, `onDie` whether its ordering point is
on the issuing die, `carried` the count with which an STO or a release crossed a bridge and `xord` its own number there (17_fabric
R330), `home` the home slice that it has set out for (01_device R11), `left` whether the answer has left that slice's crossbar and
`back` whether it has come back, `age` the cycles since it left the die, `ords` its numbers on the path slots that it was sent on. -/
structure Part where
  place : Place
  st : PartState
  accs : List Access
  joint : Nat × Nat
  range : Option (Nat × RangeImage)
  slot : Option Nat
  mslot : Option Nat
  label : Nat
  mlabel : Nat
  twin : Nat
  stamp : Option Stamp
  onDie : Bool
  carried : Option Nat
  back : Bool
  age : Nat
  home : Option Nat
  left : Bool
  xord : Option Nat
  ords : List (Nat × Nat)
  deriving DecidableEq, Repr

/-- The copy instructions of Q0 (14_copy R287). -/
inductive CopyKind where
  | cpt | cpto | cpr | cpmc
  deriving DecidableEq, Repr

/-- A copy in Q0: its kind, tile lines, options, layout record, base, the lines still to be read or written in the
scratchpad, and for CPMC each receiving core with its slot and generation, the (core, line) pairs already delivered, and how many
lines were lost. -/
structure Copy where
  kind : CopyKind
  tile : Nat
  base : Nat
  nl : Nat
  keep : Bool
  bf16 : Bool
  ly : Layout
  route : W64
  todo : List Nat
  buf : Tab Byte
  gens : List (Nat × Option (Nat × Nat))
  wrote : List (Nat × Nat)
  lost : Nat
  ka : Nat
  deriving DecidableEq, Repr

/-- A product in Q1 with what it read at issue: the form (0 MMA, 1 MMAG, 2 MMAM), the descriptor, the modulus, the scale
vectors, the first lines of its tiles, and for MMAG the gathered rows, `zeros` being those of index 0xFFFF (15_matrix R302,
R307, R308). -/
structure MatMul where
  form : Nat
  x : XArgs
  desc : W64
  q : W64
  sx : Tab Word
  baseA : Nat
  baseB : Nat
  rows : Tab Byte
  zeros : List Nat
  deriving DecidableEq, Repr

/-- What an operation in flight does: `acq` and `rel` are the scopes at which it is an acquire and a release. A lane copy names its batch (10_memory_ops R248), and for each lane the slot, generation
and offset it writes; `words` is a clause fetch or an image read from outside the module, for the instruction its party stands
at (03_encoding R387, 09_routes R203, R211). -/
inductive Job where
  | load (bytes : Nat) (sext : Bool) (acq : Option Nat)
  | store
  | sto
  | strl (rel : Option Nat)
  | atomic (op : AtomicOp) (acq rel : Option Nat)
  | waitv (cc : BitVec 3) (cmp : Word)
  | lset (set : Bool)
  | stn (data : Nat)
  | rlq
  | hfree (stack : Nat) (d : Nat)
  | cpl (batch : Nat) (dst : List (Nat × Nat × Nat × Nat))
  | copy (c : Copy)
  | kld (k : Nat)
  | kst
  | matmul (m : MatMul)
  | acld (acc tile base : Nat) (tag : Tag) (tr : Bool)
  | acst (tile base : Nat) (todo : List Nat) (data : Tab Byte)
  | sxld (n tile line : Nat)
  | cbld (tile base : Nat)
  | word
  | words (k : AccKind)
  deriving DecidableEq, Repr

/-- An operation in flight (01_device R18-R20, 10_memory_ops R230): the workgroup instance and party it belongs to, its
queue, what it does, its place in the program, the physical registers it writes, its line accesses, and the faults its
lanes have met. The instance 0 is nobody's: what has left the module for an operation that has been given up. -/
structure Flight where
  uid : Nat
  party : Party
  queue : Nat
  job : Job
  tenant : Nat
  die : Nat
  pos : Cl
  sup : Bool
  dst : Nat
  size : Nat
  lanes : BitVec 4
  parts : Tab Part
  faults : List (Nat × FaultInfo)
  entry : Bool
  deriving DecidableEq, Repr

/-- The base die's allocation of one pool cell: free, or allocated, with its generation (13_hamper R261, R262). -/
structure CellSt where
  used : Bool
  gen : BitVec 8
  deriving DecidableEq, Repr

/-- A migration slot of a base die (09_routes R219): the extent-store index, both frames, the lines copied, the
completion, whether it is a pool's, and the region. -/
structure Mig where
  ext : Nat
  old : Nat
  new : Nat
  lines : Nat
  op : Nat
  pool : Bool
  sl : Nat
  deriving DecidableEq, Repr

/-- A MAPX or MIGX request at a base die (R215, R218). -/
structure BaseReq where
  migrate : Bool
  tenant : Nat
  arg : Word
  frame : Word
  op : Nat
  deriving DecidableEq, Repr

/-- The host's grants of a tenant on a stack (R209): SL range and extent-store range. -/
structure Grant where
  sl : Nat
  slN : Nat
  x : Nat
  xN : Nat
  deriving DecidableEq, Repr

/-- A frame of a base die's frame map (R212). -/
structure Frame where
  owner : Option Nat
  mapped : Bool
  pool : Bool
  deriving DecidableEq, Repr

/-- A key slot (21_host_security R370): the TDI it is bound to, and the key material while one is loaded. -/
structure KeySlot where
  tdi : Option Nat
  key : Option (BitVec 512)
  deriving DecidableEq, Repr

/-- What a line is encrypted under: key material and tweak (21_host_security R370). -/
abbrev Seal := BitVec 512 × Nat

/-- A line in its home slice's cache (01_device R12), in plaintext: the slice, the tenant and the rights under which it was filled, the
number that its home goes by, the region and extent that cover it, and while it has not been written back, what the stack still
holds of it, with the seals of its eight blocks. -/
structure Cached where
  slice : Nat
  tenant : Nat
  rights : Nat
  home : Nat
  sl : Nat
  xl : Nat
  old : Option (Nat × List (Option Seal))
  deriving DecidableEq, Repr

/-- The tables of the levels (09_routes), the pools (13_hamper) and the fabric's tables (17_fabric). Keys: ranges
`tenant*32 + index`, domains `tenant*256 + DL`, regions and extents by stack and index, grants and pool labels
`tenant*16 + stack`, cells `(tenant*16 + stack)*2^28 + cell`, key slots `stack*32 + slot`, seals by
16-byte block of memory, `fills` by frame `stack*2^17 + frame` (the seal of its line 0 where a block has none of its own), `forms`
by line (the stored form of a line written with recoding, none for a raw one), windows `(die*16 + tenant)*8 +
index`, translations `(die*16 + tenant)*2^45 + page`, groups `tenant*4 + die`, causal peers by tenant. -/
structure Tables where
  ranges : Tab RangeImage
  domains : Tab W64
  regions : Tab (W64 × W64)
  extents : Tab Word
  frames : Tab Frame
  grants : Tab Grant
  pools : Tab Nat
  cells : Tab CellSt
  migs : Tab Mig
  reqs : Tab (List BaseReq)
  keys : Tab KeySlot
  seals : Tab (Option Seal)
  fills : Tab Seal
  forms : Tab (Option (BitVec 712))
  hypervisor : Option Nat
  selfpl : Tab (BitVec 12)
  windows : Tab (W64 × W64)
  atc : Tab Translation
  groups : Tab (Nat × Nat)
  peers : Tab (List Nat)
  swap : Tab W64
  deriving DecidableEq, Repr

/-- Supervisor CSRs of a tenant on a die (Table 5-2). -/
structure SupCsr where
  tvec : W64
  waitcap : Word
  weight : Word
  ctxbase : W64
  preemptcfg : Word
  deriving DecidableEq, Repr

/-- What the admission unit has read of a card at a queue head (04_execution R86): its eight dwords, or nothing readable. -/
inductive CardRead where
  | card (dwords : List Nat)
  | unreadable
  deriving DecidableEq, Repr

/-- An entry of a card queue (04_execution R87), with the itinerary's table and entry where the engine has posted it, the place in
the queue's ring that it lies at, where it is not held on chip, and what has been read of the card at the head (R86). -/
structure Queued where
  route : W64
  tenant : Nat
  entry : Option (Nat × Nat)
  ring : Option Nat
  card : Option CardRead
  deriving DecidableEq, Repr

/-- A member of a saved unit: the workgroup as it stood, the route of its save slot, where its record could be written, the slot's
number, the workgroup slot it left, and by quad what has reached it since: instructions to be executed again, and reports (05_traps
R120, R125). -/
structure SavedWg where
  wg : Wg
  record : Option W64
  slot : Nat
  place : Nat
  late : List (Nat × Redo)
  reports : List (Nat × FaultInfo × Cl)
  deriving DecidableEq, Repr

/-- What has no field in a save record whose blocks carry its handle: a workgroup, and the operations of its store buffers (05_traps
R120). -/
structure SaveImage where
  wg : Wg
  flights : Tab Flight
  deriving DecidableEq, Repr

/-- Why a saved unit is ending: the fault, with the workgroup and the party that it names (05_traps R113). -/
structure Ending where
  fault : FaultInfo
  uid : Nat
  origin : Nat
  deriving DecidableEq, Repr

/-- A swapped-out or pre-empted unit (04_execution R98-R100): cause, members, cycles since its save or its last test, or since it
began to end, whether its wake test has passed, and why it is ending, if it is. -/
structure Saved where
  unit : Nat
  cause : Nat
  cluster : Nat
  wgs : List SavedWg
  cycles : Nat
  passed : Bool
  ended : Option Ending
  deriving DecidableEq, Repr

/-- The barrier of a cluster group (08_quad_control R182): id of the phase, phase number, the quads that have arrived. -/
structure CBar where
  id : Option Nat
  phase : Nat
  arrived : List (Nat × Nat)
  deriving DecidableEq, Repr

/-- A join decrement that a completed task owes (04_execution R90). -/
structure Join where
  succ : W64
  tenant : Nat
  die : Nat
  cluster : Nat
  card : W64
  deriving DecidableEq, Repr

/-- A link end (17_fabric R321 to R323, R327): the next SEQ, the flits not yet acknowledged by the beats they carry, the beats
that wait for a flit, the messages that wait on each virtual channel (`(tenant*4 + class)*8 + hop`), the SEQ expected, the flits
sent, the messages received that have not yet been handled. A beat is a message's, by number. -/
structure Link where
  up : Bool
  next : BitVec 12
  retry : List (BitVec 12 × List (FabricMsg × Nat))
  beats : List (FabricMsg × Nat)
  pending : Tab (List FabricMsg)
  expect : BitVec 12
  nakSent : Bool
  lastNak : Option (BitVec 12)
  naks : Nat
  wire : List Flit
  inbox : List FabricMsg
  eq : Nat
  deriving DecidableEq, Repr

/-- A packet in a die's hold store, or a refused one with the link it leaves by, `die` then being that link, and the cycles
since its refusal (17_fabric R330). -/
structure Held where
  die : Nat
  age : Nat
  msg : FabricMsg
  deriving DecidableEq, Repr

/-- An operation of the itinerary engine on another module (19_itinerary R354, R359): its name, its tenant, the cycles since it
left, the range entry it passed, its route, the path slots that have not answered, whether it is counted there, and its numbers on
them (17_fabric R330). -/
structure EngineOp where
  op : Nat
  tenant : Nat
  age : Nat
  range : Nat × RangeImage
  route : W64
  slots : List Nat
  counted : Bool
  ords : List (Nat × Nat)
  deriving DecidableEq, Repr

/-- An itinerary entry as it runs (19_itinerary R350 to R354). Phases: 1 posted, 2 resident, 3 saved, 4 completed,
5 closed, 6 will not close; `queued` whether its card is in its queue. `names` are the cells handed over, `record` the stash
record pushed or popped, `sent` whether the steps that follow the copies' acknowledgements are done, `copies`, `notes` and
`rets` the copies, the notice and the seat return not yet acknowledged. -/
structure EntryRun where
  phase : Nat
  queued : Bool
  done : Bool
  names : List W64
  start : Nat
  finish : Nat
  sent : Bool
  copies : List EngineOp
  notes : List EngineOp
  rets : List EngineOp
  record : Nat
  deriving DecidableEq, Repr

/-- A seat: 0 empty, 1 full, 2 in use, with its count of cells. -/
structure Seat where
  st : Nat
  count : Nat
  deriving DecidableEq, Repr

/-- The itinerary engine (19_itinerary R343-R360). Counters: 0 WAITIN, 1 WAITSEAT, 2 WAITSTASH, 3 WAITCORE. `serial` names a run
of a table, `last` is the cycle in which an entry last started, `strays` are operations of earlier runs that nothing has
answered. `cut`: the engine has discarded its unsent copies; `gone`: a peer of the table is lost (R358, R359). -/
structure Itin where
  serial : Nat
  last : Option Nat
  strays : List EngineOp
  owner : Option Nat
  st : Nat
  hdr : List W64
  ents : List (W64 × W64)
  next : Nat
  runs : Tab EntryRun
  act : Tab Seat
  grad : Tab Seat
  dnfree : Nat
  upfree : Nat
  pushes : Nat
  pops : Nat
  stash : Nat
  counters : Tab Nat
  closed : Nat
  fcause : Nat
  hostMark : Bool
  cut : Bool
  gone : Bool
  deriving DecidableEq, Repr

/-- An error record (Table 17-5). -/
structure ErrRec where
  kind : Nat
  tenant : Nat
  trap : TrapRec
  context : Nat
  card : W64
  case : Nat
  pending : Nat
  place : Nat
  tskid : List Word
  deriving DecidableEq, Repr

/-- A device answer to the host: to a KEY_SET of a TDI's session (21_host_security R371), to a launch (04_execution R87), the old
value of a completed AtomicOp, none where it is refused (R366), the status of a pre-emption request that is refused (05_traps
R123), and the code of a refused write of a tenant's tables (R368). -/
inductive HostAnswer where
  | keySet (tdi : Nat) (ok : Bool)
  | launch (tenant : Nat) (ok : Bool)
  | atomic (tdi : Nat) (value : Option Nat)
  | preempt (slot status : Nat)
  | table (tenant code : Nat)
  deriving DecidableEq, Repr

/-- The part of a measurement report that is a TDI's own: blocks 3 and 4 of Table 21-3. -/
structure TdiReport where
  tdi : Nat
  ranges : List (Nat × RangeImage)
  grants : List (Nat × Grant)
  frames : List (Nat × Nat)
  pools : List (Nat × Nat)
  waitcap : List Word
  weights : List Word
  state : TdiState
  deriving DecidableEq, Repr

/-- An SPDM measurement report (21_host_security R373): the nonce, the certificate chain of slot 0, block 1 and block 2 with the
life-cycle state and the readiness map, the TDI's blocks unless function 0 has asked, and the signed hash over the blocks. -/
structure Report where
  nonce : BitVec 256
  chain : BitVec 1024
  firmware : BitVec 384
  hardware : BitVec 384
  life : LifeCycle
  ready : BitVec 672
  own : Option TdiReport
  hash : BitVec 768
  deriving DecidableEq, Repr

/-- A row's activation counter (21_host_security R380). -/
structure Row where
  count : Nat
  parity : Bool
  deriving DecidableEq, Repr

/-- The host's side: clocks, power, life cycle, readiness, errors, attestation, TDIs (21_host_security). `answers` are those
that the host has received; `clock` is keyed `die*6 + part`. -/
structure HostSide where
  cycle : Tab Nat
  clock : Tab Nat
  hot : Tab Unit
  refresh : Tab Nat
  powerCap : Nat
  shut : Bool
  life : LifeCycle
  ready : BitVec 672
  ringBase : W64
  ringSize : Nat
  ringUsed : Nat
  drops : Word
  msix : Nat
  records : List ErrRec
  ideErrors : Nat
  reports : List Report
  answers : List HostAnswer
  tdi : Tab TdiState
  scrub : Tab (Nat × Bool)
  corrected : Tab Nat
  uncorrected : Tab Nat
  dropped : Tab Nat
  dropBacks : Tab Nat
  recoded : Tab Nat
  raw : Tab Nat
  rows : Tab Row
  rowEvents : Tab Nat
  deriving DecidableEq, Repr

/-- What a message does once it has crossed a bridge: it leaves on a link, or with none on the host link; a message whose label this
module has popped reaches its die; an ATS request for a line access reaches the die of the host link (01_device R15, 17_fabric
R325, R326). -/
inductive Errand where
  | leave (port : Option Nat) (m : FabricMsg)
  | reach (m : FabricMsg)
  | translate (tenant op part : Nat)
  deriving DecidableEq, Repr

/-- A message that waits to cross the bridge from a die to another (01_device R6). -/
structure Transit where
  src : Nat
  dst : Nat
  what : Errand
  deriving DecidableEq, Repr

/-- The fabric's side (17_fabric): links, counts, hold store; `outbox` holds the messages handed to a link, or to the host
link (`none`), that nothing has answered. `clocks` are the vector clocks, by `die*16 + tenant`, and `applied` how many releases
of a die are known to have been applied, both by component, `(tenant*2^16 + group)*256 + index` (R328, R332); `stamps` are the
releases that the value of a 4-byte word comes from, by `key/4`, then by instance (10_memory_ops R237). `bsent` and `brcv` count
the line accesses that have crossed a bridge and those that have been performed, by `(from*4 + to)*16 + tenant` (R330). `lrg` is
each crossbar output's order of inputs from the least recently granted on, by `die*192 + port` (01_device R9). `met` keeps, beside
RCV, the number up to which packets of a slot have been performed and the earlier ones that have not been (R330); `transit` the
messages that wait to cross a bridge (01_device R6, R15). -/
structure Fabric where
  links : Tab Link
  sent : Tab Nat
  acked : Tab Nat
  rcv : Tab Nat
  hold : List Held
  resend : List Held
  outbox : List (Option Nat × FabricMsg)
  late : Tab Nat
  clocks : Tab (Tab Nat)
  applied : Tab Nat
  stamps : Tab (Tab (Tab Nat))
  ftimeout : Tab Nat
  bsent : Tab Nat
  brcv : Tab Nat
  lrg : Tab (List Nat)
  met : Tab (Nat × List Nat)
  transit : List Transit
  deriving DecidableEq, Repr

/-- A core's matrix engine: its workgroup slots from the least recently issued on, and the cycle from which it is free
(15_matrix R297). -/
structure EngineTurns where
  order : List Nat
  busy : Nat
  deriving DecidableEq, Repr

/-- Queues, joins, deficits, the turns of the matrix engines, saved units and the images of save records by handle (04_execution, 05_traps R120). Queues are keyed `cluster*4 + priority` with the cluster
numbered `die*6 + cluster`. -/
structure Sched where
  queues : Tab (List Queued)
  rings : Tab (W64 × Nat)
  joins : List Join
  deficits : Tab Nat
  matrix : Tab EngineTurns
  saved : List Saved
  cbars : Tab CBar
  gens : Tab Nat
  csrs : Tab SupCsr
  images : Tab SaveImage
  deriving DecidableEq, Repr

/-- The state of the module: `mem` is what each location holds, in its home slice, in plaintext, or else in its stack, as the seal of
its block decrypts it; `cache` and `poison` are keyed by line. -/
structure State where
  mem : Memory
  cache : Tab Cached
  poison : Tab Unit
  tab : Tables
  host : HostSide
  fab : Fabric
  sched : Sched
  itin : Itin
  wgs : Tab Wg
  flights : Tab Flight
  agenda : List Turn
  focus : Option Party
  nextId : Nat
  free : Nat
  deriving DecidableEq, Repr

/-- The machine stops. -/
inductive Fault where
  /-- The module is in thermal shutdown (21_host_security R377): raised by `step` alone, until the host resets the device.
  Safe: the manual lets nothing run then. -/
  | thermalShutdown
  deriving DecidableEq, Repr

/-- The model gives no meaning. -/
inductive Refusal where
  /-- An arm of `exec` whose instruction has no meaning yet. Safe: nothing follows from it. -/
  | notModelled (mnemonic : String)
  deriving DecidableEq, Repr

/-- The supervisor CSRs when a tenant comes into existence (05_traps R108). -/
def SupCsr.init : SupCsr := ⟨0, 65536, 1, 0, 0⟩

/-- Nothing runs, nothing is mapped: every table empty, every memory zero (21_host_security R374, 09_routes R212,
19_itinerary R346, 17_fabric R331, R338). Values that the manual leaves open are those of log entries 4 to 8. -/
def State.reset : State where
  mem := []
  cache := []
  poison := []
  tab := {
    ranges := [], domains := [], regions := [], extents := [], frames := [], grants := [], pools := [], cells := [],
    migs := [], reqs := [], keys := [], seals := [], fills := [], forms := [], hypervisor := none, selfpl := [], windows := [], atc := [], groups := [],
    peers := [], swap := [] }
  host := {
    cycle := [], clock := [], hot := [], refresh := [], powerCap := 6500, shut := false, life := .secure, ready := 0,
    ringBase := 0, ringSize := 0, ringUsed := 0, drops := 0, msix := 0, records := [], ideErrors := 0, reports := [], answers := [],
    tdi := [], scrub := [], corrected := [], uncorrected := [], dropped := [], dropBacks := [], recoded := [], raw := [], rows := [],
    rowEvents := [] }
  fab := {
    links := [], sent := [], acked := [], rcv := [], hold := [], resend := [], outbox := [], late := [], clocks := [], applied := [], stamps := [],
    ftimeout := [], bsent := [], brcv := [], lrg := [], met := [], transit := [] }
  sched := {
    queues := [], rings := [], joins := [], deficits := [], matrix := [], saved := [], cbars := [], gens := [], csrs := [],
    images := [] }
  itin := {
    serial := 0, last := none, strays := [], owner := none, st := 0, hdr := [], ents := [], next := 0, runs := [], act := [], grad := [], dnfree := 0, upfree := 0,
    pushes := 0, pops := 0, stash := 0, counters := [], closed := 0, fcause := 0, hostMark := false, cut := false, gone := false }
  wgs := []
  flights := []
  agenda := []
  focus := none
  nextId := 0
  free := 0

end Sys2Proof.Machine
end

