-- ==== Sys2Proof/Machine/Operands.lean ====
section
/-!
DEFINITION. The operand forms of the quads and the sequencers: window-relative registers, pairs, groups, predicates,
guards, literals, effective addresses (03_encoding R53 to R57, 07_quad_compute R145, R146, 10_memory_ops R226, R244).
-/
namespace Sys2Proof
namespace Machine

/-- The lanes of a quad (R75). -/
def lanes : List Nat := [0, 1, 2, 3]

/-- The lane mask that names the lanes of a list. -/
def maskOf (ls : List Nat) : BitVec 4 := BitVec.ofNat 4 ((ls.map (fun l => 2 ^ l)).foldl (· ||| ·) 0)

/-- The lanes a mask names, ascending. -/
def lanesOf (m : BitVec 4) : List Nat := lanes.filter (fun l => m.getLsbD l)

/-- Active(Q): the lanes whose mask bit is 1, ascending (Table 2-6). -/
def Quad.active (q : Quad) : List Nat := lanesOf q.mask

/-- The lowest active lane; a live quad's mask is never empty (08_quad_control R167, R170). -/
def Quad.lowest (q : Quad) : Nat := q.active.headD 0

/-- The physical register of a window field: `(base + n) mod 256`; the launch base is physical register 0 (R53). -/
def Quad.phys (q : Quad) (n : Nat) : Nat := (q.depth + n) % 256

/-- v[L][n]. -/
def Quad.reg (q : Quad) (l n : Nat) : Word := Tab.get 0 q.regs (l * 256 + q.phys n)

/-- v[L][n] ← x. -/
def Quad.setReg (q : Quad) (l n : Nat) (x : Word) : Quad :=
  { q with regs := Tab.set 0 q.regs (l * 256 + q.phys n) x }

/-- v[L][n:n+1], low word in n (R31). -/
def Quad.pair (q : Quad) (l n : Nat) : W64 := q.reg l (n + 1) ++ q.reg l n

/-- v[L][n:n+1] ← x. -/
def Quad.setPair (q : Quad) (l n : Nat) (x : W64) : Quad :=
  (q.setReg l n (x.setWidth 32)).setReg l (n + 1) (x.extractLsb' 32 32)

/-- The group of `c` registers from n up, as one number, register n lowest (R31). -/
def Quad.group (q : Quad) (l n c : Nat) : Nat :=
  match c with
  | 0 => 0
  | c + 1 => (q.reg l n).toNat + 2 ^ 32 * Quad.group q l (n + 1) c

/-- Writes a group of `c` registers. -/
def Quad.setGroup (q : Quad) (l n c x : Nat) : Quad :=
  match c with
  | 0 => q
  | c + 1 => Quad.setGroup (q.setReg l n (BitVec.ofNat 32 x)) l (n + 1) c (x / 2 ^ 32)

/-- p[L][n]. -/
def Quad.pred (q : Quad) (l n : Nat) : Bool := (Tab.get 0 q.preds l).getLsbD n

/-- p[L][n] ← b. -/
def Quad.setPred (q : Quad) (l n : Nat) (b : Bool) : Quad :=
  let old := Tab.get 0 q.preds l
  let m : BitVec 24 := BitVec.ofNat 24 (2 ^ n)
  { q with preds := Tab.set 0 q.preds l (if b then old ||| m else old &&& ~~~m) }

/-- Guard(L, GN, GP): true when GP = 31, otherwise p[L][GP] XOR GN (Table 2-6); also the condition of a branch (R169). -/
def Quad.guard (q : Quad) (l : Nat) (gn : Bool) (gp : BitVec 5) : Bool :=
  if gp.toNat = 31 then true else (q.pred l gp.toNat) ^^ gn

/-- The active lanes whose guard is true. -/
def Quad.guarded (q : Quad) (a : RArgs) : List Nat := q.active.filter (fun l => q.guard l a.gn a.gp)

/-- A single-register source (R55). -/
def Quad.src (q : Quad) (l : Nat) (b : Src) : Word :=
  match b with
  | .reg n => q.reg l n.toNat
  | .lit w => w

/-- A pair source; a literal is sign-extended (R55). -/
def Quad.src64 (q : Quad) (l : Nat) (b : Src) : W64 :=
  match b with
  | .reg n => q.pair l n.toNat
  | .lit w => w.signExtend 64

end Machine

/-- The words an instruction with this source takes. -/
def Src.size (b : Src) : Nat :=
  match b with
  | .reg _ => 1
  | .lit _ => 2

namespace Machine

/-- The next place after `n` words of the clause (R48). -/
def Cl.next (c : Cl) (n : Nat) : Cl := ⟨c.hdr, c.idx + n, c.rem - n, c.cls, none⟩

/-- The quad has completed an instruction of `n` words. -/
def Quad.advance (q : Quad) (n : Nat) : Quad := { q with cl := q.cl.next n, await := none, got := [] }

/-- Writes `f l` to register `d` of each lane of the list. Every `f l` is computed before any lane is written (R43). -/
def Quad.writeLanes (q : Quad) (ls : List Nat) (d : Nat) (f : Nat → Word) : Quad :=
  ls.foldl (fun r l => r.setReg l d (f l)) q

/-- Writes `f l` to the pair `d` of each lane of the list. -/
def Quad.writePairs (q : Quad) (ls : List Nat) (d : Nat) (f : Nat → W64) : Quad :=
  ls.foldl (fun r l => r.setPair l d (f l)) q

/-- Writes `f l` to the group of `c` registers at `d` of each lane of the list. -/
def Quad.writeGroups (q : Quad) (ls : List Nat) (d c : Nat) (f : Nat → Nat) : Quad :=
  ls.foldl (fun r l => r.setGroup l d c (f l)) q

/-- Writes `f l` to predicate `d` of each lane of the list. -/
def Quad.writePreds (q : Quad) (ls : List Nat) (d : Nat) (f : Nat → Bool) : Quad :=
  ls.foldl (fun r l => r.setPred l d (f l)) q

/-- The effective address of an M-format route: pair A plus the signed offset in units of the access size (R226). -/
def Quad.route (q : Quad) (l : Nat) (a : MArgs) (size : Nat) : W64 :=
  q.pair l a.a.toNat + BitVec.ofInt 64 (a.off.toInt * size)

/-- The scratchpad address of lane L: the scaled offset is added to OFFSET modulo 2^21 and never reaches CORE (R244). -/
def Quad.scratchAddr (q : Quad) (l : Nat) (a : MArgs) (size : Nat) : Nat :=
  let v := (q.reg l a.a.toNat).toNat
  v / 2 ^ 21 * 2 ^ 21 + wrap 21 ((v % 2 ^ 21 : Nat) + a.off.toInt * size)

/-- The private address of lane L (R246). -/
def Quad.privAddr (q : Quad) (l : Nat) (a : MArgs) : Nat :=
  (q.reg l a.a.toNat + BitVec.ofInt 32 (a.off.toInt * 4)).toNat

/-- A 32-bit comparison with the CC codes of ICMP (R151). -/
def ccHolds (cc : BitVec 3) {w : Nat} (a b : BitVec w) : Bool :=
  match cc.toNat with
  | 0 => a == b
  | 1 => a != b
  | 2 => a.slt b
  | 3 => a.sle b
  | 4 => b.slt a
  | 5 => b.sle a
  | 6 => a.ult b
  | _ => b.ule a

/-- The combination of a comparison with the old predicate: 00 set, 01 AND, 10 OR, 11 XOR (R59, R151). -/
def combine (cmb : BitVec 2) (old c : Bool) : Bool :=
  match cmb.toNat with
  | 0 => c
  | 1 => old && c
  | 2 => old || c
  | _ => old ^^ c

/-- k[n] of a sequencer context. -/
def Seq.reg (s : Seq) (n : Nat) : W64 := Tab.get 0 s.k n

/-- k[n] ← x. -/
def Seq.setReg (s : Seq) (n : Nat) (x : W64) : Seq := { s with k := Tab.set 0 s.k n x }

/-- The second source of a K form; a literal is sign-extended (R55). -/
def Seq.src (s : Seq) (b : KSrc) : W64 :=
  match b with
  | .k n => s.reg n.toNat
  | .lit w => w.signExtend 64

end Machine

/-- The words of a K form. -/
def KSrc.size (b : KSrc) : Nat :=
  match b with
  | .k _ => 1
  | .lit _ => 2

namespace Machine

/-- The context has completed an instruction of `n` words. -/
def Seq.advance (s : Seq) (n : Nat) : Seq := { s with cl := s.cl.next n, await := none, got := [] }

/-- The target of a branch: h + 4 × SignExt(OFF16), h the header of the clause that holds it (R62). -/
def Cl.target (c : Cl) (off : BitVec 16) : W64 := c.hdr + BitVec.ofInt 64 (off.toInt * 4)

/-- A place whose next word is a clause header at `a`. -/
def Cl.start (a : W64) : Cl := ⟨a, 0, 0, 0, none⟩

/-- The place of a transfer's target `a`, whose header `h` the transfer has fetched (R50). -/
def Cl.enter (a : W64) (h : Word) : Cl := ⟨a, 0, 0, 0, some h⟩

end Machine
end Sys2Proof
end

