-- ==== Sys2Proof/Machine/Flags.lean ====
section
/-!
DEFINITION. Number formats, rounding, conversions, lane arithmetic and their flags (06_numbers R126 to R143). A finite
value is held exactly, as a sign and `m × 2^e`; it is rounded once, here.
-/
namespace Sys2Proof.Machine

open Sys2Proof

/-- The flags of FPSTAT (Table 6-8). -/
def fNX : Nat := 1
def fUF : Nat := 2
def fOF : Nat := 4
def fDZ : Nat := 8
def fNV : Nat := 16

/-- ORs flags into FPSTAT (R143). -/
def Quad.flag (q : Quad) (f : Nat) : Quad := { q with fpstat := q.fpstat ||| BitVec.ofNat 32 f }

/-- A floating-point format (Table 6-1): exponent and mantissa bits, bias, has infinity, has NaN. -/
structure Fmt where
  e : Nat
  m : Nat
  bias : Nat
  inf : Bool
  nan : Bool
  deriving DecidableEq, Repr

def F32 : Fmt := ⟨8, 23, 127, true, true⟩
def BF16 : Fmt := ⟨8, 7, 127, true, true⟩
def F16 : Fmt := ⟨5, 10, 15, true, true⟩
def E4M3 : Fmt := ⟨4, 3, 7, false, true⟩
def E5M2 : Fmt := ⟨5, 2, 15, true, true⟩
def E2M3 : Fmt := ⟨2, 3, 1, false, false⟩
def E3M2 : Fmt := ⟨3, 2, 3, false, false⟩
def E2M1 : Fmt := ⟨2, 1, 1, false, false⟩

/-- The format of a type code, 2 to 9 (Table 6-1). -/
def fmtOf (code : Nat) : Option Fmt :=
  match code with
  | 2 => some F32
  | 3 => some BF16
  | 4 => some F16
  | 5 => some E4M3
  | 6 => some E5M2
  | 7 => some E2M3
  | 8 => some E3M2
  | 9 => some E2M1
  | _ => none

/-- Width of an element. -/
def Fmt.width (f : Fmt) : Nat := 1 + f.e + f.m

/-- A value: NaN (signalling or quiet), an infinity, or `(-1)^neg × m × 2^e`. -/
inductive Num where
  | nan (signalling : Bool)
  | inf (neg : Bool)
  | fin (neg : Bool) (m : Nat) (e : Int)
  deriving DecidableEq, Repr

/-- The value of an element (R127, R128). -/
def Fmt.value (f : Fmt) (x : Nat) : Num :=
  let s := bit x (f.width - 1)
  let ex := x / 2 ^ f.m % 2 ^ f.e
  let mn := x % 2 ^ f.m
  if f.inf && ex == 2 ^ f.e - 1 then
    if mn == 0 then .inf s else .nan (mn < 2 ^ (f.m - 1))
  else if f.nan && !f.inf && ex == 2 ^ f.e - 1 && mn == 2 ^ f.m - 1 then .nan false
  else if ex == 0 then .fin s mn (1 - (f.bias : Int) - f.m)
  else .fin s (2 ^ f.m + mn) ((ex : Int) - f.bias - f.m)

/-- The canonical NaN (R128); +0 in a format without NaN (R138). -/
def Fmt.canon (f : Fmt) : Nat :=
  if f.inf then (2 ^ f.e - 1) * 2 ^ f.m + 2 ^ (f.m - 1) else if f.nan then 2 ^ (f.e + f.m) - 1 else 0

/-- The magnitude pattern of the largest finite value. -/
def Fmt.maxMag (f : Fmt) : Nat :=
  if f.inf then (2 ^ f.e - 1) * 2 ^ f.m - 1 else if f.nan then 2 ^ (f.e + f.m) - 2 else 2 ^ (f.e + f.m) - 1

/-- A magnitude with its sign. -/
def Fmt.pack (f : Fmt) (neg : Bool) (mag : Nat) : Nat := mag + (if neg then 2 ^ (f.width - 1) else 0)

/-- Rounds `m / 2^sh` to an integer by a mode of R135. -/
def roundShift (mode : Nat) (neg : Bool) (m sh : Nat) : Nat :=
  let q := m / 2 ^ sh
  let r := m % 2 ^ sh
  if r = 0 then q
  else
    match mode with
    | 0 => if 2 * r > 2 ^ sh || (2 * r == 2 ^ sh && q % 2 == 1) then q + 1 else q
    | 1 => q
    | 2 => if neg then q + 1 else q
    | _ => if neg then q else q + 1

/-- Is the overflowed result the infinity (Table 6-6)? -/
def overflowsToInf (mode : Nat) (neg : Bool) : Bool :=
  match mode with
  | 0 => true
  | 1 => false
  | 2 => neg
  | _ => !neg

/-- Rounds `(-1)^neg × m × 2^e` to a format: the pattern and its flags (R135 to R137; with `sat`, overflow gives the
largest finite value). -/
def Fmt.round (f : Fmt) (mode : Nat) (sat : Bool) (neg : Bool) (m : Nat) (e : Int) : Nat × Nat :=
  if m = 0 then (f.pack neg 0, 0)
  else
    let emin : Int := 1 - f.bias
    let lg : Int := m.log2 + e
    let q : Int := max lg emin - f.m
    let sh : Nat := min (q - e).toNat (m.log2 + 3)
    let sig : Nat := if e ≥ q then m * 2 ^ (e - q).toNat else roundShift mode neg m sh
    let exact : Bool := e ≥ q || m % 2 ^ sh == 0
    let mag : Nat :=
      if sig < 2 ^ f.m then sig else (q + f.m + f.bias).toNat * 2 ^ f.m + (sig - 2 ^ f.m)
    if mag > f.maxMag then
      (if f.inf && !sat && overflowsToInf mode neg then f.pack neg (f.maxMag + 1) else f.pack neg f.maxMag, fOF + fNX)
    else
      -- tiny: below 2^emin after rounding as if the exponent range were unbounded below
      let q0 : Int := lg - f.m
      let up : Bool := lg == emin - 1 && q0 > e && roundShift mode neg m (q0 - e).toNat == 2 ^ (f.m + 1)
      let tiny : Bool := lg < emin && !up
      (f.pack neg mag, if exact then 0 else if tiny then fUF + fNX else fNX)

/-- A value converted to a format (R138). -/
def Fmt.convert (f : Fmt) (mode : Nat) (sat : Bool) (x : Num) : Nat × Nat :=
  match x with
  | .nan s => (f.canon, if s || !f.nan then fNV else 0)
  | .inf neg => if f.inf && !sat then (f.pack neg (f.maxMag + 1), 0) else (f.pack neg f.maxMag, fNV)
  | .fin neg m e => f.round mode sat neg m e

/-- Is the value a signalling NaN? -/
def Num.isSig (x : Num) : Bool :=
  match x with
  | .nan s => s
  | _ => false

/-- The exact product of two values, with NV for ∞ × 0 and for signalling NaNs (R141, R156). -/
def Num.mul (x y : Num) : Num × Nat :=
  let nv := if x.isSig || y.isSig then fNV else 0
  match x, y with
  | .nan _, _ => (.nan false, nv)
  | _, .nan _ => (.nan false, nv)
  | .inf s, .inf t => (.inf (s ^^ t), 0)
  | .inf s, .fin t m _ => if m = 0 then (.nan false, fNV) else (.inf (s ^^ t), 0)
  | .fin t m _, .inf s => if m = 0 then (.nan false, fNV) else (.inf (s ^^ t), 0)
  | .fin s m e, .fin t n g => (.fin (s ^^ t) (m * n) (e + g), 0)

/-- A signed integer of a finite value scaled to exponent `g`, at or below its own. -/
def scaled (neg : Bool) (m : Nat) (e g : Int) : Int :=
  let v : Int := (m * 2 ^ (e - g).toNat : Nat)
  if neg then -v else v

/-- The exact sum of two values (R141). An exact zero sum is +0 unless both are negative. -/
def Num.add (x y : Num) : Num × Nat :=
  let nv := if x.isSig || y.isSig then fNV else 0
  match x, y with
  | .nan _, _ => (.nan false, nv)
  | _, .nan _ => (.nan false, nv)
  | .inf s, .inf t => if s == t then (.inf s, 0) else (.nan false, fNV)
  | .inf s, .fin _ _ _ => (.inf s, 0)
  | .fin _ _ _, .inf t => (.inf t, 0)
  | .fin s m e, .fin t n g =>
    let h := min e g
    let v := scaled s m e h + scaled t n g h
    (.fin (if v = 0 then s && t else v < 0) v.natAbs h, 0)

/-- The value with its sign inverted. -/
def Num.neg (x : Num) : Num :=
  match x with
  | .nan s => .nan s
  | .inf s => .inf (!s)
  | .fin s m e => .fin (!s) m e

/-- Rounds a result in RNE, ORing the flags it already has. -/
def Fmt.result (f : Fmt) (r : Num × Nat) : Nat × Nat :=
  let c := f.convert 0 false r.1
  (c.1, c.2 ||| r.2)

/-- a + b. -/
def Fmt.add (f : Fmt) (a b : Nat) : Nat × Nat := f.result ((f.value a).add (f.value b))
/-- a − b. -/
def Fmt.sub (f : Fmt) (a b : Nat) : Nat × Nat := f.result ((f.value a).add (f.value b).neg)
/-- a × b. -/
def Fmt.mul (f : Fmt) (a b : Nat) : Nat × Nat := f.result ((f.value a).mul (f.value b))
/-- a × b + d, rounded once (R141, R156). -/
def Fmt.fma (f : Fmt) (a b d : Nat) : Nat × Nat :=
  let p := (f.value a).mul (f.value b)
  let s := p.1.add (f.value d)
  f.result (s.1, s.2 ||| p.2)

/-- Is a less than b, as FMIN and FCMP order values; zeros of either sign are equal. -/
def Num.lt (x y : Num) : Bool :=
  match x, y with
  | .nan _, _ => false
  | _, .nan _ => false
  | .inf s, .inf t => s && !t
  | .inf s, .fin _ _ _ => s
  | .fin _ _ _, .inf t => !t
  | .fin s m e, .fin t n g => scaled s m e (min e g) < scaled t n g (min e g)

/-- Is the value NaN? -/
def Num.isNan (x : Num) : Bool :=
  match x with
  | .nan _ => true
  | _ => false

/-- FMIN (`max = false`) and FMAX (R157): −0 counts as less than +0. -/
def fminmax (max : Bool) (a b : Nat) : Nat × Nat :=
  let x := F32.value a
  let y := F32.value b
  let nv := if x.isSig || y.isSig then fNV else 0
  let less := x.lt y || (!(y.lt x) && bit a 31 && !bit b 31)
  (if x.isNan && y.isNan then F32.canon else if x.isNan then b else if y.isNan then a
   else if less ^^ max then a else b, nv)

/-- FCMP (R152): the condition and its flags. -/
def fcmp (cc : Nat) (a b : Nat) : Bool × Nat :=
  let x := F32.value a
  let y := F32.value b
  let un := x.isNan || y.isNan
  let sig := x.isSig || y.isSig
  let eq := !(x.lt y) && !(y.lt x)
  (if un then cc == 1 || cc == 7
   else match cc with
    | 0 => eq
    | 1 => !eq
    | 2 => x.lt y
    | 3 => !(y.lt x)
    | 4 => y.lt x
    | 5 => !(x.lt y)
    | 6 => true
    | _ => false,
   if sig || (un && 2 ≤ cc && cc ≤ 5) then fNV else 0)

/-- FABS and FNEG of F32 (R156): a NaN gives the canonical NaN, NV only when it signals. -/
def fsign (f : Nat → Nat) (a : Nat) : Nat × Nat :=
  match F32.value a with
  | .nan s => (F32.canon, if s then fNV else 0)
  | _ => (f a, 0)

/-- FSCALE: a × 2^n, rounded once (R156). -/
def fscale (a : Nat) (n : Int) : Nat × Nat :=
  match F32.value a with
  | .fin s m e => F32.round 0 false s m (e + n)
  | x => F32.convert 0 false x

/-- Rounds a finite value to an integer magnitude, and whether that was exact. -/
def toInt (mode : Nat) (neg : Bool) (m : Nat) (e : Int) : Nat × Bool :=
  if e ≥ 0 then (m * 2 ^ e.toNat, true)
  else
    let sh := min (-e).toNat (m.log2 + 3)
    (roundShift mode neg m sh, m % 2 ^ sh == 0)

/-- FRND: the integral F32 value; the sign of a zero result is kept, NX is never set (R159). -/
def frnd (mode : Nat) (a : Nat) : Nat × Nat :=
  match F32.value a with
  | .fin s m e => ((F32.round 0 false s (toInt mode s m e).1 0).1, 0)
  | x => F32.convert 0 false x

/-- Width and signedness of an integer type code (Table 6-1). -/
def intType (code : Nat) : Option (Nat × Bool) :=
  match code with
  | 0 => some (32, true)
  | 1 => some (32, false)
  | 10 => some (8, true)
  | 11 => some (8, false)
  | 12 => some (16, true)
  | 13 => some (16, false)
  | _ => none

/-- Clamps an integer to a type's range. -/
def clampInt (w : Nat) (sgn : Bool) (z : Int) : Int :=
  let lo : Int := if sgn then -(2 ^ (w - 1) : Nat) else 0
  let hi : Int := if sgn then (2 ^ (w - 1) : Nat) - 1 else (2 ^ w : Nat) - 1
  max lo (min hi z)

/-- A float converted to an integer type: the integer and its flags (R139). -/
def floatToInt (mode w : Nat) (sgn : Bool) (x : Num) : Int × Nat :=
  match x with
  | .nan _ => (0, fNV)
  | .inf neg => (clampInt w sgn (if neg then -(2 ^ 64 : Nat) else (2 ^ 64 : Nat)), fNV)
  | .fin neg m e =>
    if m.log2 + e > 64 then (clampInt w sgn (if neg then -(2 ^ 64 : Nat) else (2 ^ 64 : Nat)), if m = 0 then 0 else fNV)
    else
      let r := toInt mode neg m e
      let z : Int := if neg then -(r.1 : Int) else r.1
      if clampInt w sgn z = z then (z, if r.2 then 0 else fNX) else (clampInt w sgn z, fNV)

/-- CVT of the low bits of `a` (R161): the result as it is written to v[D], and its flags. -/
def cvt (src dst mode : Nat) (sat : Bool) (a : Nat) : Nat × Nat :=
  match fmtOf src, fmtOf dst with
  | some f, some g => g.convert mode sat (f.value (a % 2 ^ f.width))
  | some f, none =>
    match intType dst with
    | some (w, sgn) => let r := floatToInt mode w sgn (f.value (a % 2 ^ f.width)); (wrap (if sgn then 32 else w) r.1, r.2)
    | none => (0, 0)
  | none, g? =>
    match intType src with
    | none => (0, 0)
    | some (v, s) =>
      let z : Int := if s then signed v a else (a % 2 ^ v : Nat)
      match g? with
      | some g => g.round mode sat (z < 0) z.natAbs 0
      | none =>
        match intType dst with
        | none => (0, 0)
        | some (w, sgn) =>
          let y := if sat then clampInt w sgn z else z
          (wrap 32 (if sgn then signed w (wrap w y) else (wrap w y : Nat)), 0)

/-- The integer square root, by bits from `2^n` down. -/
def isqrt (n x r : Nat) : Nat :=
  match n with
  | 0 => r
  | n + 1 => isqrt n x (if (r + 2 ^ n) * (r + 2 ^ n) ≤ x then r + 2 ^ n else r)

/-- FSQRT, correctly rounded (R158, Table 7-7). -/
def fsqrt (a : Nat) : Nat × Nat :=
  match F32.value a with
  | .nan s => (F32.canon, if s then fNV else 0)
  | .inf neg => if neg then (F32.canon, fNV) else (a, 0)
  | .fin neg m e =>
    if m = 0 then (a, 0)
    else if neg then (F32.canon, fNV)
    else
      let odd : Nat := (e % 2).toNat
      let n := m * 2 ^ (64 + odd)
      let r := isqrt 64 n 0
      F32.round 0 false false (2 * r + (if r * r = n then 0 else 1)) ((e - odd) / 2 - 33)

/-! ### The functions within a bound (R158)

The exact result `y` is enclosed between `lo` and `hi`, as integers over 2^320; the pattern returned is a free value among
those whose value is within the bound of `y`, wherever in the enclosure it lies. -/

/-- The fixed point of the enclosures. -/
def fixP : Nat := 320

/-- The value of an F32 magnitude pattern over 2^320; +∞ counts as 2^128. -/
def magValue (p : Nat) : Nat :=
  if p / 2 ^ 23 = 0 then p * 2 ^ (fixP - 149) else (2 ^ 23 + p % 2 ^ 23) * 2 ^ (fixP - 149 + (p / 2 ^ 23 - 1))

/-- The magnitudes within `k` ulp of every value in `[lo, hi]`, near the pattern `p`. -/
def within (k lo hi p : Nat) : List Nat :=
  let ulp := 2 ^ (max lo.log2 (fixP - 126) - 23)
  (((List.range 9).filter (fun i => 4 ≤ p + i)).map (fun i => p + i - 4)).filter
    (fun c => c ≤ 0x7F800000 && hi ≤ magValue c + k * ulp && magValue c ≤ lo + k * ulp)

/-- The magnitude pattern at or below a value; infinity from 2^128 up. -/
def floorMag (lo : Nat) : Nat :=
  if 2 ^ (fixP + 128) ≤ lo then 0x7F800000 else (F32.round 1 true false lo (-(fixP : Int))).1

/-- The pattern returned for a result in `[lo, hi]` within `k` ulp, chosen by the free value, with the flags that follow
from it (R158). `same c` says whether the pattern's value is `y` itself. -/
def approx (k : Nat) (neg : Bool) (lo hi free : Nat) (same : Nat → Bool) : Nat × Nat :=
  let cs := within k lo hi (floorMag lo)
  let c := cs.getD (free % cs.length) (floorMag lo)
  (F32.pack neg c,
   if c = 0x7F800000 then fOF + fNX else if c < 2 ^ 23 && !same c then fUF + fNX else fNX)

/-- Is a finite F32 value a power of two: its exponent. -/
def pow2 (m : Nat) (e : Int) : Option Int := if m = 2 ^ m.log2 then some (m.log2 + e) else none

/-- FRCP (R158, Table 7-7). -/
def frcp (free a : Nat) : Nat × Nat :=
  match F32.value a with
  | .nan s => (F32.canon, if s then fNV else 0)
  | .inf neg => (F32.pack neg 0, 0)
  | .fin neg m e =>
    if m = 0 then (F32.pack neg 0x7F800000, fDZ)
    else
      -- 1/a = 2^(-e) / m
      let lo := 2 ^ ((fixP : Int) - e).toNat / m
      match pow2 m e with
      | some n => if -126 ≤ -n && -n ≤ 127 then F32.round 0 false neg 1 (-n)
                  else approx 1 neg lo lo free (fun c => magValue c == lo)
      | none => approx 1 neg lo (lo + 1) free (fun _ => false)

/-- FRSQ. -/
def frsq (free a : Nat) : Nat × Nat :=
  match F32.value a with
  | .nan s => (F32.canon, if s then fNV else 0)
  | .inf neg => if neg then (F32.canon, fNV) else (0, 0)
  | .fin neg m e =>
    if m = 0 then (F32.pack neg 0x7F800000, fDZ)
    else if neg then (F32.canon, fNV)
    else
      match pow2 m e with
      | some n => if n % 2 = 0 then F32.round 0 false false 1 (-n / 2)
                  else let lo := isqrt 420 (2 ^ ((2 * fixP : Int) - e).toNat / m) 0; approx 1 false lo (lo + 1) free (fun _ => false)
      | none => let lo := isqrt 420 (2 ^ ((2 * fixP : Int) - e).toNat / m) 0; approx 1 false lo (lo + 1) free (fun _ => false)

/-- Σ t^n/n! from the term `t^n/n!` on, over 2^320. -/
def expTail (fuel n t term acc : Nat) : Nat :=
  match fuel with
  | 0 => acc
  | fuel + 1 => let nx := term * t / (2 ^ fixP * (n + 1)); expTail fuel (n + 1) t nx (acc + nx)

/-- exp(t) − 1 over 2^320. -/
def expm1 (t : Nat) : Nat := expTail 300 0 t (2 ^ fixP) 0

/-- ln 2 over 2^320: Σ 1/(n 2^n). -/
def ln2Sum (fuel n acc : Nat) : Nat :=
  match fuel with
  | 0 => acc
  | fuel + 1 => ln2Sum fuel (n + 1) (acc + 2 ^ fixP / (n * 2 ^ n))

def ln2 : Nat := ln2Sum 330 1 0

/-- FEXP2. -/
def fexp2 (free a : Nat) : Nat × Nat :=
  match F32.value a with
  | .nan s => (F32.canon, if s then fNV else 0)
  | .inf neg => if neg then (0, 0) else (a, 0)
  | .fin neg m e =>
    let r := toInt 2 neg m e        -- floor, as a magnitude
    let i : Int := if neg then -(r.1 : Int) else r.1
    if r.2 then F32.round 0 false false 1 (max (-1000) (min 1000 i))
    else if m.log2 + e > 9 then (if neg then approx 2 false 0 1 free (fun _ => false) else F32.round 0 false false 3 1000)
    else
      -- 2^a = 2^i × exp(f ln 2), f = a − i in (0, 1)
      let f : Nat := (scaled neg m e (-(fixP : Int)) - i * (2 ^ fixP : Nat)).toNat
      let y := 2 ^ fixP + expm1 (f * ln2 / 2 ^ fixP)
      let lo := if i ≥ 0 then (y - 2 ^ 16) * 2 ^ i.toNat else (y - 2 ^ 16) / 2 ^ (-i).toNat
      let hi := if i ≥ 0 then (y + 2 ^ 16) * 2 ^ i.toNat else (y + 2 ^ 16) / 2 ^ (-i).toNat + 1
      approx 2 false lo hi free (fun _ => false)

/-- The bits of log2 of `x` in [1, 2), by squaring, over 2^320. -/
def log2Bits (fuel x acc : Nat) : Nat :=
  match fuel with
  | 0 => acc
  | fuel + 1 =>
    let y := x * x / 2 ^ fixP
    if y ≥ 2 ^ (fixP + 1) then log2Bits fuel (y / 2) (2 * acc + 1) else log2Bits fuel y (2 * acc)

/-- FLOG2. -/
def flog2 (free a : Nat) : Nat × Nat :=
  match F32.value a with
  | .nan s => (F32.canon, if s then fNV else 0)
  | .inf neg => if neg then (F32.canon, fNV) else (a, 0)
  | .fin neg m e =>
    if m = 0 then (F32.pack true 0x7F800000, fDZ)
    else if neg then (F32.canon, fNV)
    else
      match pow2 m e with
      | some n => F32.round 0 false (n < 0) n.natAbs 0
      | none =>
        let k : Int := m.log2 + e
        let frac : Nat := log2Bits 120 (m * 2 ^ (fixP - m.log2)) 0 * 2 ^ (fixP - 120)
        let err : Nat := 2 ^ (fixP - 116)
        let y : Int := k * (2 ^ fixP : Nat) + frac
        if y < 0 then approx 2 true (y.natAbs - err) (y.natAbs + err) free (fun _ => false)
        else approx 2 false (y.natAbs - err) (y.natAbs + err) free (fun _ => false)

/-- FTANH. -/
def ftanh (free a : Nat) : Nat × Nat :=
  match F32.value a with
  | .nan s => (F32.canon, if s then fNV else 0)
  | .inf neg => (F32.pack neg 0x3F800000, 0)
  | .fin neg m e =>
    if m = 0 then (a, 0)
    else
      let t : Nat := min (64 * 2 ^ fixP) (m * 2 ^ (e + 1 + fixP).toNat)
      let x := expm1 t
      let y := x * 2 ^ fixP / (x + 2 ^ (fixP + 1))
      approx 2 neg (y - 2 ^ 16) (y + 2 ^ 16) free (fun _ => false)

/-! ### VQ16 (R131) -/

/-- Twice the magnitude, and the sign, of weight `j` of a code under a codebook entry. -/
def vqWeight (entry code j : Nat) : Bool × Nat :=
  let s7 := (((List.range 7).map (fun i => bit code (8 + i))).foldl (fun a b => a ^^ b) (bit entry 24))
  let mag := 2 * (entry / 2 ^ (3 * j) % 8) + code / 2 ^ 15 % 2
  (mag != 0 && (if j == 7 then s7 else bit code (8 + j)), mag)

/-- The weight as a value. -/
def vqNum (entry code j : Nat) : Num := .fin (vqWeight entry code j).1 (vqWeight entry code j).2 (-1)

end Sys2Proof.Machine
end

