-- ==== Sys2Proof/Machine/Ops.lean ====
section
/-!
DEFINITION. The named operations over the state: where things stand, reading and changing a party's state, and the life
of an exception: raising it, the halt, entering the handler, returning from it, ending the unit (05_traps R103 to R116).
-/
namespace Sys2Proof
namespace Machine

/-- The outcome of a meaning. -/
abbrev Result := Host.Outcome State Fault Refusal

/-- Die of a workgroup slot. -/
def dieOf (wg : Nat) : Nat := wg / 576
/-- Cluster of a slot within its die. -/
def clusterOf (wg : Nat) : Nat := wg / 96 % 6
/-- Cluster of a slot within the module, `die*6 + cluster`. -/
def clusterIx (wg : Nat) : Nat := wg / 96
/-- Core of a slot within its cluster. -/
def coreOf (wg : Nat) : Nat := wg / 4 % 24
/-- Core of a slot within the module, `144*die + 24*cluster + core` (Table 21-4). -/
def coreIx (wg : Nat) : Nat := wg / 4
/-- Slot within its core. -/
def slotOf (wg : Nat) : Nat := wg % 4

/-- Fields of a card's SHAPE (Table 4-4). -/
def Wg.pe (w : Wg) : Bool := bit w.shape.toNat 41
/-- QUADS. -/
def Wg.nquads (w : Wg) : Nat := w.shape.toNat % 128
/-- SLINES. -/
def Wg.slines (w : Wg) : Nat := bits w.shape.toNat 20 7
/-- PWORDS. -/
def Wg.pwords (w : Wg) : Nat := bits w.shape.toNat 29 21

/-- The workgroup in a slot. -/
def State.wg? (s : State) (k : Nat) : Option Wg := s.wgs.find k

/-- Changes the workgroup in a slot, if one is there. -/
def State.updWg (s : State) (k : Nat) (f : Wg → Wg) : State := { s with wgs := s.wgs.upd k f }

/-- A quad of a workgroup slot. -/
def State.quad? (s : State) (k q : Nat) : Option Quad := (s.wgs.find k).bind (fun w => w.quads.find q)

/-- Changes one quad. -/
def Wg.updQuad (w : Wg) (q : Nat) (f : Quad → Quad) : Wg := { w with quads := w.quads.upd q f }

/-- Changes one quad of a slot. -/
def State.updQuad (s : State) (k q : Nat) (f : Quad → Quad) : State := s.updWg k (fun w => w.updQuad q f)

/-- Changes the quad whose turn it is; nothing when no quad has the turn. -/
def State.onQuad (s : State) (f : Quad → Quad) : State :=
  match s.focus with
  | some (.quad k q) => s.updQuad k q f
  | _ => s

/-- Changes the shared part of the sequencer context whose turn it is. -/
def State.onSeq (s : State) (f : Seq → Seq) : State :=
  match s.focus with
  | some (.mtx k) => s.updWg k (fun w => { w with mtx := { w.mtx with seq := f w.mtx.seq } })
  | some (.cpy k) => s.updWg k (fun w => { w with cpy := { w.cpy with seq := f w.cpy.seq } })
  | _ => s

/-- The shared part of a sequencer context. -/
def State.seq? (s : State) (p : Party) : Option Seq :=
  match p with
  | .mtx k => (s.wg? k).map (fun w => w.mtx.seq)
  | .cpy k => (s.wg? k).map (fun w => w.cpy.seq)
  | .quad _ _ => none

/-- Adds an operation in flight under a new name. -/
def State.launch (s : State) (f : Flight) : State :=
  { s with flights := s.flights.put s.nextId f, nextId := s.nextId + 1 }

/-- Changes an operation in flight. -/
def State.updFlight (s : State) (id : Nat) (f : Flight → Flight) : State := { s with flights := s.flights.upd id f }

/-- A fresh free value below `n` (log entry 2). -/
def State.pick (s : State) (n : Nat) : Nat := Config.freeNat s.free % n

/-- The next free value is another one. -/
def State.drawn (s : State) : State := { s with free := s.free + 1 }

/-- The members of a unit that are resident (R113: the workgroup, or every member of its cluster group). -/
def State.unitWgs (s : State) (unit : Nat) : List (Nat × Wg) := s.wgs.filter (fun e => e.2.unit == unit)

/-- The gang of a quad. -/
def Wg.gang (w : Wg) (q : Nat) : Gang := Tab.get ⟨false, [], 0⟩ w.gangs (q / 8)

/-- The live quads of a gang. -/
def Wg.gangQuads (w : Wg) (g : Nat) : List (Nat × Quad) := w.quads.filter (fun e => e.1 / 8 == g && e.2.live)

/-- Is it a wait that an instruction has begun, and no wait to issue? -/
def Wait.begun (w : Wait) : Bool :=
  match w with
  | .stall | .words _ | .full | .stopped => false
  | _ => true

/-- Does the quad stand in a wait that its instruction has begun? -/
def Quad.waitsIn (x : Quad) : Bool := x.await.any (fun a => a.what.begun)

/-- May a quad of a halted workgroup issue (R109 to R111)? A sibling that is not blocked, up to 6 instructions; a quad of
the origin's unparted gang, the faulting instruction that its gang has not finished; in the handler, the origin. -/
def Wg.mayIssueHalted (w : Wg) (q : Nat) (x : Quad) (h : Halt) : Bool :=
  match h.stage with
  | .handler => h.origin == q
  | .ending => false
  | .saving _ acks => !acks.contains .quads && x.await.isNone && x.skid < 6
  | .stopping =>
    h.origin != q && x.await.isNone &&
      (if h.origin / 8 == q / 8 && !(w.gang q).parted then !(w.gang q).issued.isEmpty && !(w.gang q).issued.contains q
       else x.skid < 6)

/-- Supervisor CSRs of a tenant on a die (Table 5-2). -/
def State.csr (s : State) (die tenant : Nat) : SupCsr := Tab.get SupCsr.init s.sched.csrs (die * 16 + tenant)

/-- SELFPL of a tenant (Table 4-2). -/
def State.selfpl (s : State) (tenant : Nat) : BitVec 12 := Tab.get 0 s.tab.selfpl tenant

/-- CYCLE of a die (R84). -/
def State.cycle (s : State) (die : Nat) : Nat := Tab.get 0 s.host.cycle die

/-- The TDISP state of a TDI; CONFIG_UNLOCKED until the host moves it (log entry 5). -/
def State.tdi (s : State) (t : Nat) : TdiState := Tab.get .unlocked s.host.tdi t

/-- A readiness bit (Table 21-4), numbered `word*32 + bit`. -/
def State.isReady (s : State) (n : Nat) : Bool := s.host.ready.getLsbD n

end Machine

/-- Adds to a counter of a table. -/
def Tab.bump (t : Tab Nat) (k : Nat) (n : Nat) : Tab Nat := Tab.set 0 t k (Tab.get 0 t k + n)

namespace Machine

/-! ### Causes (Table 5-1) -/

/-- Cause codes by name. -/
def cILL_OP : Nat := 0x01
def cILL_CLAUSE : Nat := 0x02
def cILL_FIELD : Nat := 0x03
def cPRIV : Nat := 0x04
def cBR_TARGET : Nat := 0x05
def cBR_UNIFORM : Nat := 0x06
def cRECONV_OVF : Nat := 0x07
def cWIN_SPILL : Nat := 0x08
def cWIN_UNDER : Nat := 0x09
def cBAR_MISUSE : Nat := 0x0A
def cREGANG_MISMATCH : Nat := 0x0B
def cIDEM_NEST : Nat := 0x0C
def cILLEGAL_IN_PREEMPTIBLE : Nat := 0x0D
def cLA_VIOLATION : Nat := 0x0E
def cALIGN : Nat := 0x10
def cHOST_XLATE : Nat := 0x11
def cHOST_PERM : Nat := 0x12
def cRANGE_MISS : Nat := 0x13
def cRANGE_PERM : Nat := 0x14
def cPEER_DISABLED : Nat := 0x15
def cDOMAIN_MISS : Nat := 0x16
def cDOMAIN_PERM : Nat := 0x17
def cREGION_MISS : Nat := 0x18
def cREGION_PERM : Nat := 0x19
def cREGION_BOUND : Nat := 0x1A
def cEXTENT_ABSENT : Nat := 0x1B
def cKEY_REVOKED : Nat := 0x1C
def cNAME_STALE : Nat := 0x1D
def cNAME_POOL_EMPTY : Nat := 0x1E
def cGATHER_SPAN : Nat := 0x1F
def cATOMIC_PATH : Nat := 0x20
def cSCRATCH_BOUND : Nat := 0x21
def cSCRATCH_CORE : Nat := 0x22
def cPRIVATE_BOUND : Nat := 0x23
def cPOISON : Nat := 0x24
def cREMOTE_ERROR : Nat := 0x25
def cREMOTE_TIMEOUT : Nat := 0x26
def cSTORE_FAULT : Nat := 0x27
def cTILE_UNDEF : Nat := 0x28
def cFMT_BAD : Nat := 0x29
def cACC_BAD : Nat := 0x2A
def cCODEBOOK_UNSET : Nat := 0x2B
def cLAYOUT_BAD : Nat := 0x2C
def cCOPY_FAULT : Nat := 0x2D
def cGATHER_INDEX : Nat := 0x2E
def cMOD_BAD : Nat := 0x2F
def cIT_TABLE_BAD : Nat := 0x30
def cIT_SEAT_OVF : Nat := 0x31
def cIT_STASH_OVF : Nat := 0x32
def cIT_PEER_LOST : Nat := 0x33
def cPREEMPT : Nat := 0x34
def cWAIT_SWAP : Nat := 0x35
def cHALT_SIBLING : Nat := 0x36
def cWATCHDOG : Nat := 0x37
def cTRAP : Nat := 0x38

/-- Disposition T when raised by a quad (Table 5-1). -/
def endsUnit (cause : Nat) : Bool :=
  [cKEY_REVOKED, cREMOTE_ERROR, cREMOTE_TIMEOUT, cFMT_BAD, cACC_BAD, cCODEBOOK_UNSET, cLAYOUT_BAD, cCOPY_FAULT,
   cGATHER_INDEX, cIT_PEER_LOST, cWATCHDOG].contains cause

/-- A cause that belongs to no level, raised by the instruction at `tpc` for the quad as a whole, with its active lanes
(R389). -/
def whole (cause : Nat) (tpc : W64) (lanes : BitVec 4) : FaultInfo := ⟨cause, 15, 0, 0, 0, lanes, tpc, false⟩

/-- The trap record of a fault (R389, Table 5-3). -/
def FaultInfo.record (f : FaultInfo) (skid : Nat) : TrapRec :=
  ⟨BitVec.ofNat 32 f.cause, BitVec.ofNat 32 (f.level + f.inner * 2 ^ 8), BitVec.ofNat 32 f.label, f.tpc, f.route,
   f.lanes.setWidth 32, BitVec.ofNat 32 skid⟩

/-- A trap record outside a trap (R103; the values of the other registers: log entry 8). -/
def TrapRec.zero : TrapRec := ⟨0, 0, 0, 0, 0, 0, 0⟩

/-! ### Waits that stand (R109) -/

/-- Is it a wait in which the quad's arrival, or its operation, stands (R109)? -/
def Wait.stands (w : Wait) : Bool :=
  match w with
  | .bar | .cbars _ | .q5 _ => true
  | _ => false

/-- The wait to take up again: the quad's present one, or one it had before instructions were executed again. -/
def Quad.keeps (q : Quad) : Option Await :=
  match q.resume with
  | some _ => q.kept
  | none => q.await.filter (fun a => a.what.stands)

/-! ### Raising and halting (R109, R110, R113) -/

/-- Does the origin's cause end the unit: disposition T, a sequencer's fault, a fault in supervisor mode, or no handler
(R103, R108, R112, R275)? A refused fetch of this module enters the handler whatever its cause (03_encoding R387). -/
def State.ends (s : State) (k : Nat) (origin : Nat) (w : Wg) (f : FaultInfo) (sup : Bool) : Bool :=
  (endsUnit f.cause && !f.fetch) || 64 ≤ origin || sup || (s.csr (dieOf k) w.tenant).tvec == 0

/-- The halt that a fault starts. -/
def Wg.halted (w : Wg) (origin : Nat) (f : FaultInfo) (pos : Cl) (sup imprecise ends : Bool) (ord : Nat) : Wg :=
  { w with was := w.halt, halt := some ⟨origin, f, pos, sup, imprecise, if ends then .ending else .stopping, 0, none, ord⟩ }

/-- Every member of a unit halts and ends, for a fault of the party `origin` of slot `k` (R113, R372). -/
def State.endUnit (s : State) (unit k : Nat) (origin : Nat) (f : FaultInfo) (pos : Cl) (sup imprecise : Bool) : State :=
  { s with wgs := s.wgs.map (fun e =>
      if e.2.unit == unit && !e.2.halt.any (fun h => h.stage == .ending) then
        (e.1, e.2.halted (if e.1 == k then origin else 127) f pos sup imprecise true s.nextId)
      else e) }

/-- Does a halt of the workgroup, or an end, give way to a fault that quad `q` detects in the same cycle, the lower QUADID being the
origin (R110)? One that no fault outside a handler has started does not. -/
def Wg.yieldsTo (w : Wg) (h : Halt) (q : Nat) : Bool :=
  (h.stage == .stopping || h.stage == .ending && !h.sup) && h.cycles == 0 && q < h.origin && h.origin < 64 &&
    (w.quads.find h.origin).all (·.shadow.isNone)

/-- Every member of a unit is halted as it was before an end that a fault of this cycle has begun. -/
def State.unend (s : State) (unit : Nat) : State :=
  { s with wgs := s.wgs.map (fun e =>
      if e.2.unit == unit && e.2.halt.any (fun h => h.stage == .ending && h.cycles == 0) then (e.1, { e.2 with halt := e.2.was }) else e) }

/-- The place of an instruction that has issued: its clause's header is not waited on again (03_encoding R51). -/
def Cl.issued (c : Cl) : Cl := if c.rem = 0 then c else { c with head := none }

/-- The quad executes the instructions of `redo` again, alone and in order, each in its lanes; then it goes on at `c` with
mask `m` (R116). -/
def Quad.startRedo (q : Quad) (redo : List Redo) (c : Cl) (m : BitVec 4) : Quad :=
  match redo with
  | [] => { q with cl := c, mask := m, redo := [], resume := none, await := q.kept, kept := none }
  | r :: _ => { q with cl := r.pos.issued, mask := r.lanes, redo := redo, resume := some (c, m) }

/-- Puts an instruction into a list in program order. -/
def Redo.insert (r : Redo) (l : List Redo) : List Redo :=
  match l with
  | [] => [r]
  | x :: rest => if r.ord < x.ord then r :: x :: rest else x :: Redo.insert r rest

/-- Instructions in program order. -/
def Redo.sort (l : List Redo) : List Redo := l.foldl (fun a r => Redo.insert r a) []

/-- Adds an instruction to be executed again, alone, before the quad goes on; while the quad runs its handler, before the
faulting code goes on after RETT (R110, R116). -/
def Quad.again (q : Quad) (r : Redo) : Quad :=
  match q.shadow, q.resume with
  | some sh, _ => { q with shadow := some { sh with withdrawn := sh.withdrawn ++ [r] } }
  | none, some (c, m) =>
    if q.await.any (fun a => a.what.stands) then { q with redo := q.redo ++ [r] }
    else { q.startRedo (Redo.sort (r :: q.redo)) c m with kept := q.kept, await := none }
  | none, none =>
    { q with cl := r.pos.issued, mask := r.lanes, redo := [r], resume := some (q.cl, q.mask), kept := q.keeps, await := none }

/-- The origin of a halt becomes a sibling of a new one: its report waits again, the lanes of its fault are executed again. -/
def Quad.giveWay (q : Quad) (h : Halt) : Quad :=
  if h.imprecise then { q with reports := (h.fault, h.pos) :: q.reports, await := some ⟨.stopped, 0, 0⟩ }
  else if q.cl.issued == h.pos then { q with await := some ⟨.stopped, 0, 0⟩ }
  else { q.again ⟨h.pos, h.fault.lanes, h.ord, false⟩ with await := some ⟨.stopped, 0, 0⟩ }

/-- A quad stands at an instruction that has issued, where `pos` is that instruction's place. -/
def Quad.stoodAt (q : Quad) (pos : Cl) : Quad := if q.cl == pos then { q with cl := pos.issued } else q

/-- A fault of the party `origin` of slot `k` starts a halt, or ends the unit. -/
def State.startHalt (s : State) (k origin : Nat) (w : Wg) (f : FaultInfo) (pos : Cl) (sup imprecise : Bool) : State :=
  if s.ends k origin w f sup then s.endUnit w.unit k origin f pos.issued sup imprecise
  else s.updWg k (fun w => w.halted origin f pos.issued sup imprecise false s.nextId)

/-- A fault of a party of slot `k`: it starts a halt. In a workgroup that is already halting a quad's fault leaves no trace,
whatever its cause: the quad stops there, and executes the instruction again later; but of several quads that fault in the
same cycle the lowest is the origin (R110). In the handler a fault ends the unit (R112), and so does one of a sequencer while
its workgroup is halted (log entry 56). -/
def State.raise (s : State) (k : Nat) (origin : Nat) (f : FaultInfo) (pos : Cl) (sup imprecise : Bool) : State :=
  match s.wg? k with
  | none => s
  | some w =>
    let t := s.updQuad k origin (·.stoodAt pos)
    match w.halt with
    | none => t.startHalt k origin w f pos sup imprecise
    | some h =>
      if 64 ≤ origin || (sup && h.stage == .handler) then t.endUnit w.unit k origin f pos.issued sup imprecise
      else if w.yieldsTo h origin then
        (((t.updQuad k h.origin (·.giveWay h)).unend w.unit).updWg k (fun w => { w with halt := none })).startHalt k origin w f pos sup
          imprecise
      else t.updQuad k origin (fun x => { x with await := some ⟨.stopped, 0, 0⟩ })

/-- The quad whose turn it is raises a fault at its present instruction. -/
def State.fault (s : State) (f : FaultInfo) : State :=
  match s.focus with
  | some (.quad k q) =>
    match s.quad? k q with
    | some x => s.raise k q f x.cl x.sup false
    | none => s
  | some (.mtx k) => match s.seq? (.mtx k) with
    | some x => s.raise k 64 f x.cl false false
    | none => s
  | some (.cpy k) => match s.seq? (.cpy k) with
    | some x => s.raise k 65 f x.cl false false
    | none => s
  | none => s

/-! ### Register windows (08_quad_control R175) -/

/-- Spills live registers `[lo, hi)` of every lane, counted from the launch base, to private word 256 + i. -/
def Quad.spill (q : Quad) (lo hi : Nat) : Quad :=
  let ks := (lanes.map (fun l => (List.range (hi - lo)).map (fun i => (l, lo + i)))).flatten
  let move := fun (p : Tab Word) (e : Nat × Nat) =>
    Tab.set 0 p (e.1 * 512 + 256 + e.2) (Tab.get 0 q.regs (e.1 * 256 + e.2 % 256))
  { q with priv := ks.foldl move q.priv }

/-- Refills live registers `[lo, hi)` of every lane from the spill area. -/
def Quad.refill (q : Quad) (lo hi : Nat) : Quad :=
  let ks := (lanes.map (fun l => (List.range (hi - lo)).map (fun i => (l, lo + i)))).flatten
  let move := fun (r : Tab Word) (e : Nat × Nat) =>
    Tab.set 0 r (e.1 * 256 + e.2 % 256) (Tab.get 0 q.priv (e.1 * 512 + 256 + e.2))
  { q with regs := ks.foldl move q.regs }

/-- Moves the window base up by `n`, spilling what no longer fits the physical file (span = depth + 64, R175). -/
def Quad.push (q : Quad) (n : Nat) : Quad :=
  { q.spill (q.depth + 64 - 256) (q.depth + n + 64 - 256) with depth := q.depth + n }

/-- Moves the window base down by `n`, refilling. -/
def Quad.pop (q : Quad) (n : Nat) : Quad :=
  { q.refill (q.depth - n + 64 - 256) (q.depth + 64 - 256) with depth := q.depth - n }

/-! ### Taking an exception and returning from it (R111, R116) -/

/-- The instructions still to be executed again, the present one first, and the place and mask where the quad then goes
on (R116). -/
def Quad.pendingRedo (q : Quad) : List Redo × (Cl × BitVec 4) :=
  match q.resume with
  | some r => (q.redo, r)
  | none => ([], (q.cl, q.mask))

/-- The origin quad enters the handler (R111): its trap record is written, the shadow saved, the window base moved by 64,
the lane mask becomes TLANES, supervisor mode is set, and the PC becomes TVEC, whose word is taken as a header reached by
a transfer of control. The handler's frame stack and reconvergence entries are its own, and empty. On a pre-emption (`orig` false)
TSKID names no quad, and has the SKID that the quad recorded when it stopped (R122). -/
def Quad.enterHandler (q : Quad) (origin : Nat) (f : FaultInfo) (pos : Cl) (ord : Nat) (withdrawn : List Redo) (tvec : W64)
    (orig : Bool) : Quad :=
  let p := q.pendingRedo
  let sh : Shadow := ⟨p.2.2, q.preds, q.fpstat, q.recon, q.depth, q.frames, p.2.1, f, pos, ord, withdrawn, p.1, q.keeps, q.entered⟩
  { q.push 64 with
    trap := f.record (if orig then origin * 16 + 8 else 127 * 16 + q.trap.skid.toNat % 8)
    shadow := some sh
    mask := f.lanes
    sup := true
    frames := []
    recon := []
    wins := []
    await := none
    redo := []
    resume := none
    kept := none
    got := []
    cl := Cl.start tvec
    entered := some tvec }

/-- What a sibling records when it has stopped: its resume point is what it executes first when it goes on, an instruction that it
executes again among them (R109, R110, R389). -/
def Quad.siblingRecord (q : Quad) (origin : Nat) : Quad :=
  { q with trap := ⟨BitVec.ofNat 32 cHALT_SIBLING, 15, 0, q.cl.pc, 0, 0, BitVec.ofNat 32 (origin * 16 + q.skid)⟩ }

/-- RETT gives the faulting code its state back and leaves supervisor mode (R116); the quad then executes `redo` again and
goes on at `c`. -/
def Quad.leaveHandler (q : Quad) (sh : Shadow) (redo : List Redo) (c : Cl) : Quad :=
  let b : Quad := { q.pop (q.depth - sh.depth) with
    preds := sh.preds
    fpstat := sh.fpstat
    recon := sh.recon
    frames := sh.frames
    depth := sh.depth
    sup := false
    shadow := none
    await := none
    kept := sh.kept
    trap := { q.trap with cause := 0 }
    got := []
    entered := sh.entered }
  b.startRedo redo c sh.mask

/-- Where the quad goes on after its present instruction has been executed again: where that instruction has led it, when it is the one
at the resume point. -/
def Quad.onward (q : Quad) (c : Cl) (m : BitVec 4) : Cl × BitVec 4 :=
  match q.redo with
  | r :: _ => if r.here then (q.cl, if q.mask == r.lanes then m else q.mask) else (c, m)
  | [] => (c, m)

/-- After an instruction executed again alone has completed, its window is over, and the next one follows, or the resume
point (R69, R116). -/
def Quad.resumed (q : Quad) : Quad :=
  match q.resume with
  | none => q
  | some (c, m) =>
    { q.startRedo q.redo.tail (q.onward c m).1 (q.onward c m).2 with wins := q.wins.map (fun w => { w with left := 0 }) }

/-! ### Error records (17_fabric R335, 21_host_security R369) -/

/-- The die of a record. -/
def ErrRec.die (r : ErrRec) : Nat := r.place / 2 ^ 12 % 4

/-- The records at the end of a list that are all of other dies than a record. -/
def othersAfter (l : List ErrRec) (r : ErrRec) : Nat := (l.reverse.takeWhile (fun x => x.die != r.die)).length

/-- The ring with one more record: behind those of its own die, in no order towards those of others (R369). -/
def withRecord (l : List ErrRec) (r : ErrRec) (seed : Nat) : List ErrRec :=
  match othersAfter l r with
  | 0 => l ++ [r]
  | n + 1 => l.take (l.length - seed % (n + 2)) ++ r :: l.drop (l.length - seed % (n + 2))

/-- Writes an error record to the host's ring, or drops and counts it when the ring is full (R369). -/
def State.report (s : State) (r : ErrRec) : State :=
  if s.host.ringUsed < s.host.ringSize then
    { s.drawn with host := { s.host with
      records := withRecord s.host.records r (Config.freeNat s.free), ringUsed := s.host.ringUsed + 1, msix := s.host.msix + 1 } }
  else { s with host := { s.host with drops := s.host.drops + 1 } }

/-- PLACE of a record: SELFPL of the module in the tenant, the die, the link (Table 17-5). -/
def State.placeOf (s : State) (tenant die link : Nat) : Nat :=
  (s.selfpl tenant).toNat + die * 2 ^ 12 + link * 2 ^ 14

/-- The host receives an answer. -/
def State.answerHost (s : State) (a : HostAnswer) : State := { s with host := { s.host with answers := s.host.answers ++ [a] } }

/-- A card-error record with its case (R86, R90). -/
def State.cardError (s : State) (route : W64) (tenant case die : Nat) (t : TrapRec) : State :=
  s.report ⟨2, tenant, t, 0, route, case, 0, s.placeOf tenant die 0, []⟩

/-- CONTEXT of a record (Table 17-5). -/
def contextOf (k party : Nat) : Nat :=
  slotOf k + coreOf k * 2 ^ 2 + clusterOf k * 2 ^ 7 + dieOf k * 2 ^ 10 + party * 2 ^ 12

end Machine
end Sys2Proof
end

