-- ==== Sys2Proof/Machine/Levels.lean ====
section
/-!
DEFINITION. Routes and the levels that translate them (09_routes R193 to R214), pools (13_hamper R260 to R263), atomic
windows (17_fabric R339), and the reading and writing of device memory at a location's home.
-/
namespace Sys2Proof
namespace Machine

/-! ### Fields of a route (R195) -/

/-- Device half (R193). -/
def isDev (r : W64) : Bool := r.getLsbD 63
/-- PL. -/
def plOf (r : W64) : Nat := bits r.toNat 62 51
/-- DL. -/
def dlOf (r : W64) : Nat := bits r.toNat 50 43
/-- SL. -/
def slOf (r : W64) : Nat := bits r.toNat 42 31
/-- XL. -/
def xlOf (r : W64) : Nat := bits r.toNat 30 21
/-- Offset. -/
def offOf (r : W64) : Nat := bits r.toNat 20 0
/-- CELL of a name (R259). -/
def cellOf (r : W64) : Nat := bits r.toNat 42 15
/-- GEN of a name. -/
def genOf (r : W64) : BitVec 8 := BitVec.ofNat 8 (bits r.toNat 14 7)

/-- A device-half route from its labels (R33). -/
def mkRoute (pl dl sl xl off : Nat) : W64 :=
  BitVec.ofNat 64 (2 ^ 63 + pl * 2 ^ 51 + dl * 2 ^ 43 + sl * 2 ^ 31 + xl * 2 ^ 21 + off)

/-- A hamper name (R33, R259). -/
def mkName (pl stack cell gen : Nat) : W64 :=
  BitVec.ofNat 64 (2 ^ 63 + pl * 2 ^ 51 + (0xC0 + stack) * 2 ^ 43 + cell * 2 ^ 15 + gen * 2 ^ 7)

/-- A local device-half route: PL 0 or SELFPL (R196). -/
def State.isLocal (s : State) (tenant : Nat) (r : W64) : Bool :=
  isDev r && (plOf r == 0 || plOf r == (s.selfpl tenant).toNat)

/-- A device-half route that leaves the module (R18). -/
def State.isRemote (s : State) (tenant : Nat) (r : W64) : Bool := isDev r && !s.isLocal tenant r

/-- A refusal of a level: cause, level and label (R389). -/
structure Refuse where
  cause : Nat
  level : Nat
  label : Nat
  deriving DecidableEq, Repr

end Machine

/-- Which rights a kind of access needs, from (R, W, X, AT) (Table 9-3). -/
def AccKind.allowed (k : AccKind) (r w x a : Bool) : Bool :=
  match k with
  | .load => r
  | .store | .relinquish => w
  | .atomic => r && w && a
  | .fetch => x

namespace Machine

/-! ### Level 0 (R198, R199) -/

/-- A range entry. -/
def State.range (s : State) (tenant i : Nat) : RangeImage := Tab.get ⟨0, 0, 0, 0⟩ s.tab.ranges (tenant * 32 + i)

end Machine

/-- Fields of a range entry (Table 9-4). -/
def RangeImage.v (e : RangeImage) : Bool := e.d0.getLsbD 24
def RangeImage.mir (e : RangeImage) : Bool := e.d0.getLsbD 29
def RangeImage.dis (e : RangeImage) : Bool := e.d0.getLsbD 30
def RangeImage.mdis (e : RangeImage) : Bool := e.d0.getLsbD 31
def RangeImage.lo (e : RangeImage) : Nat := bits e.d0.toNat 11 0
def RangeImage.hi (e : RangeImage) : Nat := bits e.d0.toNat 23 12

/-- Path halfword `i`: 0-3 primary, 4-7 mirror. -/
def RangeImage.path (e : RangeImage) (i : Nat) : Nat :=
  if i < 4 then bits e.d1.toNat (16 * i + 15) (16 * i) else bits e.d2.toNat (16 * (i - 4) + 15) (16 * (i - 4))

/-- The valid paths of a side: 0-3 primary, 4-7 mirror (R200). -/
def RangeImage.paths (e : RangeImage) (mirror : Bool) : List Nat :=
  ((List.range 4).map (fun i => if mirror then i + 4 else i)).filter (fun i => bit (e.path i) 15)

namespace Machine

/-- The valid entry that covers a pod label, with its index. -/
def State.rangeOf (s : State) (tenant pl : Nat) : Option (Nat × RangeImage) :=
  ((List.range 32).map (fun i => (i, s.range tenant i))).find? (fun e => e.2.v && e.2.lo ≤ pl && pl ≤ e.2.hi)

/-- Level 0 (R199); `scope` is the scope of an A-format access. A local route is never checked (R201). -/
def State.level0 (s : State) (tenant : Nat) (k : AccKind) (scope : Option Nat) (r : W64) : Except Refuse (Option (Nat × RangeImage)) :=
  if !s.isRemote tenant r then .ok none
  else
    match s.rangeOf tenant (plOf r) with
    | none => .error ⟨cRANGE_MISS, 0, plOf r⟩
    | some (i, e) =>
      if e.dis && (!e.mir || e.mdis) then .error ⟨cPEER_DISABLED, 0, plOf r⟩
      else if !k.allowed (e.d0.getLsbD 25) (e.d0.getLsbD 26) (e.d0.getLsbD 27) (e.d0.getLsbD 28) then
        .error ⟨cRANGE_PERM, 0, plOf r⟩
      else
        match scope with
        | some sc => if e.d0.getLsbD (32 + sc) then .ok (some (i, e)) else .error ⟨cRANGE_PERM, 0, plOf r⟩
        | none => .ok (some (i, e))

/-! ### Levels 2 to 4 (R205 to R213) and pools (R263) -/

/-- A domain entry (Table 9-6). -/
def State.domain (s : State) (tenant dl : Nat) : W64 := Tab.get 0 s.tab.domains (tenant * 256 + dl)
/-- The stack of a domain entry. -/
def stackOfDomain (d : W64) : Nat := bits d.toNat 9 6

/-- A region entry (Table 9-7). -/
def State.region (s : State) (stack sl : Nat) : W64 × W64 := Tab.get (0, 0) s.tab.regions (stack * Config.regions + sl)
/-- Fields of a region entry. -/
def rgOwner (g : W64 × W64) : Nat := bits g.1.toNat 3 0
def rgV (g : W64 × W64) : Bool := g.1.getLsbD 4
def rgEnc (g : W64 × W64) : Bool := g.1.getLsbD 10
def rgKey (g : W64 × W64) : Nat := bits g.1.toNat 15 11
def rgHmask (g : W64 × W64) : Nat := bits g.1.toNat 29 16
def rgLimit (g : W64 × W64) : Nat := bits g.1.toNat 42 32
def rgXbase (g : W64 × W64) : Nat := bits g.2.toNat 16 0
def rgRec (g : W64 × W64) : Bool := g.1.getLsbD 9

/-- An extent entry (Table 9-8). -/
def State.extent (s : State) (stack x : Nat) : Word := Tab.get 0 s.tab.extents (stack * Config.extents + x)
def xtP (e : Word) : Bool := e.getLsbD 31
def xtMig (e : Word) : Bool := e.getLsbD 30
def xtSlot (e : Word) : Nat := bits e.toNat 29 28
def xtFrame (e : Word) : Nat := bits e.toNat 16 0
/-- A present extent entry. -/
def mkExtent (frame : Nat) : Word := BitVec.ofNat 32 (2 ^ 31 + frame)

/-- The frame map (R212). -/
def State.frame (s : State) (stack f : Nat) : Frame := Tab.get ⟨none, false, false⟩ s.tab.frames (stack * Config.frames + f)

/-- A key slot (R370). -/
def State.keySlot (s : State) (stack k : Nat) : KeySlot := Tab.get ⟨none, none⟩ s.tab.keys (stack * 32 + k)

/-- The pool label of a tenant on a stack, where the host names one (R260). -/
def State.pool (s : State) (tenant stack : Nat) : Option Nat := s.tab.pools.find (tenant * 16 + stack)

/-- Is the region a pool region of the tenant on the stack (R260)? -/
def State.isPoolRegion (s : State) (tenant stack sl : Nat) : Bool :=
  match s.pool tenant stack with
  | some p => p ≤ sl && sl < p + 4
  | none => false

/-- A pool cell's state (R261, R262): free, generation 0, until something is written. -/
def State.cell (s : State) (tenant stack c : Nat) : CellSt :=
  Tab.get ⟨false, 0⟩ s.tab.cells ((tenant * 16 + stack) * 2 ^ 28 + c)

/-- Writes a pool cell's state. -/
def State.setCell (s : State) (tenant stack c : Nat) (x : CellSt) : State :=
  { s with tab := { s.tab with cells := Tab.set ⟨false, 0⟩ s.tab.cells ((tenant * 16 + stack) * 2 ^ 28 + c) x } }

/-- Where an access that passed every level lands: the key of its first byte, the stack, the frame it is dual-written to
while a migration has already copied its line (R219), whether it reached a pool cell, whether its extent is migrating and its
region recodes; the tenant, the region's rights, the region and the extent, the number that its home goes by (01_device R11), and
the seal that its region gives it (21_host_security R370). -/
structure Loc where
  key : Nat
  stack : Nat
  dual : Option Nat
  pool : Bool
  through : Bool
  recoded : Bool
  tenant : Nat
  rights : Nat
  sl : Nat
  xl : Nat
  home : Nat
  enc : Option Seal
  deriving DecidableEq, Repr

/-- Steps 1 to 5 of R210. -/
def State.regionCheck (s : State) (tenant stack sl xl : Nat) (k : AccKind) : Except Nat (W64 × W64) :=
  let g := s.region stack sl
  if !rgV g then .error cREGION_MISS
  else if rgOwner g != tenant then .error cREGION_PERM
  else if rgLimit g ≤ xl then .error cREGION_BOUND
  else if !k.allowed (g.1.getLsbD 5) (g.1.getLsbD 6) (g.1.getLsbD 7) (g.1.getLsbD 8) then .error cREGION_PERM
  else if rgEnc g && (s.keySlot stack (rgKey g)).tdi != some tenant then .error cKEY_REVOKED
  else .ok g

/-- The seal of a line of a region: the slot's key, and a tweak of the stack and the line's number (21_host_security R370). -/
def State.sealFor (s : State) (stack : Nat) (g : W64 × W64) (home : Nat) : Option Seal :=
  if rgEnc g then some (((s.keySlot stack (rgKey g)).key).getD 0, stack * 2 ^ 48 + home) else none

/-- The location of byte `off` of extent `xl` of a region: a line that a running migration has already copied is also written to
the new frame (R213, R219). `home` numbers the line. -/
def State.locate (s : State) (tenant stack sl xl off home : Nat) (e : Word) (g : W64 × W64) (pool : Bool) : Loc :=
  let dual := if xtMig e then
    match s.tab.migs.find (stack * 4 + xtSlot e) with
    | some m => if off / 128 < m.lines then some (Memory.key stack (m.new * 2 ^ 21 + off)) else none
    | none => none
  else none
  ⟨Memory.key stack (xtFrame e * 2 ^ 21 + off), stack, dual, pool, xtMig e, rgRec g, tenant, bits g.1.toNat 8 5, sl, xl, home,
    s.sealFor stack g home⟩

/-- The number of a line of a region, and of a pool's cell (01_device R11). -/
def lineNo (sl xl off : Nat) : Nat := (sl * 2 ^ 10 + xl) * 2 ^ 14 + off / 128
def cellNo (c : Nat) : Nat := 2 ^ 40 + c

/-- The lookup of an access at levels 2 to 4 of this module, under its tenant (R206, R210, R213, R260, R263; log entry 50). -/
def State.lookup (s : State) (tenant : Nat) (k : AccKind) (r : W64) : Except Refuse Loc :=
  let dl := dlOf r
  let d := s.domain tenant dl
  if !d.getLsbD 0 then .error ⟨cDOMAIN_MISS, 2, dl⟩
  else if !k.allowed (d.getLsbD 1) (d.getLsbD 2) (d.getLsbD 3) (d.getLsbD 4) ||
      (d.getLsbD 20 && s.tdi (bits d.toNat 19 16) != .run) then .error ⟨cDOMAIN_PERM, 2, dl⟩
  else
    let stack := stackOfDomain d
    if d.getLsbD 5 then
      let c := cellOf r
      if bits c 27 26 != 0 then .error ⟨cREGION_BOUND, 3, c⟩
      else
        match s.pool tenant stack with
        | none => .error ⟨cREGION_MISS, 3, c⟩
        | some p =>
          match s.regionCheck tenant stack (p + bits c 25 24) (bits c 23 14) k with
          | .error e => .error ⟨e, 3, c⟩
          | .ok g =>
            let e := s.extent stack (rgXbase g + bits c 23 14)
            if !xtP e || !(s.cell tenant stack c).used || (s.cell tenant stack c).gen != genOf r then
              .error ⟨cNAME_STALE, 3, c⟩
            else .ok (s.locate tenant stack (p + bits c 25 24) (bits c 23 14) (c % 2 ^ 14 * 128 + bits r.toNat 6 0) (cellNo c) e g true)
    else if k == .relinquish then .error ⟨cDOMAIN_PERM, 2, dl⟩
    else
      let sl := slOf r
      if rgV (s.region stack sl) && s.isPoolRegion tenant stack sl then .error ⟨cREGION_PERM, 3, sl⟩
      else
        match s.regionCheck tenant stack sl (xlOf r) k with
        | .error e => .error ⟨e, 3, sl⟩
        | .ok g =>
          let e := s.extent stack (rgXbase g + xlOf r)
          if !xtP e then .error ⟨cEXTENT_ABSENT, 4, xlOf r⟩
          else .ok (s.locate tenant stack sl (xlOf r) (offOf r) (lineNo sl (xlOf r) (offOf r)) e g false)

/-- The pseudo-channel and the row position of a physical address under a hash mask (R214). -/
def channelOf (pa hmask : Nat) : Nat × Nat :=
  let li := pa / 128
  let c := (bits li 6 0 ^^^ (bits li 13 7 &&& bits hmask 6 0)) ^^^ (bits li 20 14 &&& bits hmask 13 7)
  (128 * (li / 128 % 3) + c, li / 384)

/-- The die whose home serves a local route; the issuing die while the domain is not mapped (R11, R206). -/
def State.homeDie (s : State) (tenant die : Nat) (r : W64) : Nat :=
  let d := s.domain tenant (dlOf r)
  if d.getLsbD 0 then stackOfDomain d / 4 else die

/-- The precise fault that the names of an instruction's lanes, in lane order, meet at issue (R267): the lowest aligned name of
another module decides; without one the lowest lane that is misaligned or fails `rest` (R389, log entry 49). -/
def State.nameFault (s : State) (tenant : Nat) (rest : W64 → Option Refuse) (ns : List W64) : Option (W64 × Refuse) :=
  match ns.find? (fun n => n.toNat % 128 == 0 && !s.isLocal tenant n) with
  | some n => some (n, ⟨cRANGE_PERM, 0, if isDev n then plOf n else 0⟩)
  | none => ns.findSome? (fun n =>
      if n.toNat % 128 != 0 then some (n, ⟨cALIGN, 15, 0⟩) else (rest n).map (fun r => (n, r)))

/-! ### The host half (R194, R338, R339) -/

/-- Bits [62:57] of a host-half address must be zero (R194). -/
def hostBad (r : W64) : Bool := !isDev r && bits r.toNat 62 57 != 0

/-- The cached translation of a host page. -/
def State.translation (s : State) (die tenant : Nat) (r : W64) : Option Translation :=
  s.tab.atc.find ((die * 16 + tenant) * 2 ^ 45 + bits r.toNat 56 12)

/-- Does a valid window of the tenant cover the address, and with support for the size (R338, R339)? Of several that
cover it the manual does not say which decides: the lowest (log entry 79). -/
def State.windowOk (s : State) (die tenant : Nat) (r : W64) (size : Nat) : Bool :=
  let ws := (List.range 8).map (fun i => Tab.get (0, 0) s.tab.windows ((die * 16 + tenant) * 8 + i))
  match ws.find? (fun w => w.1.getLsbD 0 && bits w.1.toNat 56 12 ≤ bits r.toNat 56 12 && bits r.toNat 56 12 ≤ bits w.2.toNat 56 12) with
  | none => false
  | some w => if size == 8 then w.1.getLsbD 2 else w.1.getLsbD 1

/-- The atomics the host link carries: AXCHG, ACAS, AADD (R242). -/
def hostAtomic (op : AtomicOp) : Bool :=
  match op with
  | .xchg | .cas | .add => true
  | _ => false

end Machine
end Sys2Proof
end

