-- ==== Sys2Proof/Machine/Slice.lean ====
section
/-!
DEFINITION. Memory at its home: the home slices and their caches (01_device R11, R12), inline encryption (21_host_security R370),
recoding (R378), and reading, writing and atomics there (10_memory_ops R226 to R229, R241).
-/
namespace Sys2Proof
namespace Machine

/-! ### Inline encryption (21_host_security R370) -/

/-- What a 16-byte block of memory is encrypted under. -/
def State.sealOf (s : State) (block : Nat) : Option Seal :=
  match s.tab.seals.find block with
  | some x => x
  | none => (s.tab.fills.find (block / 2 ^ 17)).map (fun f => (f.1, f.2 + block / 8 % 2 ^ 14))

/-- The blocks of `n` bytes from a key up that are not encrypted as `enc` says. -/
def State.veiled (s : State) (enc : Option Seal) (key n : Nat) : List Nat :=
  ((List.range ((key % 16 + n + 15) / 16)).map (fun i => key / 16 + i)).filter (fun b => s.sealOf b != enc)

/-- Memory as an access under `enc` meets it: the blocks of `n` bytes from a key up that are encrypted otherwise hold what that
key makes of them. -/
def State.unveil (s : State) (enc : Option Seal) (key n : Nat) : State :=
  (s.veiled enc key n).foldl (fun s b => { s with
    mem := s.mem.writeN (16 * b) 16 (Config.recrypt (s.sealOf b) enc (b % 8) (BitVec.ofNat 128 (s.mem.readN (16 * b) 16))).toNat
    tab := { s.tab with seals := s.tab.seals.put b enc } }) s

/-- Is the line of a memory key in its home slice's cache, which holds plaintext? -/
def State.cached (s : State) (key : Nat) : Bool := (s.cache.find (key / 128)).isSome

/-- Memory as an access at a key meets it: a cached line as it stands, any other as `enc` decrypts it. -/
def State.shown (s : State) (enc : Option Seal) (key n : Nat) : State := if s.cached key then s else s.unveil enc key n

/-- The eight blocks of a line are encrypted under a seal as it enters its stack. -/
def State.sealLine (s : State) (line : Nat) (enc : Option Seal) : State :=
  { s with tab := { s.tab with seals := (List.range 8).foldl (fun t i => t.put (line * 8 + i) enc) s.tab.seals } }

/-- Reads bytes at a location. -/
def State.peek (s : State) (l : Loc) (size : Nat) : Nat := (s.shown l.enc l.key size).mem.readN l.key size

/-! ### Recoding (21_host_security R378) -/

/-- The exponent field of element `i` of a line of 64 BF16 values. -/
def exponentOf (v i : Nat) : Nat := bits v (16 * i + 14) (16 * i + 7)

/-- The recoded form of a line (Table 21-5), when its exponent fields differ by at most 7. -/
def recodeLine (v : Nat) : Option (BitVec 712) :=
  let es := (List.range 64).map (exponentOf v)
  let lo := es.foldl min 255
  if es.foldl max 0 - lo ≤ 7 then
    some (BitVec.ofNat 712 (lo + ((List.range 64).map (fun i =>
      (exponentOf v i - lo) * 2 ^ (8 + 3 * i) + (bits v (16 * i + 15) (16 * i + 15) * 128 + bits v (16 * i + 6) (16 * i)) * 2 ^ (200 + 8 * i))).foldl (· + ·) 0))
  else none

/-- The line that a recoded form stands for. -/
def unrecodeLine (f : BitVec 712) : Nat :=
  ((List.range 64).map (fun i =>
    (bits f.toNat (207 + 8 * i) (207 + 8 * i) * 2 ^ 15 + (bits f.toNat (10 + 3 * i) (8 + 3 * i) + bits f.toNat 7 0) * 2 ^ 7 +
      bits f.toNat (206 + 8 * i) (200 + 8 * i)) * 2 ^ (16 * i))).foldl (· + ·) 0

/-- A line is written into its stack: where its region recodes, in the recoded form, or raw with its fallback flag set, and
counted (R378). -/
def State.stored (s : State) (line : Nat) (recoded : Bool) : State :=
  if !recoded then { s with tab := { s.tab with forms := s.tab.forms.del line } }
  else
    let f := recodeLine (s.mem.readN (line * 128) 128)
    let t := { s with tab := { s.tab with forms := s.tab.forms.put line f } }
    if f.isSome then { t with host := { t.host with recoded := t.host.recoded.bump (line / 2 ^ 31) 1 } }
    else { t with host := { t.host with raw := t.host.raw.bump (line / 2 ^ 31) 1 } }

/-! ### Home slices (01_device R11, R12) -/

/-- The home slice of a location: slices 12s to 12s + 11 of die d serve stack 4d + s. -/
def Loc.slice (l : Loc) : Nat := l.stack * 12 + Config.homeHash l.home % 12

/-- Lines that a slice's cache holds: 2 MiB (Table 1-8). -/
def sliceLines : Nat := 16384

/-- A dirty line is written back: encrypted and recoded as its region says now (21_host_security R370, R378). -/
def State.writeBack (s : State) (line : Nat) : State :=
  match s.cache.find line with
  | none => s
  | some c =>
    if c.old.isNone then s
    else
      let stack := line / 2 ^ 31
      let g := s.region stack c.sl
      (({ s with cache := s.cache.put line { c with old := none } } : State).sealLine line (s.sealFor stack g c.home)).stored line (rgRec g)

/-- A line is written back and dropped. -/
def State.evict (s : State) (line : Nat) : State :=
  let t := s.writeBack line
  { t with cache := t.cache.del line }

/-- A line is dropped without write-back: what its stack holds of it stands. -/
def State.dropLine (s : State) (line : Nat) : State :=
  match s.cache.find line with
  | none => s
  | some c =>
    let t := { s with cache := s.cache.del line }
    match c.old with
    | none => t
    | some (v, seals) => { t with
        mem := t.mem.writeN (line * 128) 128 v
        tab := { t.tab with seals := (List.range 8).foldl (fun x i => x.put (line * 8 + i) (seals.getD i none)) t.tab.seals } }

/-- Makes room in a full slice: which line goes is not promised. -/
def State.makeRoom (s : State) (slice : Nat) : State :=
  let mine := s.cache.filter (fun e => e.2.slice == slice)
  if mine.length < sliceLines then s
  else s.drawn.evict ((mine.map (·.1)).getD (s.pick mine.length) 0)

/-- What the stack holds of a line that is about to be written: nothing to remember while every store goes through to the base
die (R12). -/
def State.keepOld (s : State) (l : Loc) : Option (Nat × List (Option Seal)) :=
  let n := l.key / 128
  if l.through then none else some (s.mem.readN (n * 128) 128, (List.range 8).map (fun i => s.sealOf (n * 8 + i)))

/-- A line that an access reaches is in its home slice's cache, decrypted as it enters it; one that is written there is dirty. -/
def State.fill (s : State) (l : Loc) (write : Bool) : State :=
  let n := l.key / 128
  match s.cache.find n with
  | some c => if write && c.old.isNone then { s with cache := s.cache.put n { c with old := s.keepOld l } } else s
  | none =>
    let t := (s.makeRoom l.slice).unveil l.enc (n * 128) 128
    { t with cache := t.cache.put n ⟨l.slice, l.tenant, l.rights, l.home, l.sl, l.xl, if write then t.keepOld l else none⟩ }

/-- A store to a line of a migrating extent has gone through to the base die, whole, in both frames where it is written there. -/
def State.written (s : State) (l : Loc) : State :=
  if !l.through then s
  else
    let n := l.key / 128
    let t := (s.sealLine n l.enc).stored n l.recoded
    match l.dual with
    | none => t
    | some k =>
      (({ t with mem := t.mem.writeN (k / 128 * 128) 128 (t.mem.readN (n * 128) 128) } : State).sealLine (k / 128) l.enc).stored (k / 128) l.recoded

/-- The cached lines of a region of a stack, or of one extent of it. -/
def State.linesUnder (s : State) (stack sl : Nat) (xl : Option Nat) : List Nat :=
  (s.cache.filter (fun e => e.1 / 2 ^ 31 == stack && e.2.sl == sl && xl.all (fun x => e.2.xl == x))).map (·.1)

/-- They are written back and dropped (R12, 09_routes R211, R217). -/
def State.flush (s : State) (stack sl : Nat) (xl : Option Nat) : State := (s.linesUnder stack sl xl).foldl (fun s n => s.evict n) s

/-- The lines of a region whose key is destroyed are dropped without write-back; whether a line had been written back before is
not promised (21_host_security R372). -/
def State.lose (s : State) (stack sl : Nat) : State :=
  (s.linesUnder stack sl none).foldl (fun s n => if s.pick 2 = 0 then s.drawn.dropLine n else s.drawn.evict n) s

/-! ### Reading and writing at the home -/

/-- Is the line of a memory key poisoned (R379)? -/
def State.poisoned (s : State) (key : Nat) : Bool := s.poison.has (key / 128)

/-- A demand write of a line that the scrubber of its stack has read voids its write-back (R379). -/
def State.demand (s : State) (key : Nat) : State :=
  let stack := key / 2 ^ 38
  match s.host.scrub.find stack with
  | some (line, false) =>
    if key / 128 % 2 ^ 31 == line then { s with host := { s.host with scrub := s.host.scrub.put stack (line, true) } } else s
  | _ => s

/-- The releases that the value of the word at a key comes from, by instance (10_memory_ops R237). -/
def State.stampsAt (s : State) (key : Nat) : Tab (Tab Nat) := Tab.get [] s.fab.stamps (key / 4)

/-- The words of `n` bytes from a key up have a value of no release. -/
def State.unstamp (s : State) (key n : Nat) : State :=
  if s.fab.stamps.isEmpty then s
  else { s with fab := { s.fab with stamps := s.fab.stamps.filter (fun e => e.1 < key / 4 || (key + n - 1) / 4 < e.1) } }

/-- Writes bytes at a location, and on the new frame too where a migration has copied the line (R219). -/
def State.poke (s : State) (l : Loc) (size data : Nat) : State :=
  let one := fun (s : State) (k : Nat) =>
    let t := s.shown l.enc k size
    (({ t with mem := t.mem.writeN k size data } : State).unstamp k size).demand k
  match l.dual with
  | none => one s l.key
  | some k => one (one s l.key) k

/-- A write that covers the whole line clears its poison mark (R379). -/
def State.unpoison (s : State) (l : Loc) : State :=
  let p := s.poison.del (l.key / 128)
  { s with poison := match l.dual with
    | none => p
    | some k => p.del (k / 128) }

end Machine

/-- The new value of an atomic from the old one, the operand and the comparand, in `size` bytes (Table 10-4, R90). -/
def AtomicOp.apply (op : AtomicOp) (size old b cmp : Nat) : Nat :=
  let w := 8 * size
  let so := signed w old
  let sb := signed w b
  match op with
  | .xchg => b
  | .cas => if old = cmp then b else old
  | .add => (old + b) % 2 ^ w
  | .min => if so ≤ sb then old else b
  | .max => if so ≤ sb then b else old
  | .and => old &&& b
  | .or => old ||| b
  | .xor => old ^^^ b
  | .fadd => (Machine.Fmt.add Machine.F32 old b).1
  | .bfadd => (Machine.Fmt.add Machine.BF16 old b).1
  | .decnz => old - 1

namespace Machine

end Machine
end Sys2Proof
end

