-- ==== Sys2Proof/Machine/Access.lean ====
section
/-!
DEFINITION. Issuing memory operations (01_device R18 to R22, 05_traps R104, R389, 10_memory_ops R226 to R233): the checks
made at issue, the line accesses, the counters, and what later operations wait for.
-/
namespace Sys2Proof
namespace Machine

/-- Where an address is performed (R18, R193, R196). -/
def State.placeOfRoute (s : State) (tenant : Nat) (r : W64) : Place :=
  if !isDev r then .host else if s.isLocal tenant r then .dev else .remote

/-- The line of an address, as a number. -/
def lineOf (r : W64) : Nat := r.toNat / 128

/-- Does an operation belong to queue `n`? An instruction whose lanes fall in Q4 and Q6 is one in each (R18). -/
def Flight.inQueue (f : Flight) (n : Nat) : Bool :=
  if f.queue == 6 then f.parts.any (fun e => (e.2.place == .remote) == (n == 4) && (n == 4 || n == 6)) else f.queue == n

/-- Has every line access been performed? -/
def Flight.done (f : Flight) : Bool := f.parts.all (fun e => e.2.st == .performed)

/-- Have the answers of every line access of device memory crossed back (01_device R8)? -/
def Flight.back (f : Flight) : Bool := f.parts.all (fun e => e.2.place != .dev || e.2.back)

/-- Is the operation performed only when more than its line accesses is: copies also need their tile lines, matrix operations
their result, and others their result's return (R19)? -/
def Job.lasts (j : Job) : Bool :=
  match j with
  | .copy _ | .matmul _ | .acld _ _ _ _ _ | .acst _ _ _ _ | .sxld _ _ _ | .cbld _ _ | .stn _ | .cpl _ _ | .hfree _ _
  | .waitv _ _ | .kld _ | .words _ => true
  | _ => false

/-- Is the operation performed (R19)? One that lasts is in `flights` only while it is not. -/
def Flight.performed (f : Flight) : Bool := !f.job.lasts && f.done

/-- Is the part of the operation that is in queue `n` performed? -/
def Flight.performedIn (f : Flight) (n : Nat) : Bool :=
  !f.job.lasts && f.parts.all (fun e => e.2.st == .performed || (f.queue == 6 && (e.2.place == .remote) != (n == 4)))

/-- A store instruction: it holds a store-buffer entry (R231). -/
def Job.isStore (j : Job) : Bool :=
  match j with
  | .store | .sto | .strl _ | .lset _ | .rlq => true
  | _ => false

/-- A counted store (R232): the store instructions of device memory and scratchpad, and completion words. -/
def Job.counted (j : Job) : Bool := j.isStore || j == .word

/-- The kind of access a job makes (Table 9-3). -/
def Job.kind (j : Job) : AccKind :=
  match j with
  | .load _ _ _ | .waitv _ _ | .kld _ | .cpl _ _ => .load
  | .words k => k
  | .atomic _ _ _ => .atomic
  | .rlq => .relinquish
  | .copy c => match c.kind with
    | .cpt => .load
    | .cpr => .atomic
    | _ => .store
  | _ => .store

/-- The operations of one workgroup instance and party. -/
def State.opsOf (s : State) (uid : Nat) (p : Party) : List (Nat × Flight) :=
  s.flights.filter (fun e => e.2.uid == uid && e.2.party == p)

/-- Is nothing of the operation left but held entries (R105)? -/
def Flight.heldBack (f : Flight) : Bool :=
  f.parts.any (fun t => t.2.st == .held) && f.parts.all (fun t => t.2.st == .performed || t.2.st == .held)

/-- The operations of the queues in `mask` (bit n for Qn) that are not performed: the quad's own, and for Q0 and Q1 those of its
workgroup (R22). Operations issued in supervisor mode do not wait for held entries (R105). -/
def State.unperformed (s : State) (uid : Nat) (p : Party) (mask : Nat) (sup : Bool) : List Nat :=
  (s.flights.filter (fun e => e.2.uid == uid && (List.range 7).any (fun n =>
    bit mask n && e.2.inQueue n && (n < 2 || e.2.party == p) && !e.2.performedIn n &&
      !(sup && e.2.heldBack)))).map (·.1)

/-- Is every operation of the queues in `mask` performed? -/
def State.drained (s : State) (uid : Nat) (p : Party) (mask : Nat) (sup : Bool) : Bool := (s.unperformed uid p mask sup).isEmpty

/-- The queues that a release covers: Q2, Q3, Q4, Q6 (R21). -/
def releaseMask : Nat := 0x5C

/-- Those of them whose operations enter after issue, and have entered before a release or a FENCE issues: Q4, Q6 (R230). -/
def entryMask : Nat := 0x50

/-- The scope at which a job is a release. -/
def Job.rel (j : Job) : Option Nat :=
  match j with
  | .strl r => r
  | .atomic _ _ r => r
  | _ => none

/-- Does a line access still need its store-buffer entry: it has neither been performed on the issuing die nor been handed to a
bridge, the host link or fabric egress (R231)? -/
def Part.buffered (t : Part) : Bool :=
  match t.st with
  | .flying | .held | .xlating | .asking => true
  | .bridged => t.place == .host
  | .arrived => t.onDie
  | .away | .performed => false

/-- The entries of a quad's store buffer in use (R231). -/
def State.entriesUsed (s : State) (uid : Nat) (p : Party) : Nat :=
  ((s.opsOf uid p).filter (fun e => e.2.entry && e.2.parts.any (fun t => t.2.buffered))).length

/-- Does a line access of the job hold a transaction entry (R233): loads, atomics, WAITV reads and counted stores? -/
def Job.transacts (j : Job) : Bool :=
  match j with
  | .load _ _ _ | .atomic _ _ _ | .waitv _ _ => true
  | _ => j.counted

/-- Transaction entries in use: line accesses not yet answered (R233). -/
def State.transUsed (s : State) (uid : Nat) (p : Party) : Nat :=
  (((s.opsOf uid p).filter (fun e => e.2.job.transacts)).map (fun e => e.2.parts.length)).foldl (· + ·) 0

/-- The line accesses of a core that hold an entry of its table of 4,096, by name (R233). -/
def State.transOfCore (s : State) (core : Nat) : List (Nat × Nat) :=
  ((s.flights.filter (fun e => coreIx e.2.party.wg == core && e.2.job.transacts)).map (fun e => e.2.parts.map (fun t => t.2.joint))).flatten

/-- The line of a route, as its place sees it: of a local route PL 0 and SELFPL are one (R228). -/
def lineIn (p : Place) (r : W64) : Nat :=
  match p with
  | .dev => r.toNat % 2 ^ 51 / 128
  | _ => r.toNat / 128

/-- A route that names nothing. -/
def Access.none : Access := ⟨0, 0, 0, 0, 0, 0⟩

/-- A line access of one place that has been issued and holds the accesses; `n` names it among those of its instruction. -/
def Part.fresh (place : Place) (as : List Access) (joint : Nat × Nat) (range : Option (Nat × RangeImage)) (onDie : Bool) : Part :=
  ⟨place, .flying, as, joint, range, none, none, 0, 0, 0, none, onDie, none, false, 0, none, false, none, []⟩

/-- The line of a line access. -/
def Part.line (p : Part) : Nat := lineIn p.place (p.accs.headD Access.none).addr

/-- Adds an access to the line access it falls in, or opens one (R232). -/
def addAccess (ps : Tab Part) (mk : Access → Part) (a : Access) : Tab Part :=
  let p := mk a
  match ps.find? (fun e => e.2.place == p.place && e.2.line == p.line) with
  | some (i, _) => ps.upd i (fun t => { t with accs := t.accs ++ [a] })
  | none => ps.put ps.length p

/-- The line accesses of an instruction's lane accesses. -/
def linesOf (mk : Access → Part) (as : List Access) : Tab Part := as.foldl (fun ps a => addAccess ps mk a) []

/-- The part an access of device or host memory opens. -/
def State.partOf (s : State) (tenant die : Nat) (a : Access) : Part :=
  let pl := s.placeOfRoute tenant a.addr
  Part.fresh pl [a] (s.nextId, lineIn pl a.addr + if pl == .host then 2 ^ 60 else 0) (if pl == .remote then s.rangeOf tenant (plOf a.addr) else none)
    (pl == .dev && s.homeDie tenant die a.addr == die)

/-- The member of a cluster group that a scratchpad address names (R82, R244): its slot. -/
def State.member (s : State) (k : Nat) (w : Wg) (core : Nat) : Option Nat :=
  if core == 31 then some k
  else ((s.unitWgs w.unit).find? (fun e => coreOf e.1 == core)).map (fun e => e.1)

/-- Checks a scratchpad address (R79, R82, R244): the slot and offset, or the fault's cause. -/
def State.scratchCheck (s : State) (k : Nat) (w : Wg) (a : Nat) : Except Nat (Nat × Nat) :=
  if a / 2 ^ 26 != 0 then .error cSCRATCH_BOUND
  else
    let off := a % 2 ^ 21
    if w.slines * 128 ≤ off then .error cSCRATCH_BOUND
    else
      match s.member k w (bits a 25 21) with
      | some m => .ok (m, off)
      | none => .error cSCRATCH_CORE

/-- Adds counters for the line accesses of a counted store (R232). -/
def Quad.count (q : Quad) (ps : Tab Part) : Quad :=
  { q with
    uad := q.uad + (ps.filter (fun e => e.2.onDie)).length
    uap := q.uap + (ps.filter (fun e => !e.2.onDie)).length }

/-- What a quad is about to issue. -/
structure Issue where
  k : Nat
  q : Nat
  w : Wg
  x : Quad
  deriving Repr

/-- The quad whose turn it is. -/
def State.issuer (s : State) : Option Issue :=
  match s.focus with
  | some (.quad k q) =>
    match s.wg? k with
    | some w => (w.quads.find q).map (fun x => ⟨k, q, w, x⟩)
    | none => none
  | _ => none

/-- The place of an instruction that waits: one that has begun waits on its header no more (03_encoding R51). -/
def Cl.waiting (c : Cl) (what : Wait) : Cl := if what.begun then c.issued else c

/-- Leaves the quad at its instruction, in a wait. A wait of the same kind keeps its count (R96). -/
def State.waitAt (s : State) (i : Issue) (what : Wait) : State :=
  s.updQuad i.k i.q (fun x => { x with
    cl := x.cl.waiting what
    await := match x.await with
      | some a => if a.what == what then some a else some ⟨what, 0, (s.csr (dieOf i.k) i.w.tenant).waitcap.toNat⟩
      | none => some ⟨what, 0, (s.csr (dieOf i.k) i.w.tenant).waitcap.toNat⟩ })

/-- A precise fault of the quad as a whole (R389). -/
def State.precise (s : State) (i : Issue) (cause : Nat) : State :=
  s.raise i.k i.q (whole cause i.x.cl.pc i.x.mask) i.x.cl i.x.sup false

/-- A precise fault that one lane's address decides (R389). -/
def State.preciseAt (s : State) (i : Issue) (r : Refuse) (route : W64) : State :=
  s.raise i.k i.q ⟨r.cause, r.level, 0, r.label, route, i.x.mask, i.x.cl.pc, false⟩ i.x.cl i.x.sup false

/-- A lane's fault, found at issue. -/
abbrev LaneFault := Nat × Refuse × W64

/-- A lane-precise fault: cause, level, label and route of the lowest lane, TLANES every faulting lane (R389). -/
def laneInfo (fs : List LaneFault) (tpc : W64) : Option FaultInfo :=
  match fs with
  | [] => none
  | (l, r, a) :: rest => some ⟨r.cause, r.level, 0, r.label, a, maskOf (l :: rest.map (·.1)), tpc, false⟩

/-- Is the workgroup stopping, so that a fault of the quad suppresses its instruction in every lane (R110)? -/
def Issue.stopping (i : Issue) : Bool := i.w.halt.any (fun h => h.stage != .handler)

/-- Raises the lane-precise faults that an instruction meets at issue; its other lanes have completed in `t`, or have entered
a queue there. In a workgroup that is stopping, the instruction has no effect and is executed again when the workgroup
resumes (R104, R110, R389). -/
def State.raiseLanes (s t : State) (i : Issue) (fs : List LaneFault) : State :=
  match laneInfo fs i.x.cl.pc with
  | some f =>
    if i.stopping then s
    else
      let op := if s.nextId < t.nextId then some s.nextId else none
      (t.raise i.k i.q f i.x.cl i.x.sup false).updWg i.k (fun w => { w with halt := w.halt.map (fun h => { h with op := op }) })
  | none => t

/-- The name under which the operations of the present instruction belong together: those of the quads of an unparted gang
(R232, R243, R248). -/
def State.leadOf (s : State) (i : Issue) : Nat :=
  let g := Tab.get ⟨false, [], 0⟩ i.w.gangs (i.q / 8)
  if g.parted || g.issued.isEmpty then s.nextId else g.lead

/-- The line accesses of an instruction under its name; of a gather with a remote base, under the one of its packet (R243). -/
def State.named (s : State) (i : Issue) (packet : Option W64) (ps : Tab Part) : Tab Part :=
  let lead := s.leadOf i
  ps.map (fun e => (e.1, { e.2 with joint := (lead, match packet with
    | some b => if e.2.place == .remote then 2 ^ 80 + b.toNat else e.2.joint.2
    | none => e.2.joint.2) }))

/-- The flight of an instruction, entered and counted; its destination becomes pending under a window of `la` (R66). -/
def State.enter (s : State) (i : Issue) (job : Job) (dst size la words queue : Nat) (ls : List Nat) (ps : Tab Part)
    (pending : Bool) : State :=
  let f : Flight :=
    ⟨i.w.uid, .quad i.k i.q, queue, job, i.w.tenant, dieOf i.k, i.x.cl, i.x.sup, i.x.phys dst, size, maskOf ls, ps, [],
     job.isStore⟩
  let s1 := s.launch f
  s1.updQuad i.k i.q (fun x =>
    let y := if job.counted then x.count ps else x
    let z := if pending then { y with wins := y.wins ++ [⟨s.nextId, (List.range size).map (fun j => i.x.phys (dst + j)), la⟩] } else y
    z.advance words)

/-- Would an instruction's line accesses, if it has any, find room: a store-buffer entry of 16 and transaction entries, 256 of a quad and
4,096 of a core (R231, R233)? -/
def State.room (s : State) (i : Issue) (job : Job) (ps : Tab Part) : Bool :=
  ps.isEmpty || (!job.isStore || s.entriesUsed i.w.uid (.quad i.k i.q) < 16) &&
    (!job.transacts ||
      (s.transUsed i.w.uid (.quad i.k i.q) + ps.length ≤ 256 &&
        (s.transOfCore (coreIx i.k) ++ ps.map (fun t => t.2.joint)).eraseDups.length ≤ 4096))

/-- An atomic on host memory that the host link does not carry, or that no window supports (R242, 17_fabric R339). -/
def State.atomicStray (s : State) (i : Issue) (job : Job) (a : Access) : Bool :=
  match job with
  | .atomic op _ _ => !isDev a.addr && (!hostAtomic op || !s.windowOk (dieOf i.k) i.w.tenant a.addr a.size)
  | _ => false

/-- Issues an access of device or host memory in the lanes of `as`, whose keys are lanes (R226, R389): alignment lane by
lane, level 0 and R339 for the instruction as a whole, then the line accesses. `pre` holds faults that lanes meet at a
later level, `packet` the base of a gather. -/
def State.issueRoutes (s : State) (i : Issue) (job : Job) (scope : Option Nat) (as : List Access) (pre : List LaneFault)
    (dst size la words queue : Nat) (pending : Bool) (packet : Option W64 := none) : State :=
  let bad := as.filter (fun a => a.addr.toNat % a.size != 0)
  let good := as.filter (fun a => a.addr.toNat % a.size == 0)
  let path := good.filter (fun a =>
    (s.level0 i.w.tenant job.kind scope a.addr).toOption.isNone || s.atomicStray i job a)
  match path with
  | a :: _ =>
    match s.level0 i.w.tenant job.kind scope a.addr with
    | .error r => s.preciseAt i r a.addr
    | .ok _ => s.preciseAt i ⟨cATOMIC_PATH, 5, 0⟩ a.addr
  | [] =>
    let host := good.filter (fun a => hostBad a.addr)
    let go := good.filter (fun a => !hostBad a.addr && !pre.any (fun f => f.1 == a.key))
    let fs := bad.map (fun a => (a.key, ⟨cALIGN, 15, 0⟩, a.addr)) ++ pre ++ host.map (fun a => (a.key, ⟨cHOST_XLATE, 5, 0⟩, a.addr))
    let fs := lanes.filterMap (fun l => fs.find? (fun f => f.1 == l))
    let ps := s.named i packet (linesOf (s.partOf i.w.tenant (dieOf i.k)) go)
    if !s.room i job ps then s.waitAt i .stall
    else
      let t := if go.isEmpty then s.updQuad i.k i.q (·.advance words)
        else s.enter i job dst size la words queue (go.map (·.key)) ps pending
      s.raiseLanes t i fs

/-- Issues a scratchpad access: the part of each member's line (R244). `as` holds lanes' raw 32-bit addresses. -/
def State.issueScratch (s : State) (i : Issue) (job : Job) (as : List Access) (dst size la words : Nat) (pending : Bool) : State :=
  let chk := as.map (fun a => (a, if a.size < 128 && a.addr.toNat % a.size != 0 then Except.error cALIGN
    else s.scratchCheck i.k i.w a.addr.toNat))
  let fs : List LaneFault := chk.filterMap (fun e => match e.2 with
    | .error c => if c == cALIGN then some (e.1.key, ⟨c, 15, 0⟩, e.1.addr)
                  else some (e.1.key, ⟨c, 6, bits e.1.addr.toNat 25 21⟩, e.1.addr)
    | .ok _ => none)
  let go := chk.filterMap (fun e => match e.2 with
    | .ok (m, off) => some (m, { e.1 with addr := BitVec.ofNat 64 (if e.1.size = 128 then off / 128 * 128 else off) })
    | .error _ => none)
  let mk := fun (m : Nat) (a : Access) => Part.fresh (.scratch m) [a] (s.nextId, m * 2 ^ 14 + a.addr.toNat / 128) none true
  let ps := s.named i none (go.foldl (fun ps e => addAccess ps (mk e.1) e.2) [])
  if !s.room i job ps then s.waitAt i .stall
  else
    let t := if go.isEmpty then s.updQuad i.k i.q (·.advance words)
      else s.enter i job dst size la words 6 (go.map (fun e => e.2.key)) ps pending
    s.raiseLanes t i fs

/-! ### When a line access may be performed -/

/-- Routes are the same when they differ only in a PL of 0 against SELFPL (R228). -/
def State.sameRoute (s : State) (tenant : Nat) (p : Place) (a b : W64) : Bool :=
  match p with
  | .dev => a.toNat % 2 ^ 51 / 128 == b.toNat % 2 ^ 51 / 128 && s.isLocal tenant a && s.isLocal tenant b
  | _ => a.toNat / 128 == b.toNat / 128

/-- Do two accesses overlap in bytes of one line? -/
def overlap (a b : Access) : Bool :=
  let x := a.addr.toNat % 128
  let y := b.addr.toNat % 128
  x < y + b.size && y < x + a.size

/-- Do two line accesses touch the same bytes through the same route? -/
def State.clash (s : State) (tenant : Nat) (p r : Part) : Bool :=
  p.place == r.place && p.accs.any (fun a => r.accs.any (fun b => s.sameRoute tenant p.place a.addr b.addr && overlap a b))

/-- The routes name one extent: equal DL, SL and XL, and equal PL, or PL 0 and SELFPL (R105). -/
def State.sameExtent (s : State) (tenant : Nat) (a b : W64) : Bool :=
  dlOf a == dlOf b && slOf a == slOf b && xlOf a == xlOf b && (plOf a == plOf b || (s.isLocal tenant a && s.isLocal tenant b))

/-- A scratchpad line's full bit. -/
def State.isFull (s : State) (k line : Nat) : Bool :=
  match s.wg? k with
  | some w => w.full.has line
  | none => false

/-- Do two line accesses of the copy queue touch the same location (R294)? -/
def State.sameSpot (s : State) (tenant : Nat) (f g : Job) (p r : Part) : Bool :=
  p.place == .dev && r.place == .dev && p.accs.any (fun a => r.accs.any (fun b =>
    match s.lookup tenant f.kind a.addr, s.lookup tenant g.kind b.addr with
    | .ok x, .ok y => x.key < y.key + b.size && y.key < x.key + a.size
    | _, _ => false))

/-- Does a line access of an earlier operation keep one of a later operation waiting? A store or copy waits line by line,
a load or atomic as a whole, so that R105 can withdraw it with no effect in any lane. -/
def State.blocks (s : State) (e f : Flight) (p : Part) : Bool :=
  let mine := if f.job.isStore || f.queue == 0 then [p] else f.parts.map (·.2)
  e.parts.any (fun t => t.2.st != .performed && !(f.sup && t.2.st == .held) &&
    mine.any (fun r => s.clash f.tenant t.2 r || (f.queue == 0 && s.sameSpot f.tenant e.job f.job t.2 r)))

/-- Where an STO's order reaches (R235): the die of the module, or 4 for the host, or 5 for another module, whose own order
the counts of R330 keep. -/
def State.dieOfPart (s : State) (f : Flight) (p : Part) : Nat :=
  match p.place with
  | .dev => s.homeDie f.tenant f.die (p.accs.headD Access.none).addr
  | .scratch _ | .priv => f.die
  | .host => 4
  | .remote => 5

/-- The slot and workgroup with this serial, while it is resident. -/
def State.resident (s : State) (uid : Nat) : Option (Nat × Wg) := s.wgs.find? (fun e => e.2.uid == uid)

/-- Has the engine of a copy or a lane copy stopped for a save (05_traps R122)? Then it does nothing until the workgroup returns. -/
def Wg.stopped (w : Wg) (j : Job) : Bool :=
  w.halt.any (fun h => match h.stage, j with
    | .saving _ acks, .copy _ => acks.contains .copy
    | .saving _ acks, .cpl _ _ => acks.contains .coalescer
    | _, _ => false)

/-- Has the engine of an operation stopped? -/
def State.stoppedOp (s : State) (f : Flight) : Bool := (s.resident f.uid).any (fun e => e.2.stopped f.job)

/-- Does an unparted gang still issue the instruction of a line access in another quad, whose lanes belong to it (R232, R243)? -/
def State.gangOpen (s : State) (f : Flight) (p : Part) : Bool :=
  match f.party, s.resident f.uid with
  | .quad _ q, some (_, w) =>
    let g := w.gang q
    !g.parted && !g.issued.isEmpty && g.lead == p.joint.1 &&
      (w.gangQuads (q / 8)).any (fun e => !g.issued.contains e.1 && !e.2.waitsIn && w.halt.all (fun h => w.mayIssueHalted e.1 e.2 h))
  | _, _ => false

/-- May a line access of operation `id` be performed now? It waits for the whole of its gang; it waits for earlier accesses of its party, in its queue, to the
same bytes through the same route (R228, R294); Q3 is performed in order (R20); a release waits for the quad's earlier operations of
Q2 and Q3 (R21); an STO waits for the quad's earlier stores
to its die (R235); a KLD or KST for every earlier operation of its queue (R278, R294); an LSET for the quad's earlier
stores to its line, an LDS for the full bits of its lines (R245). -/
def State.mayPerform (s : State) (id : Nat) (f : Flight) (p : Part) : Bool :=
  let before := s.flights.filter (fun e => e.1 < id && e.2.uid == f.uid && e.2.party == f.party)
  before.all (fun e =>
    (e.2.queue != f.queue || !s.blocks e.2 f p) &&
    (f.queue != 3 || e.2.queue != 3 || e.2.performed || (f.sup && e.2.heldBack)) &&
    (f.job.rel.isNone || (e.2.queue != 2 && e.2.queue != 3) || e.2.performed || (f.sup && e.2.heldBack)) &&
    (match f.job with
      | .sto => !e.2.job.isStore || e.2.parts.all (fun t => t.2.st == .performed || (f.sup && t.2.st == .held) ||
          (t.2.place == .remote && t.2.st == .away) || s.dieOfPart f t.2 != s.dieOfPart f p)
      | .kld _ | .kst => e.2.performed
      | _ => true)) &&
  (match f.job, p.place with
    | .load _ _ _, .scratch _ => f.parts.all (fun t => match t.2.place with
      | .scratch m => t.2.st == .performed || s.isFull m t.2.line
      | _ => true)
    | _, _ => true) && !s.stoppedOp f && !s.gangOpen f p

end Machine
end Sys2Proof
end

