-- ==== Sys2Proof/Machine/Perform.lean ====
section
/-!
DEFINITION. Performing a line access at its ordering point (10_memory_ops R226 to R251, 09_routes R206 to R219,
13_hamper R263 to R267, 21_host_security R378, R379), and what its result or its refusal does to its issuer (05_traps
R104, R105, R389).
-/
namespace Sys2Proof
namespace Machine

/-! ### The owner of an operation -/

/-- Changes the workgroup with this serial, resident or saved. -/
def State.updUid (s : State) (uid : Nat) (f : Wg → Wg) : State :=
  let inSlot := fun (e : Nat × Wg) => if e.2.uid == uid then (e.1, f e.2) else e
  let inSave := fun (v : SavedWg) => if v.wg.uid == uid then { v with wg := f v.wg } else v
  { s with
    wgs := s.wgs.map inSlot
    sched := { s.sched with saved := s.sched.saved.map (fun u => { u with wgs := u.wgs.map inSave }) } }

end Machine

/-- The number by which records name a party: the quad, 64, 65 (Table 5-3). -/
def Machine.Party.no : Machine.Party → Nat
  | .quad _ q => q
  | .mtx _ => 64
  | .cpy _ => 65

namespace Machine

/-- Changes what is kept of the saved workgroup with this serial. -/
def State.updSavedWg (s : State) (uid : Nat) (f : SavedWg → SavedWg) : State :=
  { s with sched := { s.sched with saved := s.sched.saved.map (fun u => { u with
      wgs := u.wgs.map (fun v => if v.wg.uid == uid then f v else v) }) } }

/-- An instruction of a saved quad has faulted since its save: it is executed again after readmission (R110, R125). -/
def State.lateSaved (s : State) (uid q : Nat) (r : Redo) : State := s.updSavedWg uid (fun v => { v with late := v.late ++ [(q, r)] })

/-- Changes the quad that issued an operation, wherever its workgroup is. -/
def State.updOwner (s : State) (f : Flight) (g : Quad → Quad) : State :=
  match f.party with
  | .quad _ q => s.updUid f.uid (fun w => w.updQuad q g)
  | _ => s

/-- The pending destination of operation `id` is written: its window closes (R66). -/
def Quad.close (q : Quad) (id : Nat) : Quad := { q with wins := q.wins.filter (fun w => w.op != id) }

/-- Removes an operation that has no more to do. -/
def State.retire (s : State) (id : Nat) : State := { s with flights := s.flights.del id }

/-- What has left the module for an operation that is given up: nobody waits for its answers (17_fabric R334). -/
def Flight.orphan (f : Flight) : Flight := { f with uid := 0, faults := [], parts := f.parts.filter (fun p => p.2.st == .away) }

/-- Operations are given up; their requests that have left the module stay unanswered (09_routes R223, 17_fabric R334). -/
def State.abandon (s : State) (given : Flight → Bool) : State :=
  { s with flights := s.flights.filterMap (fun e =>
      if !given e.2 then some e
      else if e.2.orphan.parts.isEmpty then none
      else some (e.1, e.2.orphan)) }

/-- Changes one line access of an operation. -/
def State.updPart (s : State) (id j : Nat) (g : Part → Part) : State :=
  s.updFlight id (fun f => { f with parts := f.parts.upd j g })

/-! ### One line access at its home -/

/-- Is the job an STN? -/
def Job.ofCell (j : Job) : Bool :=
  match j with
  | .stn _ => true
  | _ => false

/-- What a line access does at its home. -/
def Job.aop (j : Job) : AtomicOp :=
  match j with
  | .atomic op _ _ => op
  | .copy c => if c.bf16 then .bfadd else .fadd
  | _ => .xchg

/-- The location of another byte of the same line. -/
def Loc.shift (l : Loc) (a0 a : W64) : Loc :=
  { l with key := l.key - a0.toNat % 128 + a.toNat % 128, dual := l.dual.map (fun k => k - a0.toNat % 128 + a.toNat % 128) }

/-- Do the accesses cover every byte of their line? -/
def fullLine (as : List Access) : Bool :=
  (List.range 128).all (fun b => as.any (fun a => a.addr.toNat % 128 ≤ b && b < a.addr.toNat % 128 + a.size))

/-- Reads each access of a line. -/
def State.readLine (s : State) (l : Loc) (a0 : W64) (as : List Access) : List Access :=
  as.map (fun a => { a with got := s.peek (l.shift a0 a.addr) a.size })

/-- Writes each access of a line, in order (R226); a write of the whole line clears its poison mark (R379). -/
def State.writeLine (s : State) (l : Loc) (a0 : W64) (as : List Access) : State :=
  let t := as.foldl (fun s a => s.poke (l.shift a0 a.addr) a.size a.data) (s.fill l true)
  (if fullLine as then t.unpoison l else t).written l

/-- Performs each atomic of a line, in ascending lane order: each reads the results of those before it (R226, R241). -/
def State.atomicLine (s : State) (l : Loc) (a0 : W64) (op : AtomicOp) (as : List Access) : State × List Access :=
  match as with
  | [] => (s, [])
  | a :: rest =>
    let at' := l.shift a0 a.addr
    let old := s.peek at' a.size
    let r := State.atomicLine (s.poke at' a.size (op.apply a.size old a.data a.cmp)) l a0 op rest
    (r.1, { a with got := old } :: r.2)

/-- Gives a cell back: its generation advances and it is free (R267). -/
def State.relinquish (s : State) (tenant : Nat) (r : W64) : State :=
  let stack := stackOfDomain (s.domain tenant (dlOf r))
  let c := s.cell tenant stack (cellOf r)
  s.setCell tenant stack (cellOf r) ⟨false, c.gen + 1⟩

/-- POISON, with the level and label of the memory (R103, R379). -/
def poisonOf (l : Loc) (r : W64) : Refuse := ⟨cPOISON, if l.pool then 3 else 4, if l.pool then cellOf r else xlOf r⟩

/-- A line access, looked up at levels 2 to 4 of this module and performed whole (R206 to R213, R222, R263, R379). -/
def State.lineAccess (s : State) (tenant : Nat) (k : AccKind) (op : AtomicOp) (as : List Access) :
    Except Refuse (State × List Access) :=
  match as with
  | [] => .ok (s, [])
  | a0 :: _ =>
    match s.lookup tenant k a0.addr with
    | .error r => .error r
    | .ok l =>
      let bad := s.poisoned l.key
      match k with
      | .load | .fetch => if bad then .error (poisonOf l a0.addr) else .ok (s.fill l false, s.readLine l a0.addr as)
      | .store => if bad && !fullLine as then .error (poisonOf l a0.addr) else .ok (s.writeLine l a0.addr as, as)
      | .atomic => if bad then .error (poisonOf l a0.addr) else
          let r := (s.fill l true).atomicLine l a0.addr op as
          .ok (r.1.written l, r.2)
      | .relinquish => .ok ((s.dropLine (l.key / 128)).relinquish tenant a0.addr, as)

/-- The line accesses of a list of accesses, in the order of their first ones (R243). -/
def splitLines (as : List Access) : List (List Access) :=
  let line := fun (a : Access) => a.addr.toNat / 128
  ((as.map line).eraseDups).map (fun n => as.filter (fun a => line a == n))

/-! ### Causal order (R237, R238, 17_fabric R328, R332) -/

/-- The causal group of a die and its index there; one group of the module's dies until the fabric manager names others
(log entry 59). -/
def State.groupOf (s : State) (tenant die : Nat) : Nat × Nat := Tab.get (0, die) s.tab.groups (tenant * 4 + die)

/-- The component of a die in the vector clocks of a tenant. -/
def State.component (s : State) (tenant die : Nat) : Nat :=
  (tenant * 2 ^ 16 + (s.groupOf tenant die).1) * 256 + (s.groupOf tenant die).2

/-- The vector clock of a die. -/
def State.clockOf (s : State) (tenant die : Nat) : Tab Nat := Tab.get [] s.fab.clocks (die * 16 + tenant)

/-- The later of two clocks, component by component. -/
def clockJoin (a b : Tab Nat) : Tab Nat := b.foldl (fun t e => Tab.set 0 t e.1 (max (Tab.get 0 t e.1) e.2)) a

end Machine

/-- The clock of a release with the release counted. -/
def Stamp.after (t : Stamp) : List (Nat × Nat) := Machine.clockJoin t.vc [(t.key, t.n)]

namespace Machine

/-- The instance that a release or an acquire names, where it is one that vector clocks order: the module (DEV) or the causal
group (CG). -/
def State.instanceOf (s : State) (tenant die scope : Nat) : Option Nat :=
  match scope with
  | 3 => some ((s.selfpl tenant).toNat * 2 + 2 ^ 40)
  | 4 => some ((s.groupOf tenant die).1 * 2 + 1)
  | _ => none

/-- The scope at which a job is an acquire. -/
def Job.acq (j : Job) : Option Nat :=
  match j with
  | .load _ _ a => a
  | .atomic _ a _ => a
  | _ => none

/-- The stamp of a release that a die performs or sends now: the next number of its component, after the releases that its
clock counts. -/
def State.stampOf (s : State) (f : Flight) : Option Stamp :=
  (f.job.rel.bind (s.instanceOf f.tenant f.die)).map (fun inst =>
    let k := s.component f.tenant f.die
    let vc := s.clockOf f.tenant f.die
    ⟨inst, k, Tab.get 0 vc k + 1, vc⟩)

/-- A die's clock counts its own release. -/
def State.stampedBy (s : State) (f : Flight) (st : Option Stamp) : State :=
  match st with
  | none => s
  | some t => { s with fab := { s.fab with
      clocks := Tab.set [] s.fab.clocks (f.die * 16 + f.tenant) (clockJoin (s.clockOf f.tenant f.die) t.after) } }

/-- Releases of a clock are known to have been applied. -/
def State.noted (s : State) (clock : List (Nat × Nat)) : State :=
  { s with fab := { s.fab with applied := clockJoin s.fab.applied clock } }

/-- The releases of a component that have been sent and that nothing has answered, by number. -/
def State.unanswered (s : State) (key : Nat) : List Nat :=
  (s.flights.map (fun f => f.2.parts.filterMap (fun p =>
    if p.2.st == .performed then none else p.2.stamp.bind (fun t => if t.key == key then some t.n else none)))).flatten

/-- The components of a clock that count a release which this module does not know to have been applied at its destination: of
its own dies, one that nothing has answered. -/
def State.unsettled (s : State) (tenant : Nat) (vc : List (Nat × Nat)) : List (Nat × Nat) :=
  let own := (List.range Config.dies).map (s.component tenant)
  vc.filter (fun e => if own.contains e.1 then (s.unanswered e.1).any (· ≤ e.2) else Tab.get 0 s.fab.applied e.1 < e.2)

/-- Has every release that a clock counts been applied at its destination? -/
def State.causal (s : State) (tenant : Nat) (vc : List (Nat × Nat)) : Bool := (s.unsettled tenant vc).isEmpty

/-- The releases that the values of a line access come from, by instance: of an atomic's, those of the value that it has read as
well; of a release's, its own. -/
def State.restamp (s t : State) (tenant : Nat) (k : AccKind) (as : List Access) (st : Option Stamp) : State :=
  as.foldl (fun t a =>
    match s.lookup tenant k a.addr with
    | .error _ => t
    | .ok l =>
      let old := if k == .atomic then s.stampsAt l.key else []
      let new := match st with
        | none => old
        | some x => Tab.set [] old x.inst (clockJoin (Tab.get [] old x.inst) x.after)
      if new.isEmpty then t else { t with fab := { t.fab with stamps := Tab.set [] t.fab.stamps (l.key / 4) new } }) t

/-- The clock that an acquire at an instance takes from the values of its accesses (R237, R238). -/
def State.clockRead (s : State) (tenant : Nat) (k : AccKind) (as : List Access) (acq : Option Nat) : Tab Nat :=
  match acq with
  | none => []
  | some inst => as.foldl (fun c a =>
      match s.lookup tenant k a.addr with
      | .error _ => c
      | .ok l => clockJoin c (Tab.get [] (s.stampsAt l.key) inst)) []

/-- A die's clock takes up what an acquire has read. -/
def State.acquired (s : State) (tenant die : Nat) (clock : List (Nat × Nat)) : State :=
  if clock.isEmpty then s
  else
    let c := clockJoin (s.clockOf tenant die) clock
    ({ s with fab := { s.fab with clocks := Tab.set [] s.fab.clocks (die * 16 + tenant) c } } : State).noted clock

/-- A line access with the order that it carries: its stamp, and the clock that it takes up at an instance. -/
def State.orderedAccess (s : State) (tenant : Nat) (k : AccKind) (op : AtomicOp) (as : List Access) (st : Option Stamp)
    (acq : Option Nat) : Except Refuse (State × List Access × Tab Nat) :=
  match s.lineAccess tenant k op as with
  | .error r => .error r
  | .ok (t, bs) => .ok (if st.isSome || k == .atomic then s.restamp t tenant k as st else t, bs, s.clockRead tenant k as acq)

/-! ### Refusals -/

/-- The fault of a lane of an operation. -/
def Flight.info (f : Flight) (r : Refuse) (inner : Nat) (route : W64) (ls : BitVec 4) : FaultInfo :=
  ⟨r.cause, r.level, inner, r.label, route, ls, f.pos.pc, false⟩

/-- The lanes of a line access, as a mask. -/
def Part.lanes (p : Part) : BitVec 4 := maskOf (p.accs.map (fun a => a.key))

/-- TLANES of a fault of one line access of an operation: its lanes; of a fetch, or an image, the lanes active then (03_encoding
R387); of a sequencer's access, which has none, 0 (log entry 78). -/
def Flight.lanesOf (f : Flight) (p : Part) : BitVec 4 :=
  match f.party, f.job with
  | .quad _ _, .words _ => f.lanes
  | .quad _ _, _ => p.lanes
  | _, _ => 0

/-- The route of a line access's lowest lane. -/
def Part.route (p : Part) : W64 :=
  match p.accs with
  | [] => 0
  | a :: _ => a.addr

/-- May a wait of this quad end: its workgroup is not halted, or the quad runs the handler (R109, R111)? -/
def Wg.goesOn (w : Wg) (q : Nat) : Bool := w.halt.all (fun h => h.stage == .handler && h.origin == q)

/-- Does the workgroup take a new fault of party `q` now, or is it halted already, by no fault of the same cycle that gives way (R110)? -/
def Wg.takesFault (w : Wg) (q : Nat) (sup : Bool) : Bool :=
  match w.halt with
  | none => true
  | some h => h.stage == .handler && sup || w.yieldsTo h q

/-- The quad stops: an instruction of its own has faulted while its workgroup stops (R110). -/
def Quad.stops (q : Quad) : Quad := if q.shadow.isSome then q else { q with await := some ⟨.stopped, 0, 0⟩ }

/-- An instruction of a quad of a halted workgroup, which has faulted, is executed again when the workgroup resumes (R110). -/
def State.redone (s : State) (f : Flight) (r : Redo) : State :=
  let run := (s.resident f.uid).any (fun e => e.2.halt.any (fun h => h.stage != .handler))
  s.updOwner f (fun q => if run then (q.again r).stops else q.again r)

/-- Raises the lane-precise faults of an operation whose other lanes have completed. In a workgroup that is halted already, or
saved, the lanes of the fault are executed again when it resumes (R110, R125). -/
def State.lateFault (s : State) (id : Nat) (f : Flight) (info : FaultInfo) : State :=
  match s.resident f.uid with
  | none => s.lateSaved f.uid f.party.no ⟨f.pos, info.lanes, id, false⟩
  | some (k, w) =>
    if w.takesFault f.party.no f.sup then
      (s.raise k f.party.no info f.pos f.sup false).updWg k (fun w => { w with halt := w.halt.map (fun h => { h with ord := id }) })
    else s.redone f ⟨f.pos, info.lanes, id, false⟩

/-- The fault of several lanes: cause, level, label and route of the lowest, TLANES every lane (R389). -/
def lowestFault (fs : List (Nat × FaultInfo)) : Option FaultInfo :=
  match lanes.filterMap (fun l => (fs.find? (fun e => e.1 == l)).map (fun e => (l, e.2))) with
  | [] => none
  | (l, i) :: rest => some { i with lanes := maskOf (l :: rest.map (·.1)) }

/-- One record for faults that the lanes of an instruction meet at issue and later: the lowest lane's, with every lane (R389). -/
def FaultInfo.join (a b : FaultInfo) : FaultInfo :=
  { (if (lanesOf b.lanes).headD 4 < (lanesOf a.lanes).headD 4 then b else a) with lanes := a.lanes ||| b.lanes }

/-- The faults of an operation that belong to the record of a halt, which its instruction has started at issue. -/
def State.joinFault (s : State) (f : Flight) (info : FaultInfo) : State :=
  s.updUid f.uid (fun w => { w with halt := w.halt.map (fun h => { h with op := none, fault := h.fault.join info }) })

/-- Is the cause one that a report carries (R104)? -/
def imprecise (i : FaultInfo) : Bool := i.cause == cSTORE_FAULT || i.cause == cEXTENT_ABSENT && i.level == 4

/-- A report reaches a saved quad: it waits in the quad's record (R110, R125). -/
def State.reportSaved (s : State) (uid q : Nat) (r : FaultInfo × Cl) : State := s.updSavedWg uid (fun v => { v with reports := v.reports ++ [(q, r)] })

/-- An imprecise report reaches the quad; a report for a store of the handler ends the unit while the quad is still in
supervisor mode (R110, R112). -/
def State.addReport (s : State) (f : Flight) (i : FaultInfo) : State :=
  match s.resident f.uid with
  | some (k, _) =>
    if f.sup && (s.quad? k f.party.no).any (fun q => q.sup) then s.raise k f.party.no i f.pos true true
    else s.updOwner f (fun q => { q with reports := q.reports ++ [(i, f.pos.issued)] })
  | none => s.reportSaved f.uid f.party.no (i, f.pos.issued)

/-- Every line access of the operation that is not in Q4 has met its outcome. -/
def Flight.settled (f : Flight) : Bool :=
  f.parts.all (fun e => e.2.place == .remote || e.2.st == .performed || e.2.st == .held || e.2.st == .away)

/-- Reports the refusals of a store once every line access of it has met its outcome: one imprecise report, and the
lane-precise faults of its host-half lanes (R104, R389). -/
def State.settleStore (s : State) (id : Nat) : State :=
  match s.flights.find id with
  | none => s
  | some f =>
    if !f.job.counted || !f.settled || f.faults.isEmpty then s
    else
      let s1 := s.updFlight id (fun f => { f with faults := [] })
      let s2 := match lowestFault (f.faults.filter (fun e => imprecise e.2)) with
        | some i => s1.addReport f i
        | none => s1
      match lowestFault (f.faults.filter (fun e => !imprecise e.2)) with
      | some i => s2.lateFault id f i
      | none => s2

/-- Do the packets of a job count in SENT and RCV (17_fabric R330): stores, relinquishes, releases and the writes of copies? -/
def Job.storeClass (j : Job) : Bool :=
  match j with
  | .copy c => c.kind != .cpt
  | .atomic _ _ rel => rel.isSome
  | j => j.kind == .store || j.kind == .relinquish

/-- The key of a bridge's count. -/
def bridgeKey (from' to' tenant : Nat) : Nat := (from' * 4 + to') * 16 + tenant

/-- The home slice of a local route (01_device R11): slices 12s to 12s + 11 of its die serve a stack; none while its domain is not
mapped, and the access is refused where it was issued. -/
def State.homeSlice (s : State) (tenant : Nat) (r : W64) : Option Nat :=
  let d := s.domain tenant (dlOf r)
  if !d.getLsbD 0 then none
  else
    let n := if d.getLsbD 5 then cellNo (cellOf r) else lineNo (slOf r) (xlOf r) (offOf r)
    some (stackOfDomain d * 12 + Config.homeHash n % 12)

/-- The slice that a line access has set out for, or would set out for now. -/
def State.targetSlice (s : State) (f : Flight) (p : Part) : Option Nat :=
  match p.home with
  | some h => some h
  | none => s.homeSlice f.tenant p.route

/-- Is a line access of device memory on its way, over a bridge or at its home slice? -/
def Part.under (p : Part) : Bool := p.place == .dev && (p.st == .bridged || p.st == .arrived)

/-- Has a line access been handed to a bridge? -/
def Part.crossed (p : Part) (die : Nat) : Bool := p.under && p.home.any (fun h => h / 48 != die)

/-- The line accesses `ms` of an operation cross a bridge to the die of slice `h`: they are one line access, which is counted at both
ends, and an STO or a release carries the count as it stood (17_fabric R330). -/
def State.overBridge (s : State) (f : Flight) (h : Nat) (ordered : Bool) (ms : List (Nat × Nat)) (st : PartState) : State :=
  let k := bridgeKey f.die (h / 48) f.tenant
  let n := Tab.get 0 s.fab.bsent k
  let t := ms.foldl (fun s m => s.updPart m.1 m.2 (fun p => { p with
    st := st, home := some h, carried := if ordered then some n else none, xord := if f.job.storeClass then some n else none })) s
  if f.job.storeClass then { t with fab := { t.fab with bsent := t.fab.bsent.bump k 1, brcv := t.fab.brcv.bump k 1 } } else t

/-- Is a line access a later entry of the quad's store buffer whose route names an extent that a held entry names (R105)? -/
def State.joinsHeld (s : State) (id : Nat) (f : Flight) (t : Part) : Bool :=
  (t.st == .flying || t.under) && t.place == .dev && f.job.isStore && f.job != .rlq && !f.sup &&
    (s.opsOf f.uid f.party).any (fun e => e.1 < id && e.2.parts.any (fun h => h.2.st == .held && s.sameExtent f.tenant h.2.route t.route))

/-- The later stores of the quad that name an extent which a held entry names are held with it (R105). -/
def State.absorb (s : State) (uid : Nat) (p : Party) : State :=
  let l := ((s.opsOf uid p).map (fun e => (e.2.parts.filter (fun t => s.joinsHeld e.1 e.2 t.2)).map (fun t => (e.1, t.1)))).flatten
  l.foldl (fun s x => s.updPart x.1 x.2 (fun t => { t with st := .held })) s

/-- A saved unit begins to end where it lies: it is not readmitted, and its operations go on until they are answered (R113). -/
def State.endSaved (s : State) (unit : Nat) (e : Ending) : State :=
  let go := fun (u : Saved) => if u.unit == unit && u.ended.isNone then { u with ended := some e, passed := false, cycles := 0 } else u
  { s with sched := { s.sched with saved := s.sched.saved.map go } }

/-- The unit of an operation ends with a fault of it, resident or saved (R113, R335). -/
def State.endOf (s : State) (f : Flight) (i : FaultInfo) : State :=
  match s.resident f.uid with
  | some (k, w) => s.endUnit w.unit k f.party.no i f.pos f.sup false
  | none =>
    match s.sched.saved.find? (fun u => u.wgs.any (fun v => v.wg.uid == f.uid)) with
    | none => s
    | some u => s.endSaved u.unit ⟨i, f.uid, f.party.no⟩

/-- A level, or the host's translation, refuses a local line access (R104, R105). -/
def State.refused (s : State) (id j : Nat) (f : Flight) (p : Part) (r : Refuse) : State :=
  let drop := s.updPart id j (fun t => { t with accs := [], st := .performed })
  let perLane := fun (c : Refuse) (inner : Nat) =>
    (drop.updFlight id (fun f => { f with faults := f.faults ++ p.accs.map (fun a => (a.key, f.info c inner a.addr 0)) }))
  match f.job with
  | .load _ _ _ | .atomic _ _ _ | .waitv _ _ | .words _ =>
    if r.cause == cKEY_REVOKED then drop.endOf f (f.info r 0 p.route (f.lanesOf p)) else perLane r 0
  | .store | .sto | .strl _ | .rlq =>
    if r.level == 5 then (perLane r 0).settleStore id
    else if r.cause == cEXTENT_ABSENT then
      ((s.updFlight id (fun f => { f with
          parts := f.parts.upd j (fun t => { t with st := .held })
          faults := f.faults ++ p.accs.map (fun a => (a.key, f.info r 0 a.addr 0)) })).absorb f.uid f.party).settleStore id
    else (perLane { r with cause := cSTORE_FAULT } r.cause).settleStore id
  | .word => (perLane { r with cause := cSTORE_FAULT } r.cause).settleStore id
  | .copy _ | .cpl _ _ => drop.endOf f (f.info { r with cause := cCOPY_FAULT } r.cause p.route (f.lanesOf p))
  | _ => drop.endOf f (f.info r 0 p.route (f.lanesOf p))

/-! ### Scratchpad -/

/-- Sets or clears a line's full bit. -/
def Wg.setFull (w : Wg) (line : Nat) (b : Bool) : Wg :=
  { w with full := if b then w.full.put line () else w.full.del line }

/-- Performs a line access in a scratchpad (R244, R245). -/
def State.performScratch (s : State) (id j m : Nat) (f : Flight) (p : Part) : State :=
  match f.job with
  | .load _ _ _ =>
    let get := fun (a : Access) => match s.wg? m with
      | some w => { a with got := w.scratch.bytes a.addr.toNat a.size }
      | none => a
    s.updPart id j (fun t => { t with accs := t.accs.map get, st := .performed })
  | .lset b =>
    (s.updWg m (fun w => p.accs.foldl (fun w a => w.setFull (a.addr.toNat / 128) b) w)).updPart id j (fun t => { t with st := .performed })
  | _ =>
    let put := fun (t : Tab Byte) (a : Access) => t.setBytes a.addr.toNat a.size a.data
    (s.updWg m (fun w => { w with scratch := p.accs.foldl put w.scratch })).updPart id j (fun t => { t with st := .performed })

/-! ### The host half and the fabric -/

/-- The accesses of a message. -/
def toMsg (as : List Access) : List MsgAcc := as.map (fun a => ⟨a.addr, a.size, a.data, a.cmp⟩)

/-- A link end that has not trained (17_fabric R323). -/
def Link.idle : Link := ⟨false, 0, [], [], [], 0, false, none, 0, [], [], 0⟩

end Machine

/-- The class of a message in its tenant's network: request, response, acknowledgement, itinerary (01_device R10). -/
def MsgBody.cls (b : MsgBody) : Nat :=
  match b with
  | .request _ => 0
  | .answer _ _ _ (.data _ _ _) | .answer _ _ _ (.error _ _ _ _) => 1
  | .answer _ _ _ _ | .skip _ _ _ _ | .note _ => 2
  | .seatFull _ _ _ _ _ _ _ _ _ | .seatReturn _ _ _ _ _ => 3

/-- The data bytes of a message. -/
def MsgBody.bytes (b : MsgBody) : Nat :=
  match b with
  | .request r => if r.kind == .load || r.kind == .fetch then 0 else (r.accs.map (·.size)).foldl (· + ·) 0
  | .answer _ _ _ (.data _ vals _) => (vals.map (·.1)).foldl (· + ·) 0
  | _ => 0

/-- The virtual channel of a message on a link: hop index h on channel h of its class and tenant (17_fabric R327). -/
def FabricMsg.channel (m : FabricMsg) : Nat := (m.tenant * 4 + m.body.cls) * 8 + m.hop % 8

/-- The beats of a message: a header beat, and up to eight with its data (17_fabric R321). -/
def FabricMsg.beats (m : FabricMsg) : List (FabricMsg × Nat) := (List.range (1 + min 8 ((m.body.bytes + 15) / 16))).map (fun i => (m, i))

namespace Machine

/-- One byte of CRC-64 with the ECMA-182 polynomial. -/
def crcByte (c : BitVec 64) (b : Nat) : BitVec 64 :=
  (List.range 8).foldl (fun c _ => if c.getLsbD 63 then (c <<< 1) ^^^ 0x42F0E1EBA9EA3693#64 else c <<< 1)
    (c ^^^ (BitVec.ofNat 64 b <<< 56))

end Machine

/-- The CRC of a flit's bytes 0 to 247 (log entry 10). -/
def Flit.crcOf (f : Flit) : BitVec 64 :=
  let x := f.hdr.toNat + f.payload.toNat * 2 ^ 64
  (List.range 248).foldl (fun c i => Machine.crcByte c (x / 2 ^ (8 * i) % 256)) 0

namespace Machine

/-- The flit of a kind with an ACK, a SEQ and beats (Table 17-1). -/
def flitOf (kind : Nat) (ack seq : BitVec 12) (beats : List (FabricMsg × Nat)) : Flit :=
  let hdr := BitVec.ofNat 64 (kind * 2 ^ 24 + ack.toNat * 2 ^ 12 + seq.toNat)
  let pay := BitVec.ofNat 1920 ((beats.zipIdx.map (fun e => (Config.beat e.1.1 e.1.2).toNat * 2 ^ (128 * e.2))).foldl (· + ·) 0)
  let f : Flit := ⟨hdr, pay, 0⟩
  { f with crc := f.crcOf }

/-- Takes up to 15 of the waiting beats into a data flit; none while 512 flits are not acknowledged, and an idle flit goes
(R321, R322). -/
def Link.flit (l : Link) : Link :=
  if l.retry.length < 512 then
    { l with
      next := l.next + 1
      retry := l.retry ++ [(l.next, l.beats.take 15)]
      beats := l.beats.drop 15
      wire := l.wire ++ [flitOf 0 (l.expect - 1) l.next (l.beats.take 15)] }
  else { l with wire := l.wire ++ [flitOf 1 (l.expect - 1) 0 []] }

/-- The next message that a link takes, from any of its channels: which one goes is not promised (R327). -/
def Link.nextMsg (l : Link) (seed : Nat) : Option (FabricMsg × Link) :=
  let c := l.pending.filter (fun e => !e.2.isEmpty)
  match c.getD (Config.freeNat seed % c.length) (0, []) with
  | (k, m :: rest) => some (m, { l with pending := Tab.set [] l.pending k rest })
  | (_, []) => none

/-- Sends what waits, in data flits that messages run on through, while the retry buffer has room (R321, R322). -/
def Link.pump (l : Link) (seed n : Nat) : Link :=
  match n with
  | 0 => l
  | n + 1 =>
    if 15 ≤ l.beats.length then
      if l.retry.length < 512 then Link.pump l.flit seed n else l.flit
    else
      match l.nextMsg seed with
      | some (m, k) => Link.pump { k with beats := k.beats ++ m.beats } (seed + 1) n
      | none => if l.beats.isEmpty then l else l.flit

/-- The turns that a link needs to send what waits. -/
def Link.turns (l : Link) : Nat := 2 * ((l.pending.map (fun e => e.2.length)).foldl (· + ·) 0) + l.beats.length + 2

/-- A link end. -/
def State.link (s : State) (n : Nat) : Link := Tab.get Link.idle s.fab.links n

/-- Writes it. -/
def State.setLink (s : State) (n : Nat) (l : Link) : State :=
  { s with fab := { s.fab with links := Tab.set Link.idle s.fab.links n l } }

/-- A link end sends what waits. -/
def State.pumped (s : State) (n : Nat) : State :=
  let l := s.link n
  { s.setLink n (l.pump s.free l.turns) with free := s.free + l.turns }

/-- Puts a message on its channel of a link. -/
def State.onLink (s : State) (n : Nat) (m : FabricMsg) : State :=
  let l := s.link n
  (s.setLink n { l with pending := Tab.set [] l.pending m.channel (Tab.get [] l.pending m.channel ++ [m]) }).pumped n

/-- What waits to cross a bridge. -/
def State.transit (s : State) (src dst : Nat) (e : Errand) : State :=
  { s with fab := { s.fab with transit := s.fab.transit ++ [⟨src, dst, e⟩] } }

/-- A message at a die goes out on a link, over the bridge when the link is another die's; with none, on the host link of die 0
(01_device R15). -/
def State.depart (s : State) (die : Nat) (port : Option Nat) (m : FabricMsg) : State :=
  let to' := (port.getD 0) / 8
  if to' != die then s.transit die to' (.leave port m)
  else
    match port with
    | none => s
    | some n => s.onLink n m

/-- A die hands a message to a link, or with none to the host link. -/
def State.send (s : State) (die : Nat) (port : Option Nat) (m : FabricMsg) : State :=
  ({ s with fab := { s.fab with outbox := s.fab.outbox ++ [(port, m)] } } : State).depart die port m

/-- Does a line access of the host half hold one of its die's ATS requests, on its way to die 0 or there (R194, 01_device R15)? -/
def Part.translating (p : Part) : Bool := p.place == .host && (p.st == .xlating || p.st == .bridged)

/-- A host-half line access: translated, then sent; or waiting for a translation, at most 128 of a die at once (R194). -/
def State.performHost (s : State) (id j : Nat) (f : Flight) (p : Part) : State :=
  let k := f.job.kind
  match s.translation f.die f.tenant p.route with
  | some t =>
    if (match k with | .load | .fetch => t.read | .atomic => t.read && t.write | _ => t.write) then
      (s.send f.die none ⟨f.tenant, 0, 0, .request ⟨k, f.job.aop, toMsg p.accs, (s.selfpl f.tenant).toNat, f.die, id, j, 0, false, 0, [],
        none, none⟩⟩).updPart id j
        (fun t => { t with st := .away, twin := 1 })
    else s.refused id j f p ⟨cHOST_PERM, 5, 0⟩
  | none =>
    let busy := s.flights.foldl (fun n e => n + (e.2.parts.filter (fun t => e.2.die == f.die && t.2.translating)).length) 0
    if 128 ≤ busy then s
    else if f.die == 0 then s.updPart id j (fun t => { t with st := .xlating })
    else (s.updPart id j (fun t => { t with st := .bridged })).transit f.die 0 (.translate f.tenant id j)

/-- The key of a die's count for a tenant, module and slot (R330). -/
def sentKey (die tenant pl slot : Nat) : Nat := ((die * 16 + tenant) * 4096 + pl) * 8 + slot

/-- An entry of the swap table (Table 17-3). -/
def State.swapEntry (s : State) (label : Nat) : W64 := Tab.get 0 s.tab.swap label

/-- A link is up and ready (R325 step 5, R376). -/
def State.linkUp (s : State) (n : Nat) : Bool := (s.fab.links.find n).any (fun l => l.up) && s.isReady (19 * 32 + n)

/-- The out label and port of a label that leaves its issuing module at hop index 0, or the refusal (R325). -/
def State.firstHop (s : State) (tenant label : Nat) : Except Refuse (Nat × Nat) :=
  let e := s.swapEntry label
  if !e.getLsbD 18 || !e.getLsbD (32 + tenant) || bits e.toNat 63 48 != 0 || bits e.toNat 31 19 != 0 then
    .error ⟨cRANGE_MISS, 1, label⟩
  else if e.getLsbD 17 then .error ⟨cRANGE_MISS, 1, label⟩
  else if !s.linkUp (bits e.toNat 16 12) then .error ⟨cPEER_DISABLED, 1, label⟩
  else .ok (bits e.toNat 11 0, bits e.toNat 16 12)

/-- Does the job's packet wait in the hold of its destination: an STO or a release (R330)? -/
def Job.ordered (j : Job) : Bool := j == .sto || j.rel.isSome

/-- A refusal or an error of an access that has left, or tried to leave, the module (R104, R333): a copy's is COPY_FAULT,
any other ends the unit with REMOTE_ERROR. -/
def State.remoteError (s : State) (id j : Nat) (f : Flight) (p : Part) (r : Refuse) : State :=
  let drop := s.updPart id j (fun t => { t with accs := [], st := .performed })
  let c := match f.job with
    | .copy _ | .cpl _ _ => cCOPY_FAULT
    | _ => cREMOTE_ERROR
  drop.endOf f (f.info { r with cause := c } r.cause p.route (f.lanesOf p))

/-- The parts that are one line access with a part, or one gather packet: those of its name that stand as it does (R232,
R243). -/
def State.membersOf (s : State) (f : Flight) (p : Part) : List (Nat × Nat) :=
  (s.flights.map (fun e => if e.2.uid == f.uid && e.2.die == f.die then
      (e.2.parts.filter (fun t => t.2.joint == p.joint && t.2.place == p.place && t.2.st == p.st)).map (fun t => (e.1, t.1))
    else [])).flatten

/-- Changes the line accesses named. -/
def State.updParts (s : State) (ms : List (Nat × Nat)) (g : Part → Part) : State := ms.foldl (fun s m => s.updPart m.1 m.2 g) s

/-- A line access, where there is one. -/
def State.part? (s : State) (id j : Nat) : Option (Flight × Part) :=
  (s.flights.find id).bind (fun f => (f.parts.find j).map (fun p => (f, p)))

/-- Puts a value behind those that do not rank above it. -/
def insertBy {α : Type} (rank : α → Nat) (x : α) (l : List α) : List α :=
  match l with
  | [] => [x]
  | y :: r => if rank x < rank y then x :: y :: r else y :: insertBy rank x r

/-- The accesses of the parts named, each with its part, in ascending lane order: by quad, then by lane (R226). -/
def State.laneAccs (s : State) (ms : List (Nat × Nat)) : List ((Nat × Nat) × Access) :=
  let all := (ms.map (fun m => ((s.part? m.1 m.2).map (fun e => e.2.accs.map (fun a => (e.1.party.no * 2 ^ 16 + a.key, m, a)))).getD [])).flatten
  (all.foldl (fun l x => insertBy (·.1) x l) []).map (·.2)

/-- Those accesses alone. -/
def State.accsOf (s : State) (ms : List (Nat × Nat)) : List Access := (s.laneAccs ms).map (·.2)

/-- Sends one packet of the line accesses `ms` on a valid path of a side: the path chosen is not promised (R329); a packet that
would run more than 2^30 ahead of the last RCV reported waits (R331). A release to a die of the causal group carries the clock
(R328, R332). Answers the state, or nothing while it waits. -/
def State.sendPacket (s : State) (ms : List (Nat × Nat)) (id j : Nat) (f : Flight) (p : Part) (as : List Access) (e : RangeImage)
    (mirror : Bool) : Option State :=
  let pl := plOf p.route
  let paths := e.paths mirror
  let c := paths.getD (s.pick paths.length) 0
  let key := sentKey f.die f.tenant pl c
  let label := bits (e.path c) 11 0
  if f.job.storeClass && 2 ^ 30 ≤ (Tab.get 0 s.fab.sent key + 2 ^ 32 - Tab.get 0 s.fab.acked key) % 2 ^ 32 then none
  else
    match s.firstHop f.tenant label with
    | .error r => some (ms.foldl (fun s m => match s.part? m.1 m.2 with
        | some (g, q) => s.remoteError m.1 m.2 g q r
        | none => s) s.drawn)
    | .ok (out, port) =>
      let counts := if f.job.ordered then
        (List.range 4).map (fun i => Tab.get 0 s.fab.sent (sentKey f.die f.tenant pl (c / 4 * 4 + i))) else []
      let stamp := if (Tab.get [] s.tab.peers f.tenant).contains pl then (match p.stamp with
        | some st => some st
        | none => (s.stampOf f).map (fun t => { t with vc := s.unsettled f.tenant t.vc })) else none
      let t := (s.drawn.stampedBy f stamp).send f.die (some port) ⟨f.tenant, BitVec.ofNat 12 out, 0, .request ⟨f.job.kind, f.job.aop,
        toMsg as, (s.selfpl f.tenant).toNat, f.die, id, j, c, f.job.storeClass, Tab.get 0 s.fab.sent key, counts, stamp,
        f.job.acq.bind (s.instanceOf f.tenant f.die)⟩⟩
      let counted := if f.job.storeClass then
        { t with fab := { t.fab with sent := Tab.set 0 t.fab.sent key ((Tab.get 0 t.fab.sent key + 1) % 2 ^ 32) } } else t
      let u := if f.job.counted then ms.foldl (fun s m => match s.part? m.1 m.2 with
        | some (g, _) => s.updOwner g (fun q => { q with path := q.path.bump (c % 4) 1 })
        | none => s) counted else counted
      some (u.updParts ms (fun t => { t with
        st := .away, twin := t.twin + 1, stamp := stamp
        ords := if f.job.storeClass then t.ords ++ [(c, Tab.get 0 s.fab.sent key)] else t.ords
        label := if mirror then t.label else label, mlabel := if mirror then label else t.mlabel
        slot := if mirror then t.slot else some c, mslot := if mirror then some c else t.mslot }))

/-- The range entry of a line access: the one that level 0 found, with the peers that are disabled now; a copy's, the one that
covers it now (09_routes R222, R337). -/
def State.entryOf (s : State) (f : Flight) (p : Part) : Option (Nat × RangeImage) :=
  match p.range with
  | some (i, e) => some (i, { e with d0 := (e.d0 &&& ~~~0xC0000000#64) ||| ((s.range f.tenant i).d0 &&& 0xC0000000#64) })
  | none => s.rangeOf f.tenant (plOf p.route)

/-- A remote line access leaves the die (R200, R225, R333, R336): a load on the primary, or on the mirror when DIS is set;
a store to each enabled side. `ms` are its parts. -/
def State.egress (s : State) (ms : List (Nat × Nat)) (id j : Nat) (f : Flight) (p : Part) (as : List Access) : State :=
  let refuse := fun (r : Refuse) => ms.foldl (fun s m => match s.part? m.1 m.2 with
    | some (g, q) => s.remoteError m.1 m.2 g q r
    | none => s) s
  match s.entryOf f p with
  | none => refuse ⟨cRANGE_MISS, 1, plOf p.route⟩
  | some (i, e) =>
    let store := f.job.storeClass
    let prim := !e.dis
    let mir := e.mir && !e.mdis && (e.dis || store)
    if !prim && !mir then refuse ⟨cPEER_DISABLED, 1, plOf p.route⟩
    else
      let s0 := s.updParts ms (fun t => { t with range := some (i, e) })
      match (if prim then s0.sendPacket ms id j f p as e false else some s0) with
      | none => s
      | some t =>
        match t.part? id j with
        | some (f1, p1) => if mir && p1.st != .performed then (t.sendPacket ms id j f1 p1 as e true).getD s else t
        | none => t

/-! ### The access itself -/

/-- A copy out of a tile reads the tile lines that this access needs and has not read, each as one step (R289). -/
def State.fillFrom (s : State) (id : Nat) (f : Flight) (p : Part) : State :=
  match f.job, s.resident f.uid with
  | .copy c, some (_, w) =>
    if c.kind == .cpt then s
    else
      let need := c.todo.filter (fun l => p.accs.any (fun a => c.base + a.key / 128 == l))
      let rd := fun (b : Tab Byte) (l : Nat) => b.setBytes ((l - c.base) * 128) 128 (w.scratch.bytes (l * 128) 128)
      let c' := { c with buf := need.foldl rd c.buf, todo := c.todo.filter (fun l => !need.contains l) }
      s.updFlight id (fun f => { f with job := .copy c' })
  | _, _ => s

/-- The accesses of a copy out of a tile, with the tile bytes they carry; any other job's accesses as they are. -/
def Flight.load (f : Flight) (p : Part) : Part :=
  match f.job with
  | .copy c => if c.kind == .cpt then p else { p with accs := p.accs.map (fun a => { a with data := c.buf.bytes a.key a.size }) }
  | _ => p

/-- Is an earlier multicast of the context still to deliver a line to a core (R294)? -/
def State.sendBusy (s : State) (id : Nat) (f : Flight) (core line : Nat) : Bool :=
  s.flights.any (fun e => e.1 < id && e.2.uid == f.uid && e.2.party == f.party &&
    match e.2.job with
    | .copy c => c.kind == .cpmc && (Tab.find c.gens core).isSome && c.base ≤ line && line < c.base + c.nl && !c.wrote.contains (core, line)
    | _ => false)

/-- Must a copy's tile line still wait for an earlier copy of its context, which reads or writes it (R294)? -/
def State.lineBusy (s : State) (id : Nat) (f : Flight) (line : Nat) : Bool :=
  s.flights.any (fun e => e.1 < id && e.2.uid == f.uid && e.2.party == f.party &&
    match e.2.job with
    | .copy c => c.todo.contains line
    | _ => false) || s.sendBusy id f (coreOf f.party.wg) line

/-- Must a line access cross to its home slice before it is performed? -/
def State.crosses (s : State) (f : Flight) (p : Part) : Bool := p.place == .dev && (s.targetSlice f p).isSome

/-- Has what crossed a bridge before an STO or a release been accepted there and performed (17_fabric R330)? A held entry does not
keep what follows it (log entry 27). -/
def State.bridgeMet (s : State) (f : Flight) (p : Part) : Bool :=
  p.carried.all (fun n =>
    n ≤ Tab.get 0 s.fab.brcv (bridgeKey f.die ((p.home.getD 0) / 48) f.tenant) &&
      !s.flights.any (fun e => e.2.die == f.die && e.2.tenant == f.tenant && e.2.parts.any (fun t =>
        t.2.under && t.2.home.map (· / 48) == p.home.map (· / 48) && t.2.xord.any (· < n))))

/-- Is the workgroup of an operation saved, and not ending? Its operations that have not left then wait for its return (R120), but
for the completion words of base dies (09_routes R220). -/
def State.isSaved (s : State) (uid : Nat) : Bool :=
  s.sched.saved.any (fun u => u.ended.isNone && u.wgs.any (fun v => v.wg.uid == uid))

/-- Why a copy's line access cannot be made at all: a copy is looked up at every level after it has entered Q0 (14_copy
R275, R290, 17_fabric R339). -/
def State.copyRefusal (s : State) (f : Flight) (p : Part) : Option Refuse :=
  match f.job with
  | .copy _ =>
    if hostBad p.route then some ⟨cHOST_XLATE, 5, 0⟩
    else if p.place == .host && f.job.kind == .atomic then some ⟨cATOMIC_PATH, 5, 0⟩
    else
      match s.level0 f.tenant f.job.kind none p.route with
      | .error r => some r
      | .ok _ => none
  | _ => none

/-- Line accesses `ms` are performed: each gets its share of the accesses, which stand in the order of `owners`. -/
def State.share (s : State) (ms owners : List (Nat × Nat)) (as : List Access) : State :=
  let mine := fun (m : Nat × Nat) => (owners.zip as).filterMap (fun e => if e.1 == m then some e.2 else none)
  ms.foldl (fun s m => s.updPart m.1 m.2 (fun t => { t with accs := mine m, st := .performed })) s

/-- The location of a pool cell's line. -/
def State.cellLoc (s : State) (tenant stack c : Nat) : Loc :=
  let sl := (s.pool tenant stack).getD 0 + bits c 25 24
  let g := s.region stack sl
  s.locate tenant stack sl (bits c 23 14) (c % 2 ^ 14 * 128) (cellNo c) (s.extent stack (rgXbase g + bits c 23 14)) g true

/-- The write of an STN is performed at its cell's home (13_hamper R264). It meets no check there: the cell was eligible when it was
taken (R265), and where its pool is gone since, nothing is written (log entry 77). -/
def State.performCell (s : State) (id j : Nat) (f : Flight) (p : Part) : State :=
  let done := s.updPart id j (fun t => { t with st := .performed })
  let stack := stackOfDomain (s.domain f.tenant (dlOf p.route))
  match s.pool f.tenant stack, p.accs with
  | some _, a :: _ => done.writeLine (s.cellLoc f.tenant stack (cellOf p.route)) 0 [{ a with addr := 0 }]
  | _, _ => done

/-- The parts of a line access are refused together. -/
def State.refuseAll (s : State) (ms : List (Nat × Nat)) (r : Refuse) : State :=
  ms.foldl (fun s m => match s.part? m.1 m.2 with
    | some (g, q) => s.refused m.1 m.2 g q r
    | none => s) s

/-- A line access is performed at its home on this module, whole: the parts of the quads of a gang together (R229, R232). An
acquire takes up the clock of what it reads (R237, R238). `xs` holds its accesses, each with its part. -/
def State.performHome (s : State) (ms : List (Nat × Nat)) (f : Flight) (xs : List ((Nat × Nat) × Access)) : State :=
  let st := s.stampOf f
  match s.orderedAccess f.tenant f.job.kind f.job.aop (xs.map (·.2)) st (f.job.acq.bind (s.instanceOf f.tenant f.die)) with
  | .error r => s.refuseAll ms r
  | .ok (t, bs, clock) =>
    ms.foldl (fun s m => s.settleStore m.1) (((t.stampedBy f st).acquired f.tenant f.die clock).share ms (xs.map (·.1)) bs)

/-- May every part of a line access be performed now? A release also waits for those that causally precede it (R238). -/
def State.mayAll (s : State) (ms : List (Nat × Nat)) : Bool :=
  ms.all (fun m => match s.part? m.1 m.2 with
    | some (f, p) => s.mayPerform m.1 f p && (p.place != .dev || (s.stampOf f).all (fun t => s.causal f.tenant t.vc))
    | none => false)

/-- What a lane access of an atomic would be refused for at its home. -/
def State.homeRefusal (s : State) (f : Flight) (p : Part) : Option Refuse :=
  if p.place != .dev then none
  else
    match s.lineAccess f.tenant f.job.kind f.job.aop p.accs with
    | .error r => some r
    | .ok _ => none

/-- An atomic of a workgroup that is halted already, none of whose lanes has been performed: when a level would refuse one of its
lanes, it takes effect in no lane (R110). -/
def State.spoils (s : State) (f : Flight) : Bool :=
  f.job.kind == .atomic && (s.resident f.uid).any (fun e => !e.2.takesFault f.party.no f.sup) &&
    f.parts.all (fun t => t.2.st == .flying || t.2.under) && f.parts.any (fun t => (s.homeRefusal f t.2).isSome)

/-- Its lanes are refused, or come to nothing. -/
def State.spoiled (s : State) (id : Nat) (f : Flight) : State :=
  f.parts.foldl (fun s t => match s.homeRefusal f t.2 with
    | some r => s.refused id t.1 f t.2 r
    | none => s.updPart id t.1 (fun q => { q with accs := [], st := .performed, back := true })) s

/-- The line of a stack that a route reaches now. -/
def State.lineReached (s : State) (f : Flight) (r : W64) : Option Nat := ((s.lookup f.tenant f.job.kind r).toOption).map (fun l => l.key / 128)

/-- The other line accesses of a store or atomic, by other routes, that reach the line of one of its line accesses (R226): each as its
parts, of those that have not been performed. -/
def State.twins (s : State) (f : Flight) (p : Part) : List (List (Nat × Nat)) :=
  if p.place != .dev || !(f.job.kind == .store || f.job.kind == .atomic) || f.queue == 0 then []
  else
    match s.lineReached f p.route with
    | none => []
    | some n =>
      let hit := (s.flights.map (fun e => if e.2.uid == f.uid && e.2.die == f.die then
          (e.2.parts.filter (fun t => t.2.joint.1 == p.joint.1 && t.2.joint.2 != p.joint.2 && t.2.place == .dev &&
            (t.2.st == .flying || t.2.under) && s.lineReached e.2 t.2.route == some n)).map (fun t => s.membersOf e.2 t.2)
        else [])).flatten
      hit.eraseDups

/-- May the parts of a line access be performed together with a lane of another route: have they arrived, and waits none? -/
def State.partsThere (s : State) (ms : List (Nat × Nat)) : Bool :=
  s.mayAll ms && ms.all (fun m => (s.part? m.1 m.2).any (fun e => e.2.st == .arrived && s.bridgeMet e.1 e.2))

/-- Line accesses of one instruction that reach one line are performed lane by lane, after those that a level refuses (R226). -/
def State.performTwins (s : State) (gs : List (List (Nat × Nat))) (f : Flight) : State :=
  let refusal := fun (ms : List (Nat × Nat)) => match s.lineAccess f.tenant f.job.kind f.job.aop (s.accsOf ms) with
    | .error r => some r
    | .ok _ => none
  let t := gs.foldl (fun t ms => match refusal ms with
    | some r => t.refuseAll ms r
    | none => t) s
  let go := (gs.filter (fun ms => (refusal ms).isNone)).flatten
  if go.isEmpty then t else t.performHome go f (s.laneAccs go)

/-- A line access is performed: at a home of this module, in a scratchpad, or on its way to another module or the host. An entry that
joins a held one is held, whatever becomes of the rest of its gang's line access (R105). -/
def State.perform (s : State) (id j : Nat) : State :=
  match s.part? id j with
  | none => s
  | some (f, p) =>
    let busy := match f.job with
      | .copy c => c.kind != .cpt && p.accs.any (fun a => s.lineBusy id f (c.base + a.key / 128))
      | _ => false
    let ms := s.membersOf f p
    let here := if s.crosses f p then p.st == .arrived && s.bridgeMet f p else p.st == .flying || p.st == .arrived
    let held := ms.filter (fun m => (s.part? m.1 m.2).any (fun e => s.joinsHeld m.1 e.1 e.2))
    let tw := (s.twins f p).filter (fun g => !g.any (fun m => (s.part? m.1 m.2).any (fun e => s.joinsHeld m.1 e.1 e.2)))
    if !here || busy || (s.isSaved f.uid && f.job != .word && !p.crossed f.die) || !s.mayAll ms then s
    else if !held.isEmpty then s.updParts held (fun t => { t with st := .held })
    else if s.spoils f then s.spoiled id f
    else if !tw.all s.partsThere then s
    else
      let s1 := s.fillFrom id f p
      let f1 := (s1.flights.find id).getD f
      let q := f1.load p
      match s.copyRefusal f p with
      | some r => s.refused id j f p r
      | none =>
        let xs := match f.job with
          | .copy _ => q.accs.map (fun a => ((id, j), a))
          | _ => s.laneAccs ms
        match p.place with
        | .scratch m => s1.performScratch id j m f1 q
        | .priv => s1
        | .host => s1.performHost id j f1 q
        | .remote => s1.egress ms id j f1 q (xs.map (·.2))
        | .dev =>
          if f.job.ofCell then s1.performCell id j f1 q
          else if tw.isEmpty then s1.performHome ms f1 xs else s1.performTwins (ms :: tw) f1

/-- A held store goes to its home again: across a bridge it is counted again (17_fabric R330). -/
def State.resent (s : State) (id j : Nat) : State :=
  match s.part? id j with
  | none => s
  | some (f, p) =>
    match s.homeSlice f.tenant p.route with
    | some h =>
      if h / 48 == f.die then s.updPart id j (fun t => { t with st := .arrived, home := some h, carried := none, xord := none })
      else s.overBridge f h false [(id, j)] .arrived
    | none => s.updPart id j (fun t => { t with st := .arrived, home := none, carried := none, xord := none })

/-- The held stores of a quad are looked up again in their original order, at every level (R105, R222). -/
def State.replayHeld (s : State) (uid : Nat) (p : Party) : State :=
  let s := s.absorb uid p
  let held := ((s.opsOf uid p).map (fun e => (e.2.parts.filter (fun t => t.2.st == .held)).map (fun t => (e.1, t.1)))).flatten
  let t := held.foldl (fun s h => s.resent h.1 h.2) s
  held.foldl (fun s h => s.perform h.1 h.2) t

/-- Has the context of an operation ended (17_fabric R334)? A batch of lane copies goes on without its workgroup (log entry 24). -/
def State.gone (s : State) (f : Flight) : Bool :=
  let batch := match f.job with
    | .cpl _ _ => f.uid != 0
    | _ => false
  !batch && (s.resident f.uid).isNone && !s.sched.saved.any (fun u => u.wgs.any (fun v => v.wg.uid == f.uid))

/-- Removes a line access that has been acknowledged, and the operation with its last one. -/
def State.dropPart (s : State) (id j : Nat) : State :=
  let t := s.updFlight id (fun f => { f with parts := f.parts.del j })
  match t.flights.find id with
  | some f => if f.parts.isEmpty then t.retire id else t
  | none => t

/-- A counted line access leaves its quad's counter (R232). -/
def Quad.uncount (q : Quad) (onDie : Bool) : Quad :=
  if onDie then { q with uad := q.uad - 1 } else { q with uap := q.uap - 1 }

/-- Subtracts one from a count of the acknowledgement line of a saved context, at the line's home, under the tenant (R121). -/
def State.ackSaved (s : State) (tenant : Nat) (r : W64) : Option State :=
  match s.lineAccess tenant .load .xchg [⟨0, r, 2, 0, 0, 0⟩] with
  | .ok (_, a :: _) => ((s.lineAccess tenant .store .xchg [⟨0, r, 2, (a.got + 2 ^ 16 - 1) % 2 ^ 16, 0, 0⟩]).toOption).map (·.1)
  | _ => none

/-- The routes of the counts that an acknowledgement drops in a saved context's record: UAD or UAP with the last of an access,
and the path counts, 2 bytes each (Table 5-5). -/
def ackRoutes (r : W64) (q : Nat) (onDie : Bool) (slots : List Nat) (last : Bool) : List W64 :=
  let at' := fun (n : Nat) => r + BitVec.ofNat 64 (0x100 + 16 * q + 2 * n)
  (if last then [at' (if onDie then 0 else 1)] else []) ++ slots.map (fun c => at' (2 + c % 4))

/-- A counted line access is acknowledged (R232, R121): the counters drop, of the resident quad or of its record. `slots`
are the paths answered. -/
def State.uncountPart (s : State) (f : Flight) (onDie : Bool) (slots : List Nat) (last : Bool) : State :=
  let own := s.updOwner f (fun q =>
    let q1 := if last then q.uncount onDie else q
    { q1 with path := slots.foldl (fun t c => Tab.set 0 t (c % 4) (Tab.get 0 t (c % 4) - 1)) q1.path })
  match s.resident f.uid with
  | some _ => own
  | none =>
    match ((s.sched.saved.map (fun u => u.wgs)).flatten.find? (fun v => v.wg.uid == f.uid)).bind (·.record) with
    | none => own
    | some r => ((ackRoutes r f.party.no onDie slots last).foldlM (fun (t : State) a => t.ackSaved f.tenant a) s).getD own

/-- The held stores of a quad are discarded, and UAD drops for each (R105, R113). -/
def State.discardHeld (s : State) (uid : Nat) (p : Party) : State :=
  let s := s.absorb uid p
  let held := ((s.opsOf uid p).map (fun e => (e.2.parts.filter (fun t => t.2.st == .held)).map (fun t => (e.1, t.1, e.2, t.2.onDie)))).flatten
  held.foldl (fun s h => (s.uncountPart h.2.2.1 h.2.2.2 [] true).dropPart h.1 h.2.1) s

/-! ### Results -/

/-- Writes a loaded value to the physical registers from `dst` up of a lane. -/
def Quad.deliver (q : Quad) (dst size lane val : Nat) : Quad :=
  { q with regs := (List.range size).foldl (fun r i => Tab.set 0 r (lane * 256 + (dst + i) % 256) (BitVec.ofNat 32 (val / 2 ^ (32 * i)))) q.regs }

/-- The value a load of `bytes` bytes writes (Table 10-2). -/
def extend (bytes : Nat) (sext : Bool) (v : Nat) : Nat := if sext then wrap 32 (signed (8 * bytes) v) else v

/-- The values an operation's lanes have read. -/
def Flight.values (f : Flight) : List (Nat × Nat) :=
  let ext := fun (v : Nat) => match f.job with
    | .load b sx _ => extend b sx v
    | _ => v
  (f.parts.map (fun e => e.2.accs.map (fun a => (a.key, ext a.got)))).flatten

/-- Changes the words and the wait of a party. -/
def State.updGot (s : State) (p : Party) (got : List (W64 × Word) → List (W64 × Word)) (await : Option Await) : State :=
  match p with
  | .quad k q => s.updQuad k q (fun x => { x with got := got x.got, await := await })
  | .mtx k => s.updWg k (fun w => { w with mtx := { w.mtx with seq := { w.mtx.seq with got := got w.mtx.seq.got, await := await } } })
  | .cpy k => s.updWg k (fun w => { w with cpy := { w.cpy with seq := { w.cpy.seq with got := got w.cpy.seq.got, await := await } } })

/-- The wait that a party stands in. -/
def Wg.waitOf (w : Wg) (p : Party) : Option Await :=
  match p with
  | .quad _ q => (w.quads.find q).bind (·.await)
  | .mtx _ => w.mtx.seq.await
  | .cpy _ => w.cpy.seq.await

/-- The place of a party. -/
def Wg.placeOf (w : Wg) (p : Party) : Option Cl :=
  match p with
  | .quad _ q => (w.quads.find q).map (·.cl)
  | .mtx _ => some w.mtx.seq.cl
  | .cpy _ => some w.cpy.seq.cl

/-- Does the party wait for the words that operation `id` reads? -/
def Wg.awaits (w : Wg) (p : Party) (id : Nat) : Bool := (w.waitOf p).any (fun a => a.what == .words id)

/-- The words that an access has read, by address. -/
def wordsOf (f : Flight) : List (W64 × Word) :=
  (f.parts.map (fun e => e.2.accs.map (fun a =>
    (List.range (a.size / 4)).map (fun i => (a.addr + BitVec.ofNat 64 (4 * i), BitVec.ofNat 32 (a.got / 2 ^ (32 * i))))))).flatten.flatten

/-- A load's or an atomic's values arrive: its destination is written in the lanes that did not fault, its window closes,
and the faults of the others are raised (R66, R104, R389). In a workgroup that is halted already a load with a faulting
lane keeps no effect at all, and is executed again; so is an atomic no lane of which has been performed (R110). -/
def State.loadReturn (s : State) (id : Nat) : State :=
  match s.flights.find id with
  | none => s
  | some f =>
    match f.job, s.resident f.uid with
    | .load _ _ _, some (_, w) | .atomic _ _ _, some (_, w) =>
      if !f.done || !f.back then s
      else
        let put := fun (q : Quad) => (f.values.foldl (fun q v => q.deliver f.dst f.size v.1 v.2) q).close id
        match lowestFault f.faults with
        | none => (s.updOwner f put).retire id
        | some i =>
          let whole := !w.takesFault f.party.no f.sup && (f.job.kind == .load || f.values.isEmpty)
          if w.halt.any (fun h => h.op == some id) then ((s.updOwner f put).retire id).joinFault f i
          else if whole then ((s.updOwner f (·.close id)).retire id).redone f ⟨f.pos, f.lanes, id, false⟩
          else ((s.updOwner f put).retire id).lateFault id f i
    | .words k, some (n, w) =>
      if !f.done || !f.back then s
      else if !w.awaits f.party id then s.retire id
      else
        match lowestFault f.faults with
        | none => (s.retire id).updGot f.party (· ++ wordsOf f) none
        | some i =>
          let info := { i with lanes := f.lanes, fetch := k == .fetch }
          let cl := (w.placeOf f.party).getD f.pos
          ((s.retire id).updGot f.party (fun g => g) none).raise n f.party.no info cl f.sup false
    | .kld k, some _ =>
      if !f.done || !f.back then s
      else
        let v := (f.values.headD (0, 0)).2
        let set := fun (q : Seq) => { q.setReg k (BitVec.ofNat 64 v) with cl := q.cl.next 1, await := none }
        match f.party with
        | .mtx _ => (s.updUid f.uid (fun w => { w with mtx := { w.mtx with seq := set w.mtx.seq } })).retire id
        | .cpy _ => (s.updUid f.uid (fun w => { w with cpy := { w.cpy with seq := set w.cpy.seq } })).retire id
        | .quad _ _ => s
    | _, _ => s

/-- The ordering point's acknowledgement of a local line access that has been performed (R232). -/
def State.acknowledge (s : State) (id j : Nat) : State :=
  match s.flights.find id with
  | none => s
  | some f =>
    match f.parts.find j with
    | none => s
    | some p =>
      if p.st != .performed || (p.place == .dev && !p.back) || !(f.job.counted || f.job == .kst) || !f.faults.isEmpty then s
      else
        let t := if f.job.counted then s.uncountPart f p.onDie [] true else s
        t.dropPart id j

/-- Does a quad stand in the wait of this WAITV? -/
def Quad.standsIn (q : Quad) (id : Nat) : Bool :=
  q.await.any (fun a => match a.what with
    | .waitv op _ _ _ => op == id
    | _ => false)

/-- A WAITV reads its route again: each read is checked at level 0 as the first was, and faults as LD32 does (R251). -/
def State.waitvAgain (s : State) (id : Nat) (f : Flight) : State :=
  match f.parts, s.resident f.uid with
  | (_, p) :: _, some (k, w) =>
    match s.level0 f.tenant .load none p.route with
    | .error r =>
      let ls := ((w.quads.find f.party.no).map (·.mask)).getD f.lanes
      ((s.updOwner f (fun q => { q with await := none })).retire id).raise k f.party.no
        ⟨r.cause, r.level, 0, r.label, p.route, ls, f.pos.pc, false⟩ f.pos f.sup false
    | .ok _ => s.updFlight id (fun f => { f with parts := [(0, { s.partOf f.tenant f.die (p.accs.headD Access.none) with joint := p.joint })] })
  | _, _ => s

/-- A WAITV's read returns: it ends the wait, or is made again. In a halted workgroup, or when the quad does not stand in
that wait any more, it has no effect: the instruction is executed again from its start (R251, R109). -/
def State.waitvReturn (s : State) (id : Nat) : State :=
  match s.flights.find id with
  | none => s
  | some f =>
    match f.job, s.resident f.uid with
    | .waitv cc cmp, some (_, w) =>
      if !f.done || !f.back then s
      else if !w.goesOn f.party.no || !(w.quads.find f.party.no).any (fun q => q.standsIn id) then s.retire id
      else
        match lowestFault f.faults with
        | some i => ((s.updOwner f (fun q => { q with await := none })).retire id).lateFault id f i
        | none =>
          if ccHolds cc (BitVec.ofNat 32 (f.values.headD (0, 0)).2) cmp then (s.updOwner f (fun q => q.advance 1)).retire id
          else s.waitvAgain id f
    | _, _ => s

/-- An STN's name is written to its pair in the lanes that were active at its issue, once its write is performed and answered and the
quad's earlier Q3 operations are performed (R20, R264). -/
def State.nameWrite (s : State) (id : Nat) : State :=
  match s.flights.find id with
  | none => s
  | some f =>
    match f.job with
    | .stn name =>
      if !f.done || !f.back || (s.unperformed f.uid f.party 8 f.sup).any (fun n => n < id) then s
      else (s.updOwner f (fun q => ((lanesOf f.lanes).foldl (fun q l => q.deliver f.dst 2 l name) q).close id)).retire id
    | _ => s

end Machine
end Sys2Proof
end

