-- ==== Sys2Proof/Machine/Uses.lean ====
section
/-!
DEFINITION. Which registers and accumulators an instruction names, for the lookahead windows (03_encoding R66 to R68).
-/
namespace Sys2Proof

/-- The registers `n` to `n + c - 1`. -/
def span (n c : Nat) : List Nat := (List.range c).map (fun i => n + i)

/-- The registers of a source field. -/
def ofSrc (b : Src) (c : Nat) : List Nat :=
  match b with
  | .reg n => span n.toNat c
  | .lit _ => []

/-- Is the CSR 64 bits wide (Tables 4-2, 5-2, 8-7)? -/
def csrWide (id : Nat) : Bool := [0x009, 0x00B, 0x00C, 0x011, 0x800, 0x804, 0x805, 0x80A].contains id

/-- The registers that a CSR fills. -/
def csrSize (id : Nat) : Nat := if csrWide id then 2 else 1

/-- The window registers that an instruction reads or writes, in any lane (R67). -/
def Instr.uses : Instr → List Nat
  | .iadd a => span a.d.toNat 1 ++ span a.a.toNat 1 ++ ofSrc a.b 1
  | .isub a => span a.d.toNat 1 ++ span a.a.toNat 1 ++ ofSrc a.b 1
  | .imul a => span a.d.toNat 1 ++ span a.a.toNat 1 ++ ofSrc a.b 1
  | .imulh a => span a.d.toNat 1 ++ span a.a.toNat 1 ++ ofSrc a.b 1
  | .imulhu a => span a.d.toNat 1 ++ span a.a.toNat 1 ++ ofSrc a.b 1
  | .imad a => span a.d.toNat 1 ++ span a.a.toNat 1 ++ ofSrc a.b 1
  | .idp4 a => span a.d.toNat 1 ++ span a.a.toNat 1 ++ ofSrc a.b 1
  | .idp4u a => span a.d.toNat 1 ++ span a.a.toNat 1 ++ ofSrc a.b 1
  | .iand a => span a.d.toNat 1 ++ span a.a.toNat 1 ++ ofSrc a.b 1
  | .ior a => span a.d.toNat 1 ++ span a.a.toNat 1 ++ ofSrc a.b 1
  | .ixor a => span a.d.toNat 1 ++ span a.a.toNat 1 ++ ofSrc a.b 1
  | .andn a => span a.d.toNat 1 ++ span a.a.toNat 1 ++ ofSrc a.b 1
  | .shl a => span a.d.toNat 1 ++ span a.a.toNat 1 ++ ofSrc a.b 1
  | .shr a => span a.d.toNat 1 ++ span a.a.toNat 1 ++ ofSrc a.b 1
  | .sar a => span a.d.toNat 1 ++ span a.a.toNat 1 ++ ofSrc a.b 1
  | .imin a => span a.d.toNat 1 ++ span a.a.toNat 1 ++ ofSrc a.b 1
  | .imax a => span a.d.toNat 1 ++ span a.a.toNat 1 ++ ofSrc a.b 1
  | .umin a => span a.d.toNat 1 ++ span a.a.toNat 1 ++ ofSrc a.b 1
  | .umax a => span a.d.toNat 1 ++ span a.a.toNat 1 ++ ofSrc a.b 1
  | .popc a => span a.d.toNat 1 ++ span a.a.toNat 1
  | .clz a => span a.d.toNat 1 ++ span a.a.toNat 1
  | .brev a => span a.d.toNat 1 ++ span a.a.toNat 1
  | .bfx a => span a.d.toNat 1 ++ span a.a.toNat 1 ++ ofSrc a.b 1
  | .bfi a => span a.d.toNat 1 ++ span a.a.toNat 1 ++ ofSrc a.b 1
  | .sel a => span a.d.toNat 1 ++ span a.a.toNat 1 ++ ofSrc a.b 1
  | .mov a => span a.d.toNat 1 ++ ofSrc a.b 1
  | .add64 a => span a.d.toNat 2 ++ span a.a.toNat 2 ++ ofSrc a.b 2
  | .sub64 a => span a.d.toNat 2 ++ span a.a.toNat 2 ++ ofSrc a.b 2
  | .madw a => span a.d.toNat 2 ++ span a.a.toNat 1 ++ ofSrc a.b 1
  | .shl64 a => span a.d.toNat 2 ++ span a.a.toNat 2 ++ ofSrc a.b 1
  | .shr64 a => span a.d.toNat 2 ++ span a.a.toNat 2 ++ ofSrc a.b 1
  | .iaddi a => span a.d.toNat 1 ++ span a.a.toNat 1
  | .andi a => span a.d.toNat 1 ++ span a.a.toNat 1
  | .ori a => span a.d.toNat 1 ++ span a.a.toNat 1
  | .xori a => span a.d.toNat 1 ++ span a.a.toNat 1
  | .shli a => span a.d.toNat 1 ++ span a.a.toNat 1
  | .shri a => span a.d.toNat 1 ++ span a.a.toNat 1
  | .sari a => span a.d.toNat 1 ++ span a.a.toNat 1
  | .add64i a => span a.d.toNat 2 ++ span a.a.toNat 2
  | .movi a => span a.d.toNat 1
  | .icmp a => span a.a.toNat 1 ++ ofSrc a.b 1
  | .icmp64 a => span a.a.toNat 2 ++ ofSrc a.b 2
  | .fcmp a => span a.a.toNat 1 ++ ofSrc a.b 1
  | .pand _ => []
  | .por _ => []
  | .pxor _ => []
  | .pnot _ => []
  | .ptov a => span a.d.toNat 1
  | .vtop a => span a.a.toNat 1
  | .shfq a => span a.d.toNat 1 ++ span a.a.toNat 1 ++ ofSrc a.b 1
  | .shfg a => span a.d.toNat 1 ++ span a.a.toNat 1 ++ ofSrc a.b 1
  | .vote a => span a.d.toNat 1 ++ span a.a.toNat 1
  | .fadd a => span a.d.toNat 1 ++ span a.a.toNat 1 ++ ofSrc a.b 1
  | .fsub a => span a.d.toNat 1 ++ span a.a.toNat 1 ++ ofSrc a.b 1
  | .fmul a => span a.d.toNat 1 ++ span a.a.toNat 1 ++ ofSrc a.b 1
  | .ffma a => span a.d.toNat 1 ++ span a.a.toNat 1 ++ ofSrc a.b 1
  | .fmin a => span a.d.toNat 1 ++ span a.a.toNat 1 ++ ofSrc a.b 1
  | .fmax a => span a.d.toNat 1 ++ span a.a.toNat 1 ++ ofSrc a.b 1
  | .fabs a => span a.d.toNat 1 ++ span a.a.toNat 1
  | .fneg a => span a.d.toNat 1 ++ span a.a.toNat 1
  | .frcp a => span a.d.toNat 1 ++ span a.a.toNat 1
  | .frsq a => span a.d.toNat 1 ++ span a.a.toNat 1
  | .fsqrt a => span a.d.toNat 1 ++ span a.a.toNat 1
  | .fexp2 a => span a.d.toNat 1 ++ span a.a.toNat 1
  | .flog2 a => span a.d.toNat 1 ++ span a.a.toNat 1
  | .ftanh a => span a.d.toNat 1 ++ span a.a.toNat 1
  | .fscale a => span a.d.toNat 1 ++ span a.a.toNat 1 ++ ofSrc a.b 1
  | .frnd a => span a.d.toNat 1 ++ span a.a.toNat 1
  | .hadd2 a => span a.d.toNat 1 ++ span a.a.toNat 1 ++ ofSrc a.b 1
  | .hmul2 a => span a.d.toNat 1 ++ span a.a.toNat 1 ++ ofSrc a.b 1
  | .hfma2 a => span a.d.toNat 1 ++ span a.a.toNat 1 ++ ofSrc a.b 1
  | .badd2 a => span a.d.toNat 1 ++ span a.a.toNat 1 ++ ofSrc a.b 1
  | .bmul2 a => span a.d.toNat 1 ++ span a.a.toNat 1 ++ ofSrc a.b 1
  | .bfma2 a => span a.d.toNat 1 ++ span a.a.toNat 1 ++ ofSrc a.b 1
  | .cvt a => span a.d.toNat 1 ++ span a.a.toNat 1
  | .packb2 a => span a.d.toNat 1 ++ span a.a.toNat 1 ++ ofSrc a.b 1
  | .packh2 a => span a.d.toNat 1 ++ span a.a.toNat 1 ++ ofSrc a.b 1
  | .unpkb2 a => span a.d.toNat 2 ++ span a.a.toNat 1
  | .unpkh2 a => span a.d.toNat 2 ++ span a.a.toNat 1
  | .pk4e4m3 a => span a.d.toNat 1 ++ span a.a.toNat 4
  | .pk4e5m2 a => span a.d.toNat 1 ++ span a.a.toNat 4
  | .pk8e2m1 a => span a.d.toNat 1 ++ span a.a.toNat 8
  | .pk16e2m3 a => span a.d.toNat 3 ++ span a.a.toNat 16
  | .pk16e3m2 a => span a.d.toNat 3 ++ span a.a.toNat 16
  | .upk4e4m3 a => span a.d.toNat 4 ++ span a.a.toNat 1
  | .upk4e5m2 a => span a.d.toNat 4 ++ span a.a.toNat 1
  | .upk8e2m1 a => span a.d.toNat 8 ++ span a.a.toNat 1
  | .upk16e2m3 a => span a.d.toNat 16 ++ span a.a.toNat 3
  | .upk16e3m2 a => span a.d.toNat 16 ++ span a.a.toNat 3
  | .vqdec a => span a.d.toNat 4 ++ span a.a.toNat 1
  | .addm64 a => span a.d.toNat 2 ++ span a.a.toNat 2 ++ ofSrc a.b 2
  | .subm64 a => span a.d.toNat 2 ++ span a.a.toNat 2 ++ ofSrc a.b 2
  | .mulm64 a => span a.d.toNat 2 ++ span a.a.toNat 2 ++ ofSrc a.b 2
  | .nttbf a => span a.d.toNat 2 ++ span a.a.toNat 2 ++ ofSrc a.b 2
  | .ld8 a => span a.d.toNat 1 ++ span a.a.toNat 2
  | .ld8s a => span a.d.toNat 1 ++ span a.a.toNat 2
  | .ld16 a => span a.d.toNat 1 ++ span a.a.toNat 2
  | .ld16s a => span a.d.toNat 1 ++ span a.a.toNat 2
  | .ld32 a => span a.d.toNat 1 ++ span a.a.toNat 2
  | .ld64 a => span a.d.toNat 2 ++ span a.a.toNat 2
  | .ld128 a => span a.d.toNat 4 ++ span a.a.toNat 2
  | .st8 a => span a.d.toNat 1 ++ span a.a.toNat 2
  | .st16 a => span a.d.toNat 1 ++ span a.a.toNat 2
  | .st32 a => span a.d.toNat 1 ++ span a.a.toNat 2
  | .st64 a => span a.d.toNat 2 ++ span a.a.toNat 2
  | .st128 a => span a.d.toNat 4 ++ span a.a.toNat 2
  | .sto a => span a.d.toNat 1 ++ span a.a.toNat 2
  | .ldaq a => span a.d.toNat 1 ++ span a.a.toNat 2
  | .strl a => span a.d.toNat 1 ++ span a.a.toNat 2
  | .axchg a => span a.d.toNat 1 ++ span a.a.toNat 2 ++ span a.b.toNat 1
  | .acas a => span a.d.toNat 1 ++ span a.a.toNat 2 ++ span a.b.toNat 1
  | .aadd a => span a.d.toNat 1 ++ span a.a.toNat 2 ++ span a.b.toNat 1
  | .amin a => span a.d.toNat 1 ++ span a.a.toNat 2 ++ span a.b.toNat 1
  | .amax a => span a.d.toNat 1 ++ span a.a.toNat 2 ++ span a.b.toNat 1
  | .aand a => span a.d.toNat 1 ++ span a.a.toNat 2 ++ span a.b.toNat 1
  | .aor a => span a.d.toNat 1 ++ span a.a.toNat 2 ++ span a.b.toNat 1
  | .axor a => span a.d.toNat 1 ++ span a.a.toNat 2 ++ span a.b.toNat 1
  | .afadd a => span a.d.toNat 1 ++ span a.a.toNat 2 ++ span a.b.toNat 1
  | .axchg64 a => span a.d.toNat 2 ++ span a.a.toNat 2 ++ span a.b.toNat 2
  | .acas64 a => span a.d.toNat 2 ++ span a.a.toNat 2 ++ span a.b.toNat 2
  | .aadd64 a => span a.d.toNat 2 ++ span a.a.toNat 2 ++ span a.b.toNat 2
  | .gld a => span a.d.toNat 1 ++ span a.a.toNat 2 ++ ofSrc a.b 1
  | .gst a => span a.d.toNat 1 ++ span a.a.toNat 2 ++ ofSrc a.b 1
  | .lds a => span a.d.toNat 1 ++ span a.a.toNat 1
  | .sts a => span a.d.toNat 1 ++ span a.a.toNat 1
  | .lds128 a => span a.d.toNat 4 ++ span a.a.toNat 1
  | .sts128 a => span a.d.toNat 4 ++ span a.a.toNat 1
  | .lset a => span a.a.toNat 1
  | .lclr a => span a.a.toNat 1
  | .ldp a => span a.d.toNat 1 ++ span a.a.toNat 1
  | .stp a => span a.d.toNat 1 ++ span a.a.toNat 1
  | .cpl4 a => span a.d.toNat 1 ++ span a.a.toNat 2
  | .cpl8 a => span a.d.toNat 1 ++ span a.a.toNat 2
  | .cpl16 a => span a.d.toNat 1 ++ span a.a.toNat 2
  | .stn a => span a.d.toNat 8 ++ span a.a.toNat 2
  | .rlq a => span a.a.toNat 2
  | .fence _ _ => []
  | .fencea _ _ => []
  | .waitv a c _ => span a.toNat 2 ++ span c.toNat 1
  | .hfree a => span a.d.toNat 2 ++ span a.a.toNat 1
  | .itout a => span a.a.toNat 2 ++ ofSrc a.b 1
  | .itdone a => ofSrc a.b 1
  | .br _ => []
  | .brd _ => []
  | .join _ => []
  | .jmpr a => span a.toNat 2
  | .call s _ => span (2 * s.toNat - 2) 2
  | .callr s a => span (2 * s.toNat - 2) 2 ++ span a.toNat 2
  | .ret => []
  | .regang _ => []
  | .bara _ => []
  | .barw _ => []
  | .bars _ => []
  | .cbars _ => []
  | .fork m c a => span m.toNat 2 ++ (if c.toNat = 63 then [] else span c.toNat 2) ++ span a.toNat 2
  | .rdv => []
  | .post c t q _ => span c.toNat 2 ++ (if t.toNat = 3 then span q.toNat 1 else [])
  | .exit => []
  | .qfence _ => []
  | .idemb _ => []
  | .ideme => []
  | .trap _ => []
  | .csrr a => span a.d.toNat (csrSize a.imm.toNat)
  | .csrw a => span a.a.toNat (csrSize a.imm.toNat)
  | .itld a => span a.d.toNat 1 ++ span a.a.toNat 2
  | .itgo a => span a.d.toNat 1
  | .itstop a => span a.d.toNat 1
  | .itstat a => span a.d.toNat 2 ++ span a.a.toNat 1
  | .nop => []
  | .yield => []
  | .rett _ => []
  | .scsrr a => span a.d.toNat (csrSize a.imm.toNat)
  | .scsrw a => span a.a.toNat (csrSize a.imm.toNat)
  | .rtset a => span a.d.toNat 1 ++ span a.a.toNat 2 ++ span a.b.toNat 1
  | .dmset a => span a.d.toNat 1 ++ span a.a.toNat 2 ++ span a.b.toNat 1
  | .rgset a => span a.d.toNat 1 ++ span a.a.toNat 2 ++ span a.b.toNat 1
  | .mapx a => span a.a.toNat 2 ++ span a.b.toNat 2
  | .unmapx a => span a.d.toNat 1 ++ span a.b.toNat 1
  | .migx a => span a.a.toNat 2 ++ span a.b.toNat 2
  | .preempt a => span a.d.toNat 1 ++ span a.a.toNat 1
  | .ctxsv a => span a.d.toNat 1 ++ span a.a.toNat 2
  | .ctxld a => span a.d.toNat 1 ++ span a.a.toNat 2
  | .kmov _ => []
  | .kadd _ => []
  | .ksub _ => []
  | .kmul _ => []
  | .kand _ => []
  | .kor _ => []
  | .kshl _ => []
  | .kshr _ => []
  | .kcmp _ => []
  | .kbr _ => []
  | .kld _ => []
  | .kst _ => []
  | .kbara _ => []
  | .kbarw _ => []
  | .kend _ => []
  | .tdef _ => []
  | .mma _ => []
  | .mmag _ => []
  | .mmam _ => []
  | .aclr _ => []
  | .acst _ => []
  | .acld _ => []
  | .sxld _ => []
  | .cbld _ => []
  | .lrdef _ => []
  | .cpt _ => []
  | .cpto _ => []
  | .cpr _ => []
  | .cpmc _ => []
  | .cpwt _ => []
  | .clauseHeaderIssue => []
  | .loadDataReturn _ => []
  | .storeAcknowledgement _ _ => []
  | .homeAccessPerform _ _ => []
  | .impreciseReportDelivery _ _ => []
  | .waitvReadReturn _ => []
  | .stnNameWrite _ => []
  | .exitComplete _ _ => []
  | .joinDecrement _ => []
  | .postRingSpace _ _ => []
  | .cardAdmission _ _ => []
  | .swapOutOnWait _ => []
  | .swapSlotRetest _ => []
  | .wakeTest _ => []
  | .handlerEntry _ => []
  | .terminationComplete _ => []
  | .watchdogExpiry _ => []
  | .hostPreemptRequest _ => []
  | .engineStopAck _ _ => []
  | .preemptionSave _ => []
  | .tileLineWrite _ _ => []
  | .copyPerformed _ => []
  | .multicastDelivery _ _ _ => []
  | .laneCopyBatchComplete _ => []
  | .matrixOpComplete _ => []
  | .mmagGatherEnd _ => []
  | .atsTranslationCompletion _ _ _ => []
  | .priPageResponse _ _ _ => []
  | .atsInvalidation _ _ _ _ => []
  | .tableChangeDrained _ _ => []
  | .mapxAtBaseDie _ _ => []
  | .migrationLineCopy _ _ => []
  | .migrationSwitch _ _ => []
  | .flitReceived _ _ => []
  | .linkDownAckTimeout _ => []
  | .linkReady _ => []
  | .fabricHop _ _ => []
  | .holdResend _ => []
  | .orderedPacketForward _ => []
  | .skipReceive _ _ _ _ => []
  | .remoteAnswerArrival _ _ _ _ => []
  | .remoteTimeoutExpiry _ _ => []
  | .peerLost _ _ _ => []
  | .swapTableLoad _ _ => []
  | .itineraryEntryStart => []
  | .itineraryEntryClosed _ => []
  | .seatFullNotice _ _ _ _ => []
  | .seatReturn _ _ => []
  | .q5OperationPerformed _ _ => []
  | .itstatWaitComplete _ _ => []
  | .hostItineraryResume => []
  | .hostItineraryClear => []
  | .hostLaunch _ _ _ _ => []
  | .hostRangeWrite _ _ _ _ => []
  | .setHypervisorTenant _ => []
  | .setSelfpl _ _ => []
  | .setGrants _ _ _ _ _ _ => []
  | .setFrameGrant _ _ _ => []
  | .setPoolLabel _ _ _ => []
  | .setTenantwt _ _ _ => []
  | .setFtimeout _ _ => []
  | .setAtomicWindow _ _ _ _ _ => []
  | .setQueueRing _ _ _ _ => []
  | .setErrorRing _ _ => []
  | .setPowerCap _ => []
  | .hostTlpArrival _ _ => []
  | .tdiStateChange _ _ => []
  | .keySet _ _ _ _ => []
  | .spdmMeasurementRequest _ _ => []
  | .lifeCycleChange _ => []
  | .deviceReset => []
  | .functionReady _ => []
  | .thermalLimit _ => []
  | .scrubRead _ _ _ => []
  | .scrubWriteBack _ => []
  | .rowActivationRefresh _ _ _ _ => []
  | .arithmeticClockTick _ => []
  | .crossbarCycle _ _ _ => []
  | .migxAtBaseDie _ _ => []
  | .acstLineWrite _ _ => []
  | .tileReadComplete _ => []
  | .hfreePerformed _ _ => []
  | .peerReturn _ _ _ => []
  | .setCausalGroups _ _ => []
  | .controlLoopAdjust _ _ => []
  | .readinessLost _ => []

/-- The accumulators that an instruction reads or writes (R67, R310). -/
def Instr.accs : Instr → List Nat
  | .mma x => [x.acc.toNat]
  | .mmag x => [x.acc.toNat]
  | .mmam x => [x.acc.toNat]
  | .aclr k => [k.kd.toNat % 8]
  | .acst k => [k.kd.toNat % 8]
  | .acld k => [k.kd.toNat % 8]
  | _ => []

/-- Does the instruction issue only when no destination is pending (R68)? -/
def Instr.closes : Instr → Bool
  | .rett _ => true
  | .scsrr _ => true
  | .scsrw _ => true
  | .rtset _ => true
  | .dmset _ => true
  | .rgset _ => true
  | .mapx _ => true
  | .unmapx _ => true
  | .migx _ => true
  | .preempt _ => true
  | .ctxsv _ => true
  | .ctxld _ => true
  | .itout _ => true
  | .itdone _ => true
  | .jmpr _ => true
  | .call _ _ => true
  | .callr _ _ => true
  | .ret => true
  | .exit => true
  | .idemb _ => true
  | .ideme => true
  | .trap _ => true
  | .kend _ => true
  | _ => false

/-- Does the instruction open a pending destination of R66? -/
def Instr.pends : Instr → Bool
  | .ld8 _ => true
  | .ld8s _ => true
  | .ld16 _ => true
  | .ld16s _ => true
  | .ld32 _ => true
  | .ld64 _ => true
  | .ld128 _ => true
  | .gld _ => true
  | .lds _ => true
  | .lds128 _ => true
  | .ldp _ => true
  | .stn _ => true
  | .mma _ => true
  | .mmag _ => true
  | .mmam _ => true
  | .acld _ => true
  | _ => false

end Sys2Proof
end

