-- ==== Sys2Proof/Machine/Meet.lean ====
section
/-!
DEFINITION. Where engines meet: numbered barriers (08_quad_control R181, 01_device R24) and tile states (14_copy R281 to
R283).
-/
namespace Sys2Proof
namespace Machine

/-- A numbered barrier. -/
def Wg.bar (w : Wg) (b : Nat) : Barrier := Tab.get ⟨0, []⟩ w.bars b

/-- The quads that the card expects at a barrier (R85). -/
def Wg.barQuads (w : Wg) (b : Nat) : Nat := w.barq.getD b 0

/-- Does the card expect the matrix or the copy sequencer at the barrier? -/
def Wg.barSeq (w : Wg) (b : Nat) (p : Nat) : Bool := if p == 64 then w.mseq.getLsbD b else w.cseq.getLsbD b

/-- All parties that a barrier expects. -/
def Wg.barExpects (w : Wg) (b : Nat) : Nat := w.barQuads b + (w.barSeq b 64).toNat + (w.barSeq b 65).toNat

/-- Has the party arrived in the present phase? -/
def Wg.flag (w : Wg) (b p : Nat) : Bool := (w.bar b).arrived.contains p

/-- A party arrives; the last expected one completes the phase (R181). -/
def Wg.arrive (w : Wg) (b p : Nat) : Wg :=
  let x := w.bar b
  let l := x.arrived ++ [p]
  { w with bars := Tab.set ⟨0, []⟩ w.bars b (if l.length = w.barExpects b then ⟨x.phase + 1, []⟩ else ⟨x.phase, l⟩) }

/-- The copy that an operation is. -/
def Flight.copy? (f : Flight) : Option Copy :=
  match f.job with
  | .copy c => some c
  | _ => none

/-- The copies in Q0 of a workgroup. -/
def State.copies (s : State) (uid : Nat) : List (Nat × Copy) :=
  s.flights.filterMap (fun e => if e.2.uid == uid then e.2.copy?.map (fun c => (e.1, c)) else none)

/-- The lines of a tile, absolute in the allocation. -/
def Tile.lines (t : Tile) : List Nat := (List.range t.nl).map (fun i => t.base + i)

/-- Table 14-2, STATE. -/
inductive TileState where
  | empty | filling | ready | draining
  deriving DecidableEq, Repr

/-- The state of a defined tile (R282). -/
def State.tileState (s : State) (w : Wg) (n : Nat) (t : Tile) : TileState :=
  let cs := (s.copies w.uid).filter (fun e => e.2.tile == n && !w.stopped (.copy e.2))
  if cs.any (fun e => e.2.kind == .cpt) then .filling
  else if cs.any (fun e => !e.2.todo.isEmpty) then .draining
  else if t.lines.all (fun l => w.full.has l) then .ready
  else .empty

/-- The tiles that a matrix operation in flight still reads (R283): the reading is at its completion. -/
def Job.tilesRead (j : Job) : List Nat :=
  match j with
  | .matmul m => if m.form == 1 then [m.x.tb.toNat] else [m.x.ta.toNat, m.x.tb.toNat]
  | .acld _ t _ _ _ => [t]
  | .sxld _ t _ => [t]
  | .cbld t _ => [t]
  | _ => []

/-- Does the matrix engine hold the tile: an operation in flight, or a gather (R283, R307)? -/
def State.heldByMatrix (s : State) (w : Wg) (n : Nat) : Bool :=
  s.flights.any (fun e => e.2.uid == w.uid && e.2.job.tilesRead.contains n) ||
    w.mtx.latch.isNone && w.mtx.gather.any (fun x => x.ta.toNat == n || x.ti.toNat == n)

/-- Does the copy engine hold the tile? -/
def State.heldByCopy (s : State) (w : Wg) (n : Nat) : Bool :=
  (s.copies w.uid).any (fun e => e.2.tile == n && e.2.kind != .cpt && !e.2.todo.isEmpty)

/-- An MMAG that has not issued is given up: its gather is discarded (15_matrix R315). -/
def Mtx.giveUp (m : Mtx) : Mtx :=
  if m.gather.isNone then m else { m with gather := none, latch := none, seq := { m.seq with await := none } }

/-- Clears the full bits of lines. -/
def Wg.clearFull (w : Wg) (ls : List Nat) : Wg := { w with full := ls.foldl (fun t l => t.del l) w.full }

end Machine
end Sys2Proof
end

