-- ==== Sys2Proof/Machine/Issue.lean ====
section
/-!
DEFINITION. Issue: fetching clause words, clause headers, the order of checks, lookahead, gangs and halts (03_encoding R45
to R51, R66 to R70, R387, 04_execution R76 to R78, 05_traps R109). `State.gate` says what a party's next issue is.
-/
namespace Sys2Proof
namespace Machine

/-! ### Fetching (R387) -/

/-- What a fetch answers: the word, a refusal, or that the word lies outside the module and has still to be asked for. -/
inductive Fetched where
  | word (w : Word)
  | refused (r : Refuse)
  | ask
  deriving DecidableEq, Repr

/-- Fetches a word of this module: what memory holds there now, whatever stores to the code have been made since the
workgroup's admission (R52, log entry 55). -/
def State.fetchLocal (s : State) (tenant : Nat) (a : W64) : Fetched :=
  match s.lookup tenant .fetch a with
  | .error r => .refused r
  | .ok l => if s.poisoned l.key then .refused (poisonOf l a) else .word (BitVec.ofNat 32 (s.peek l 4))

/-- Fetches the word at a route with right X (R387). A word of another module or of the host is among those in `got`, or has
to be asked for; level 0 and the host half's format are checked before that. -/
def State.fetch (s : State) (tenant : Nat) (got : List (W64 × Word)) (a : W64) : Fetched :=
  if hostBad a then .refused ⟨cHOST_XLATE, 5, 0⟩
  else if s.isLocal tenant a then s.fetchLocal tenant a
  else
    match got.find? (fun e => e.1 == a), s.level0 tenant .fetch none a with
    | some e, _ => .word e.2
    | none, .error r => .refused r
    | none, .ok _ => .ask

/-! ### Clause headers (R45, R46) -/

/-- COUNT. -/
def hCount (h : Word) : Nat := bits h.toNat 31 28
/-- CLASS. -/
def hClass (h : Word) : Nat := bits h.toNat 27 25
/-- WB. -/
def hWb (h : Word) : Bool := h.getLsbD 24
/-- BAR. -/
def hBar (h : Word) : Nat := bits h.toNat 23 20
/-- LDMAX. -/
def hLdmax (h : Word) : Nat := bits h.toNat 19 16
/-- STMAX. -/
def hStmax (h : Word) : Nat := bits h.toNat 15 12
/-- TW. -/
def hTw (h : Word) : Bool := h.getLsbD 11
/-- TILE. -/
def hTile (h : Word) : Nat := bits h.toNat 10 5

/-- The classes that a party runs (R46). -/
def Party.runs (p : Party) : List Nat :=
  match p with
  | .quad _ _ => [0, 1, 2, 3]
  | .mtx _ => [4]
  | .cpy _ => [5]

/-- Does the header pass every check of R46 but the supervisor test? -/
def headerOk (runs : List Nat) (h : Word) : Bool :=
  hCount h != 0 && hClass h < 6 && bits h.toNat 4 0 == 0 && (hWb h || hBar h == 0) && (hTw h || hTile h == 0) &&
    (!hTw h || 4 ≤ hClass h) && (hClass h < 4 || (hLdmax h == 15 && hStmax h == 15)) && runs.contains (hClass h)

/-- Number of a class. -/
def classNo (c : Class) : Nat :=
  match c with
  | .alu => 0
  | .mem => 1
  | .ctrl => 2
  | .sys => 3
  | .mtx => 4
  | .cpy => 5

/-- What a transfer of control finds at its target: the header it fetches there, no header of this party, a refused fetch, or
a word to be asked for (R50, R387). -/
inductive Target where
  | header (h : Word)
  | bad
  | refused (r : Refuse)
  | ask
  deriving DecidableEq, Repr

/-- The target of a transfer. -/
def State.targetAt (s : State) (tenant : Nat) (got : List (W64 × Word)) (runs : List Nat) (a : W64) : Target :=
  if a.toNat % 4 != 0 then .bad
  else
    match s.fetch tenant got a with
    | .word h => if headerOk runs h then .header h else .bad
    | .refused r => .refused r
    | .ask => .ask

/-! ### What the next issue is -/

/-- The next issue of a party: a wait, a fault, a word that has first to be asked for outside the module, at a place, a clause
header, an instruction with its length in words. -/
inductive Gate where
  | wait
  | fault (f : FaultInfo)
  | ask (a : W64) (at' : Cl)
  | header (h : Word)
  | run (i : Instr) (n : Nat)
  deriving DecidableEq, Repr

/-- A refused fetch (R387). -/
def refusedFetch (r : Refuse) (route tpc : W64) (ls : BitVec 4) : Gate :=
  .fault ⟨r.cause, r.level, 0, r.label, route, ls, tpc, true⟩

/-- The error of a decoding, if it is one. -/
def decErr (r : Except DecErr (Instr × Nat)) : Option DecErr :=
  match r with
  | .error e => some e
  | .ok _ => none

/-- The instruction words at a place inside a clause, checked in the order of R70 up to ILL_FIELD. -/
def State.words (s : State) (tenant : Nat) (got : List (W64 × Word)) (c : Cl) (ls : BitVec 4) : Gate :=
  let pc := c.pc
  match s.fetch tenant got pc with
  | .refused r => refusedFetch r pc pc ls
  | .ask => .ask pc c
  | .word w =>
    let bad := fun (cause : Nat) => Gate.fault (whole cause pc ls)
    let one := decode [w]
    if decErr one == some .illOp then bad cILL_OP
    else if !(opClasses (w.toNat / 2 ^ 24)).any (fun k => classNo k == c.cls) then bad cILL_CLAUSE
    else
      let fin := fun (r : Except DecErr (Instr × Nat)) =>
        match r with
        | .ok (i, n) => if i.wellFormed then Gate.run i n else bad cILL_FIELD
        | .error _ => bad cILL_FIELD
      if decErr one == some .short then
        if c.rem < 2 then bad cILL_CLAUSE
        else
          match s.fetch tenant got (pc + 4) with
          | .refused r => refusedFetch r (pc + 4) (pc + 4) ls
          | .ask => .ask (pc + 4) (c.next 1)
          | .word v => fin (decode [w, v])
      else fin one

/-- The header at a place, checked by R46: the word that a transfer has fetched, or the word there. `entered` is the target of
a start or a handler entry. -/
def State.headerAt (s : State) (tenant : Nat) (got : List (W64 × Word)) (runs : List Nat) (c : Cl) (entered : Option W64)
    (ls : BitVec 4) : Gate :=
  let pc := c.pc
  if pc.toNat % 4 != 0 then .fault (whole cBR_TARGET pc ls)
  else
    match (match c.head with
      | some h => Fetched.word h
      | none => s.fetch tenant got pc) with
    | .refused r => refusedFetch r pc pc ls
    | .ask => .ask pc c
    | .word h =>
      if headerOk runs h then .header h
      else .fault (whole (if entered.isSome then cBR_TARGET else cILL_CLAUSE) pc ls)

/-- Instructions of the quad whose register destination has not yet been written from memory (R47). -/
def State.outstandingLoads (s : State) (uid : Nat) (p : Party) : Nat :=
  ((s.opsOf uid p).filter (fun e => match e.2.job with
    | .load _ _ _ | .stn _ => true
    | _ => false)).length

/-- The lookahead rules (R66 to R68): the gate of an instruction, given the open windows, what it uses, and whether it
closes every window. An instruction that RETT executes again is alone. A branch on a loaded value so issues after that load
has returned, and no later load is performed before it, which R168 would allow (log entry 19). -/
def lookahead (wins : List Win) (uses : List Nat) (i : Instr) (n : Nat) (alone : Bool) (pc : W64) (ls : BitVec 4) : Gate :=
  if (i.closes || alone) && !wins.isEmpty then .wait
  else if wins.any (fun w => w.left == 0) then .wait
  else if wins.any (fun w => w.dst.any (fun r => uses.contains r)) || (i.pends && 4 ≤ wins.length) then
    .fault (whole cLA_VIOLATION pc ls)
  else .run i n

/-- The first instruction of a clause, which issues only while the conditions of the header hold (R47): `head` keeps it until
then. -/
def Cl.opened (c : Cl) (h : Word) : Cl := ⟨c.pc, 1, hCount h, hClass h, some h⟩

/-- Must the first instruction of a clause wait? A header is taken only with it (R47, R93). -/
def State.firstWaits (s : State) (tenant : Nat) (got : List (W64 × Word)) (c : Cl) (ls : BitVec 4) (gate : Instr → Nat → Gate) : Bool :=
  match s.words tenant got c ls with
  | .run i n => gate i n == .wait
  | _ => false

/-- Do the wait conditions of a quad's header hold (R47)? -/
def State.quadConds (s : State) (k q : Nat) (w : Wg) (x : Quad) (h : Word) : Bool :=
  !(hWb h && w.flag (hBar h) q) &&
    (15 ≤ hLdmax h || s.outstandingLoads w.uid (.quad k q) ≤ hLdmax h) && (15 ≤ hStmax h || x.uad + x.uap ≤ hStmax h)

/-- The gate of a quad. TPC of a header's BAR_MISUSE is the header's address (log entry 68). -/
def State.quadGate (s : State) (k q : Nat) (w : Wg) (x : Quad) : Gate :=
  if x.cl.rem = 0 then
    match s.headerAt w.tenant x.got [0, 1, 2, 3] x.cl x.entered x.mask with
    | .header h =>
      if hClass h = 3 && !x.sup then .fault (whole cPRIV x.cl.pc x.mask)
      else if x.resume.isSome && !x.wins.isEmpty then .wait
      else if hWb h && w.barQuads (hBar h) = 0 then .fault (whole cBAR_MISUSE x.cl.pc x.mask)
      else if !s.quadConds k q w x h then .wait
      else
        let c := x.cl.opened h
        if s.firstWaits w.tenant x.got c x.mask (fun i n => lookahead x.wins (i.uses.map x.phys) i n x.resume.isSome c.pc x.mask) then .wait
        else .header h
    | g => g
  else if x.cl.head.any (fun h => !s.quadConds k q w x h) then .wait
  else
    match s.words w.tenant x.got x.cl x.mask with
    | .run i n => lookahead x.wins (i.uses.map x.phys) i n x.resume.isSome x.cl.pc x.mask
    | g => g

/-- What the header `h` at `a` makes of the first instruction of its clause in a sequencer context, while it has not issued: a fault,
a wait, or nothing (R47). Which address TPC names for these faults the manual does not say: the header's (log entry 68). -/
def State.seqHeader (s : State) (w : Wg) (p : Nat) (h : Word) (a : W64) : Option Gate :=
  if hWb h && !w.barSeq (hBar h) p then some (.fault (whole cBAR_MISUSE a 0))
  else if hWb h && w.flag (hBar h) p then some .wait
  else if !hTw h then none
  else
    match w.tiles.find (hTile h) with
    | none => some (.fault (whole cTILE_UNDEF a 0))
    | some t => if s.tileState w (hTile h) t == .ready then none else some .wait

/-- The gate of a sequencer context; `p` is 64 or 65 (R46, R47, R296). -/
def State.seqGate (s : State) (w : Wg) (p : Nat) (x : Seq) (wins : List Win) : Gate :=
  let first := fun (h : Word) =>
    let c := x.cl.opened h
    s.firstWaits w.tenant x.got c 0 (fun i n => lookahead wins i.accs i n false c.pc 0)
  if x.cl.rem = 0 then
    match s.headerAt w.tenant x.got [if p = 64 then 4 else 5] x.cl x.entered 0 with
    | .header h =>
      match s.seqHeader w p h x.cl.pc with
      | some g => g
      | none => if first h then .wait else .header h
    | g => g
  else
    match x.cl.head.bind (fun h => s.seqHeader w p h x.cl.hdr) with
    | some g => g
    | none =>
      match s.words w.tenant x.got x.cl 0 with
      | .run i n => lookahead wins i.accs i n false x.cl.pc 0
      | g => g

/-! ### Who may issue -/

/-- Does a party wait for words that it has asked for? -/
def asks (a : Option Await) : Bool :=
  a.any (fun a => match a.what with
    | .words _ => true
    | _ => false)

/-- Has the quad been stopped in a halt by a fault of its own (R110)? -/
def Quad.isStopped (x : Quad) : Bool := x.await.any (fun a => a.what == .stopped)

/-- Is no report of the quad due for delivery before its next instruction (R110)? -/
def Wg.reported (w : Wg) (x : Quad) : Bool := x.reports.isEmpty || x.sup || w.halt.isSome

/-- Does anything but its gang keep the quad from its next issue, whatever that is? -/
def Wg.quadFree (w : Wg) (q : Nat) (x : Quad) : Bool :=
  x.live && w.reported x &&
  (match w.halt with
    | none => true
    | some h => w.mayIssueHalted q x h)

/-- May a quad of an unparted gang issue now (R76 to R78)? The gang's live quads issue an instruction one after the other,
and only once each of them can. -/
def State.gangReady (s : State) (k q : Nat) (w : Wg) : Bool :=
  let g := w.gang q
  if g.parted then true
  else
    let qs := w.gangQuads (q / 8)
    let may := fun (e : Nat × Quad) => !e.2.isStopped && w.reported e.2 && (match s.quadGate k e.1 w e.2 with
      | .wait | .ask _ _ => false
      | _ => true)
    !g.issued.contains q &&
      qs.all (fun e => q ≤ e.1 || g.issued.contains e.1 || e.2.waitsIn || e.2.isStopped) &&
      (!g.issued.isEmpty || qs.any (fun e => e.2.waitsIn) || qs.all may)

/-- What the quad may issue now; a word of its code it may ask for whatever its gang does. -/
def State.quadNext (s : State) (k q : Nat) (w : Wg) (x : Quad) : Gate :=
  if !w.quadFree q x || asks x.await then .wait
  else
    match s.quadGate k q w x with
    | .ask a c => .ask a c
    | g => if s.gangReady k q w then g else .wait

/-- May a sequencer context issue? -/
def Wg.seqMay (w : Wg) (e : Engine) (x : Seq) : Bool :=
  x.mode == .started &&
  (match w.halt with
    | none => true
    | some h => x.await.isNone && x.skid < 6 && (match h.stage with
      | .stopping => h.origin < 64
      | .saving _ acks => !acks.contains e
      | _ => false))

/-- The gate of the party whose turn it is; `wait` when there is none or it may not issue. -/
def State.gate (s : State) : Gate :=
  match s.focus with
  | some (.quad k q) =>
    match s.wg? k with
    | none => .wait
    | some w =>
      match w.quads.find q with
      | none => .wait
      | some x => s.quadNext k q w x
  | some (.mtx k) =>
    match s.wg? k with
    | none => .wait
    | some w => if w.seqMay .matrix w.mtx.seq && (w.mtx.gather.isNone || w.mtx.latch.isSome) && !asks w.mtx.seq.await then s.seqGate w 64 w.mtx.seq w.mtx.wins else .wait
  | some (.cpy k) =>
    match s.wg? k with
    | none => .wait
    | some w => if w.seqMay .copy w.cpy.seq && !asks w.cpy.seq.await then s.seqGate w 65 w.cpy.seq [] else .wait
  | none => .wait

/-- A party that cannot issue while its workgroup stops is blocked: it stands where it is (05_traps R109). -/
def State.stopBlocked (s : State) (p : Party) : State :=
  let stops := (s.wg? p.wg).any (fun w => w.halt.any (fun h => h.origin != p.no && (match h.stage with
    | .stopping | .saving _ _ => true
    | _ => false)))
  let stand := fun (a : Option Await) => a.orElse (fun _ => some ⟨.stall, 0, 0⟩)
  if !stops then s
  else
    match p with
    | .quad k q => s.updQuad k q (fun x => { x with await := stand x.await })
    | .mtx k => s.updWg k (fun w => if w.mtx.seq.mode == .started then { w with mtx := { w.mtx with seq := { w.mtx.seq with await := stand w.mtx.seq.await } } } else w)
    | .cpy k => s.updWg k (fun w => if w.cpy.seq.mode == .started then { w with cpy := { w.cpy with seq := { w.cpy.seq with await := stand w.cpy.seq.await } } } else w)

/-- The party makes accesses of its own and waits for them: a fetch, named by the place of the word, in no queue; others, named by their
instruction, in order with the quad's accesses of Q4 and Q6 (R387, 09_routes R203, R211, 05_traps R119). -/
def State.askAll (s : State) (p : Party) (k : AccKind) (as : List Access) (at' : Cl) (sup : Bool) (ls : BitVec 4) : State :=
  match s.wg? p.wg with
  | none => s
  | some w =>
    let parts := as.zipIdx.map (fun e =>
      (e.2, { s.partOf w.tenant (dieOf p.wg) { e.1 with key := (lanesOf ls).headD 0 } with joint := (s.nextId, e.2) }))
    let f : Flight := ⟨w.uid, p, if k == .fetch then 7 else 6, .words k, w.tenant, dieOf p.wg, at', sup, 0, 0, ls, parts, [], false⟩
    (s.launch f).updGot p (fun g => g) (some ⟨.words s.nextId, 0, (s.csr (dieOf p.wg) w.tenant).waitcap.toNat⟩)

/-- The party stands at an instruction that has issued (R51). -/
def State.issuedAt (s : State) (p : Party) : State :=
  let on := fun (x : Seq) => { x with cl := x.cl.issued }
  match p with
  | .quad k q => s.updQuad k q (fun x => { x with cl := x.cl.issued })
  | .mtx k => s.updWg k (fun w => { w with mtx := { w.mtx with seq := on w.mtx.seq } })
  | .cpy k => s.updWg k (fun w => { w with cpy := { w.cpy with seq := on w.cpy.seq } })

/-- The party asks for the `n` bytes at a route, which the instruction that it has issued needs. -/
def State.askFor (s : State) (p : Party) (k : AccKind) (r : W64) (n : Nat) (at' : Cl) (sup : Bool) (ls : BitVec 4) : State :=
  (s.askAll p k [⟨0, r, n, 0, 0, 0⟩] at' sup ls).issuedAt p

/-- The party whose turn it is asks for a word of its code. -/
def State.askWord (s : State) (a : W64) (at' : Cl) : State :=
  let word : List Access := [⟨0, a, 4, 0, 0, 0⟩]
  match s.focus with
  | some (.quad k q) =>
    match s.quad? k q with
    | some x => s.askAll (.quad k q) .fetch word at' x.sup x.mask
    | none => s
  | some p => s.askAll p .fetch word at' false 0
  | none => s

/-! ### After an instruction -/

/-- A quad has completed an instruction: windows opened before it have one instruction less, a skid counts, and an
instruction executed again alone (`alone`) gives way to the next (R66, R69, R109, R116). -/
def Quad.completed (q : Quad) (before : Nat) (halted header alone : Bool) : Quad :=
  let step := fun (w : Win) => if w.op < before then { w with left := w.left - 1 } else w
  let q1 := { q with
    wins := if header then q.wins else q.wins.map step
    skid := if halted && !header then q.skid + 1 else q.skid
    entered := none }
  if header || !alone then q1 else q1.resumed

/-- The gang has issued an instruction in one more quad; when all its live quads have, it parts if their next PCs differ
(R77). `name` is the next operation's name before this quad issued it. -/
def Wg.gangIssued (w : Wg) (q name : Nat) : Wg :=
  let g := w.gang q
  if g.parted then w
  else
    let l := q :: g.issued
    let qs := w.gangQuads (q / 8)
    let all := qs.all (fun e => l.contains e.1)
    let differ := match qs with
      | [] => false
      | e :: rest => rest.any (fun f => f.2.cl.pc != e.2.cl.pc)
    let g' : Gang := if all then ⟨differ, [], 0⟩ else ⟨false, l, if g.issued.isEmpty then name else g.lead⟩
    { w with gangs := Tab.set ⟨false, [], 0⟩ w.gangs (q / 8) g' }

/-- The name under which a gang's operations belong together is used up with its first quad, though that quad enters none. -/
def State.nameTaken (s pre : State) (w : Wg) (q : Nat) : State :=
  let g := w.gang q
  if s.nextId == pre.nextId && !g.parted && g.issued.isEmpty && 1 < (w.gangQuads (q / 8)).length then { s with nextId := s.nextId + 1 }
  else s

/-- What follows when quad `q` of slot `k` may have completed an instruction, `pre` being the state before it. -/
def State.settleQuad (s pre : State) (k q : Nat) (header : Bool) : State :=
  match pre.quad? k q, s.quad? k q, pre.wg? k with
  | some x, some y, some w =>
    let done := !y.live || y.cl.issued != x.cl.issued
    let halted := w.halt.any (fun h => h.stage != .handler && !(h.origin / 8 == q / 8 && !(w.gang q).parted))
    let s1 := if done then s.updQuad k q (fun z => z.completed pre.nextId halted header x.resume.isSome) else s
    if done || (s1.wg? k).any (fun v => v.halt.isSome) && (w.halt.isNone || !(w.gang q).issued.isEmpty) then
      (s1.updWg k (fun v => v.gangIssued q pre.nextId)).nameTaken pre w q
    else s1
  | _, _, _ => s

/-- What follows when a sequencer context may have completed an instruction. -/
def State.settleSeq (s pre : State) (p : Party) (header : Bool) : State :=
  match pre.seq? p, s.seq? p, pre.wg? p.wg with
  | some x, some y, some w =>
    if y.cl.issued != x.cl.issued || y.mode != x.mode then
      let fix := fun (z : Seq) => { z with skid := if w.halt.isSome && !header then z.skid + 1 else z.skid, entered := none }
      let step := fun (z : Win) => if z.op < pre.nextId then { z with left := z.left - 1 } else z
      match p with
      | .mtx k => s.updWg k (fun v => { v with mtx := { v.mtx with
          seq := fix v.mtx.seq, wins := if header then v.mtx.wins else v.mtx.wins.map step } })
      | .cpy k => s.updWg k (fun v => { v with cpy := { v.cpy with seq := fix v.cpy.seq } })
      | .quad _ _ => s
    else s
  | _, _, _ => s

/-- What follows an issue of a party. -/
def State.settle (s pre : State) (p : Party) (header : Bool) : State :=
  match p with
  | .quad k q => s.settleQuad pre k q header
  | p => s.settleSeq pre p header

end Machine
end Sys2Proof
end

