-- ==== Sys2Proof/Machine/Engine.lean ====
section
/-!
DEFINITION. The itinerary engine (19_itinerary R343 to R360): its table, starting and closing entries, seats and credits.
-/
namespace Sys2Proof
namespace Machine

/-! ### The table (R343, R344) -/

/-- Header dword 0. -/
def Itin.h0 (t : Itin) : Nat := (t.hdr.headD 0).toNat
def Itin.seatLines (t : Itin) : Nat := bits t.h0 55 48
def Itin.upgs (t : Itin) : Nat := bits t.h0 47 44
def Itin.dnas (t : Itin) : Nat := bits t.h0 43 40
def Itin.ngs (t : Itin) : Nat := bits t.h0 39 36
def Itin.nas (t : Itin) : Nat := bits t.h0 35 32
def Itin.stashMax (t : Itin) : Nat := bits t.h0 31 28
def Itin.mrun (t : Itin) : Nat := bits t.h0 27 26
def Itin.dnpl (t : Itin) : Nat := bits t.h0 23 12
def Itin.uppl (t : Itin) : Nat := bits t.h0 11 0
/-- Header route `i`: 1 SEATBASE, 2 DNSEAT, 3 UPSEAT, 4 STASHBASE. -/
def Itin.route (t : Itin) (i : Nat) : W64 := t.hdr.getD i 0
/-- Z, the bytes of a seat. -/
def Itin.z (t : Itin) : Nat := t.seatLines * 128

/-- CARD of an entry. -/
def Itin.card (t : Itin) (e : Nat) : W64 := (t.ents.getD e (0, 0)).1
/-- Dword 1 of an entry. -/
def Itin.d1 (t : Itin) (e : Nat) : Nat := (t.ents.getD e (0, 0)).2.toNat
def eKind (d : Nat) : Nat := bits d 1 0
def eMb (d : Nat) : Nat := bits d 9 2
def eNu (d : Nat) : Bool := bit d 10
def eNd (d : Nat) : Bool := bit d 11
def eSd (d : Nat) : Bool := bit d 12
def eSu (d : Nat) : Bool := bit d 13
def eStash (d : Nat) : Nat := bits d 15 14
def eOutn (d : Nat) : Nat := bits d 21 16
def eQclu (d : Nat) : Nat := bits d 24 22
def eQdie (d : Nat) : Nat := bits d 26 25
def ePrio (d : Nat) : Nat := bits d 28 27

/-- Earlier entries of the table that satisfy a test. -/
def Itin.earlier (t : Itin) (e : Nat) (f : Nat → Bool) : Nat := ((t.ents.take e).filter (fun x => f x.2.toNat)).length

/-- The seat that an entry consumes: activation (NU) or gradient (ND), by R350. -/
def Itin.inSeat (t : Itin) (e : Nat) : Nat :=
  if eNu (t.d1 e) then t.earlier e eNu % t.nas else t.earlier e eNd % t.ngs

/-- The peer seat that an entry fills (R354). -/
def Itin.outSeat (t : Itin) (e : Nat) : Nat :=
  if eSd (t.d1 e) then t.earlier e eSd % t.dnas else t.earlier e eSu % t.upgs

/-- The seat table of a kind. -/
def Itin.seats (t : Itin) (gradient : Bool) : Tab Seat := if gradient then t.grad else t.act

/-- Writes a seat. -/
def Itin.setSeat (t : Itin) (gradient : Bool) (k : Nat) (x : Seat) : Itin :=
  if gradient then { t with grad := Tab.set ⟨0, 0⟩ t.grad k x } else { t with act := Tab.set ⟨0, 0⟩ t.act k x }

/-- A seat. -/
def Itin.seat (t : Itin) (gradient : Bool) (k : Nat) : Seat := Tab.get ⟨0, 0⟩ (t.seats gradient) k

/-- An entry's run, where it has started. -/
def Itin.run? (t : Itin) (e : Nat) : Option EntryRun := t.runs.find e

/-- Started entries that have not closed. -/
def Itin.open (t : Itin) : List (Nat × EntryRun) := t.runs.filter (fun r => r.2.phase != 5)

/-- Changes an entry's run. -/
def State.updRun (s : State) (e : Nat) (f : EntryRun → EntryRun) : State :=
  { s with itin := { s.itin with runs := s.itin.runs.upd e f } }

/-- The engine fails: the state is FAILED, and FCAUSE keeps the first cause (R353, log entry 52). -/
def State.itinFail (s : State) (cause : Nat) : State :=
  if s.itin.st == 5 || s.itin.owner.isNone then s else { s with itin := { s.itin with st := 5, fcause := cause } }

/-- Does the range of `n` bytes from a route stay in its own extent (R345)? -/
def inExtent (r : W64) (n : Nat) : Bool := offOf r + n ≤ 2 ^ 21

/-- Is the image bad (R345)? `img` holds its dwords: 8 of the header, then 4 per entry. -/
def State.imageBad (s : State) (tenant : Nat) (img : List Nat) : Bool :=
  let h : Itin := { s.itin with hdr := (img.take 5).map (BitVec.ofNat 64) }
  let loc := fun (r : W64) => s.isLocal tenant r
  let upv := bit h.h0 24
  let dnv := bit h.h0 25
  let n := bits h.h0 63 56 + 1
  let ent := fun (e : Nat) => (img.getD (8 + 4 * e) 0, img.getD (9 + 4 * e) 0)
  let es := (List.range n).map ent
  let bal := fun (k : Nat) => ((es.take k).filter (fun x => eStash x.2 == 2)).length ≤ ((es.take k).filter (fun x => eStash x.2 == 1)).length
  let entryBad := fun (i : Nat) (c d : Nat) =>
    bits d 63 29 != 0 || img.getD (10 + 4 * i) 0 != 0 || img.getD (11 + 4 * i) 0 != 0 ||
    ((eKind d == 3) != (i + 1 == n)) ||
    (eKind d == 0 && (eNd d || eSu d || eStash d == 2)) ||
    (eKind d == 1 && (eNu d || eSd d || eStash d == 1)) ||
    (2 ≤ eKind d && (eNd d || eNu d || eSd d || eSu d || eStash d != 0 || eOutn d != 0)) ||
    (eKind d == 3 && c != 0) ||
    (eNu d && (!upv || h.nas == 0)) || (eNd d && (!dnv || h.ngs == 0)) ||
    (eSd d && (!dnv || h.dnas == 0)) || (eSu d && (!upv || h.upgs == 0)) ||
    ((eSd d || eSu d) && (eOutn d == 0 || h.seatLines < eOutn d)) ||
    (eStash d == 1 && (eOutn d == 0 || h.stashMax == 0)) || eStash d == 3 ||
    (eKind d != 3 && (!loc (BitVec.ofNat 64 c) || c % 64 != 0)) || 6 ≤ eQclu d
  let dup := (List.range n).any (fun i => (List.range n).any (fun j => i < j && (ent i).1 == (ent j).1 && eKind (ent i).2 != 3 && eKind (ent j).2 != 3))
  img.length != 8 + 4 * n || (img.drop 5).take 3 != [0, 0, 0] || h.seatLines == 0 ||
  8 < h.nas || 8 < h.ngs || 8 < h.dnas || 8 < h.upgs ||
  !loc (h.route 1) || (h.route 1).toNat % 128 != 0 || !inExtent (h.route 1) (16 * h.z) ||
  !isDev (h.route 2) || plOf (h.route 2) != h.dnpl || (h.route 2).toNat % 128 != 0 || !inExtent (h.route 2) (8 * h.z) ||
  !isDev (h.route 3) || plOf (h.route 3) != h.uppl || (h.route 3).toNat % 128 != 0 || !inExtent (h.route 3) (8 * h.z) ||
  !loc (h.route 4) || (h.route 4).toNat % 128 != 0 || !inExtent (h.route 4) (512 * h.stashMax) ||
  (List.range n).any (fun i => entryBad i (ent i).1 (ent i).2) ||
  !(List.range (n + 1)).all bal ||
  (es.filter (fun x => eStash x.2 == 2)).length != (es.filter (fun x => eStash x.2 == 1)).length ||
  (h.mrun != 0 && dup)

/-! ### The engine's accesses (R346) -/

/-- Reads `n` dwords from a local route up, under a tenant. -/
def State.readDwords (s : State) (tenant : Nat) (r : W64) (n : Nat) : Except Refuse (List Nat) :=
  match n with
  | 0 => .ok []
  | n + 1 =>
    match s.lineAccess tenant .load .xchg [⟨0, r, 8, 0, 0, 0⟩] with
    | .error e => .error e
    | .ok (_, as) => (s.readDwords tenant (r + 8) n).map (fun l => (as.map (·.got)).headD 0 :: l)

/-- Writes dwords from a local route up, under a tenant. -/
def State.writeDwords (s : State) (tenant : Nat) (r : W64) (ds : List Nat) : Except Refuse State :=
  match ds with
  | [] => .ok s
  | d :: rest =>
    match s.lineAccess tenant .store .xchg [⟨0, r, 8, d, 0, 0⟩] with
    | .error e => .error e
    | .ok (t, _) => t.writeDwords tenant (r + 8) rest

/-! ### Card queues (04_execution R86, R87) -/

/-- The entries of a queue. -/
def State.queue (s : State) (k : Nat) : List Queued := Tab.get [] s.sched.queues k

/-- Is there room on chip behind these entries: for the head, and for `Config.chipCards` more? -/
def chipRoom (q : List Queued) : Bool :=
  match q with
  | [] => true
  | _ :: rest => rest.length < Config.chipCards

/-- Has the queue room (R87)? The entries held on chip do not count against the ring's size, and a queue whose ring the host
has not set is held on chip (log entry 7). -/
def State.ringRoom (s : State) (cluster prio : Nat) : Bool :=
  let q := s.queue (cluster * 4 + prio)
  match s.sched.rings.find (cluster * 4 + prio) with
  | none => true
  | some (_, n) => chipRoom q || (q.filter (fun e => e.ring.isSome)).length < n

/-- The memory key of a place in a queue's ring (log entry 7). -/
def State.ringKey (s : State) (k place : Nat) : Nat := ((s.sched.rings.find k).getD (0, 0)).1.toNat + 16 * place

/-- An entry comes from the ring onto the chip. -/
def State.loaded (s : State) (k : Nat) (e : Queued) : Queued :=
  match e.ring with
  | none => e
  | some n =>
    let m := (s.shown none (s.ringKey k n) 16).mem
    { e with route := BitVec.ofNat 64 (m.readN (s.ringKey k n) 8), tenant := m.readN (s.ringKey k n + 8) 8 % 16, ring := none }

/-- The entries behind the head: as many as the chip holds come onto it. -/
def State.loadedRest (s : State) (k i : Nat) (q : List Queued) : List Queued :=
  match q with
  | [] => []
  | e :: rest => (if i < Config.chipCards then s.loaded k e else e) :: s.loadedRest k (i + 1) rest

/-- The head's card is read when it reaches the head, under its stamped tenant (R86). -/
def State.headRead (s : State) (e : Queued) : Queued :=
  match e.card with
  | some _ => e
  | none => { e with card := some (match s.readDwords e.tenant e.route 8 with
      | .ok c => .card c
      | .error _ => .unreadable) }

/-- A queue with these entries. -/
def State.setQueue (s : State) (k : Nat) (q : List Queued) : State :=
  let n := match q with
    | [] => []
    | e :: rest => s.headRead (s.loaded k e) :: s.loadedRest k 0 rest
  { s with sched := { s.sched with queues := Tab.set [] s.sched.queues k n } }

/-- The place in a ring for a new entry: the next one after the last entry's that no entry of the queue lies at (log entry 7). -/
def ringPlace (q : List Queued) (size : Nat) : Nat :=
  let first := ((q.getLast?).bind (·.ring)).elim 0 (· + 1)
  let free := fun (n : Nat) => !q.any (fun e => e.ring == some n)
  (((List.range size).map (fun i => (first + i) % size)).find? free).getD 0

/-- Writes an entry of a card queue at its tail: on the chip while there is room, else in the ring (R87). -/
def State.enqueue (s : State) (cluster prio : Nat) (route : W64) (tenant : Nat) (entry : Option (Nat × Nat)) : State :=
  let k := cluster * 4 + prio
  let q := s.queue k
  match s.sched.rings.find k with
  | some (_, size) =>
    if chipRoom q then s.setQueue k (q ++ [⟨route, tenant, entry, none, none⟩])
    else
      let n := ringPlace q size
      let t := s.shown none (s.ringKey k n) 16
      ({ t with mem := (t.mem.writeN (s.ringKey k n) 8 route.toNat).writeN (s.ringKey k n + 8) 8 tenant } : State).setQueue k
        (q ++ [⟨route, tenant, entry, some n, none⟩])
  | none => s.setQueue k (q ++ [⟨route, tenant, entry, none, none⟩])

/-- Sends a message of the engine on a valid path of one side of a range entry, at die 0; answers the state and the path slot with
the number of packets counted there before it. -/
def State.engineSide (s : State) (tenant : Nat) (r : W64) (e : RangeImage) (mirror counted : Bool)
    (body : Nat → Nat → List Nat → MsgBody) : Except Nat (State × Nat × Nat) :=
  let paths := e.paths mirror
  let c := paths.getD (s.pick paths.length) 0
  match s.firstHop tenant (bits (e.path c) 11 0) with
  | .error _ => .error cREMOTE_ERROR
  | .ok (out, port) =>
    let key := sentKey 0 tenant (plOf r) c
    let counts := (List.range 4).map (fun i => Tab.get 0 s.fab.sent (sentKey 0 tenant (plOf r) (c / 4 * 4 + i)))
    let n := Tab.get 0 s.fab.sent key
    let t := s.drawn.send 0 (some port) ⟨tenant, BitVec.ofNat 12 out, 0, body c n counts⟩
    .ok (if counted then { t with fab := { t.fab with sent := Tab.set 0 t.fab.sent key ((n + 1) % 2 ^ 32) } } else t, c, n)

/-- Sends one message of the engine to another module, to each enabled side of a mirrored entry, as an operation of its own
(R354, R359, 09_routes R225); on a route of this module its effect is `here`, at once. Answers the state and the operation that
nothing has answered. -/
def State.engineSend (s : State) (tenant : Nat) (r : W64) (counted : Bool) (body : Nat → Nat → Nat → List Nat → MsgBody)
    (here : State → Except Nat State) : Except Nat (State × List EngineOp) :=
  match s.level0 tenant .store none r with
  | .error e => .error e.cause
  | .ok none => (here s).map (fun t => (t, []))
  | .ok (some (i, e)) =>
    let sides := [false, true].filter (fun m => if m then e.mir && !e.mdis else !e.dis)
    let send := fun (p : Except Nat (State × List (Nat × Nat))) (m : Bool) =>
      match p with
      | .error c => .error c
      | .ok (t, cs) => (t.engineSide tenant r e m counted (body s.nextId)).map (fun x => (x.1, cs ++ [x.2]))
    (sides.foldl send (.ok (s, []))).map (fun x =>
      ({ x.1 with nextId := x.1.nextId + 1 }, [⟨s.nextId, tenant, 0, (i, e), r, x.2.map (·.1), counted, x.2⟩]))

/-- The engine fails and discards the copies that it has not sent (R358, R359, log entry 52). -/
def State.itinCut (s : State) (cause : Nat) (gone : Bool) : State :=
  if s.itin.owner.isNone then s
  else
    let t := s.itinFail cause
    { t with itin := { t.itin with cut := true, gone := t.itin.gone || gone } }

/-- An entry that has not closed will not close. -/
def State.unclose (s : State) (e : Nat) : State := s.updRun e (fun r => if r.phase == 5 then r else { r with phase := 6 })

/-- The engine fails while it closes an entry, or as its task ends: the entry will not close (R353, R354). -/
def State.itinBreak (s : State) (e cause : Nat) : State := (s.unclose e).itinFail cause

/-- Relinquishes a cell of the owner through its name, with the checks of R267. -/
def State.itinRelinquish (s : State) (tenant : Nat) (n : W64) : Except Nat State :=
  match s.nameFault tenant (fun _ => none) [n] with
  | some (_, r) => .error r.cause
  | none =>
    match s.lineAccess tenant .relinquish .xchg [⟨0, n, 128, 0, 0, 0⟩] with
    | .ok (t, _) => .ok t
    | .error e => .error e.cause

/-! ### Starting an entry (R350, R351) -/

/-- The first condition of R350 that the next entry fails, 1 to 5; 0 when it can start. -/
def Itin.failing (t : Itin) : Nat :=
  let e := t.next
  let d := t.d1 e
  let running := (t.runs.filter (fun r => r.2.phase < 4)).length
  if t.mrun < running then 1
  else if eNu d && (t.seat false (t.inSeat e)).st != 1 then 2
  else if eNd d && (t.seat true (t.inSeat e)).st != 1 then 2
  else if (eSd d && t.dnfree == 0) || (eSu d && t.upfree == 0) then 3
  else if eStash d == 1 && t.stashMax ≤ t.stash then 4
  else if eStash d == 2 && !(t.runs.any (fun r => eStash (t.d1 r.1) == 1 && 4 ≤ r.2.phase && t.earlier r.1 (fun x => eStash x == 1) == t.pops)) then 5
  else 0

/-- The entry, with its queue, whose card waits for room in the queue's ring (R87). -/
def Itin.waiting (t : Itin) : Option (Nat × Nat × Nat) :=
  (t.runs.find? (fun r => r.2.phase == 1 && !r.2.queued)).map (fun r =>
    (r.1, eQdie (t.d1 r.1) * 6 + eQclu (t.d1 r.1), ePrio (t.d1 r.1)))

/-- Posts the card of a started entry once the ring of its queue has room (R87, R351). -/
def State.itinPost (s : State) (own : Nat) : State :=
  match s.itin.waiting with
  | none => s
  | some (e, cluster, prio) =>
    if s.ringRoom cluster prio then
      (s.updRun e (fun r => { r with queued := true })).enqueue cluster prio (s.itin.card e) own (some (s.itin.serial, e))
    else s

/-- Takes the seat, the credits and the stash record of the next entry (R351). -/
def Itin.take (t : Itin) (cycle : Nat) : Itin :=
  let e := t.next
  let d := t.d1 e
  let grad := eNd d
  let k := t.inSeat e
  let rec_ := if eStash d == 1 then t.pushes % t.stashMax else if eStash d == 2 then t.pops % t.stashMax else 0
  let t1 : Itin := { t with
    last := some cycle
    dnfree := if eSd d then t.dnfree - 1 else t.dnfree
    upfree := if eSu d then t.upfree - 1 else t.upfree
    stash := if eStash d == 1 then t.stash + 1 else t.stash
    pushes := if eStash d == 1 then t.pushes + 1 else t.pushes
    pops := if eStash d == 2 then t.pops + 1 else t.pops
    next := e + 1
    runs := t.runs.put e ⟨1, true, false, [], 0, 0, false, [], [], [], rec_⟩ }
  if eNu d || eNd d then t1.setSeat grad k ⟨2, (t.seat grad k).count⟩ else t1

/-- Writes the dispatch block of an entry that `t` starts, at its card's FRAME, and stamps START (R351). -/
def State.dispatch (s : State) (t : Itin) (own e : Nat) : Except Nat State :=
  let d := t.d1 e
  let grad := eNd d
  let k := t.inSeat e
  let used := eNu d || eNd d
  let seatRoute := t.route 1 + BitVec.ofNat 64 ((if grad then 8 + k else k) * t.z)
  let recRoute := t.route 4 + BitVec.ofNat 64 (512 * ((s.itin.run? e).map (·.record)).getD 0)
  match s.readDwords own (t.card e + 8) 1 with
  | .error x => .error x.cause
  | .ok fr =>
    let fr := BitVec.ofNat 64 (fr.headD 0)
    if !s.isLocal own fr || fr.toNat % 64 != 0 then .error cIT_TABLE_BAD
    else
      match (if eStash d == 2 then s.readDwords own recRoute 1 else .ok [0]) with
      | .error x => .error x.cause
      | .ok hd =>
        let blk := [e + eKind d * 2 ^ 8 + eMb d * 2 ^ 16 + (if used then (t.seat grad k).count else 0) * 2 ^ 32,
          if used then seatRoute.toNat else 0, if eStash d == 2 then recRoute.toNat else 0, hd.headD 0 % 64, s.cycle 0, 0, 0, 0]
        match s.writeDwords own fr blk with
        | .error x => .error x.cause
        | .ok u => .ok (u.updRun e (fun r => { r with start := s.cycle 0, queued := false }))

/-- Starts the next entry, whose conditions hold (R351), at most one in a cycle, or enters ENDED (R350). A card that waits for
room in its queue's ring is posted first. The index of the next entry stays at END's when END has started (log entry 80). -/
def State.itinStart (s : State) : State :=
  let t := s.itin
  match t.owner with
  | none => s
  | some own =>
    if t.waiting.isSome then s.itinPost own
    else if t.st != 2 || t.ents.length ≤ t.next then s
    else if eKind (t.d1 t.next) == 3 then
      if t.open.isEmpty then { s with itin := { t with st := 4 } } else s
    else if t.failing != 0 || t.last == some (s.cycle 0) then s
    else
      let s1 := { s with itin := t.take (s.cycle 0) }
      match s1.dispatch t own t.next with
      | .error c => s1.itinFail c
      | .ok s2 => s2.itinPost own

/-! ### Closing an entry (R354) -/

/-- Is a table of this tenant RUNNING or STOPPED? -/
def State.itinLive (s : State) (tenant : Nat) : Bool := s.itin.owner == some tenant && (s.itin.st == 2 || s.itin.st == 3)

/-- A seat-full notice arrives from a pod label of the table (R355). -/
def State.seatNotice (s : State) (tenant source : Nat) (gradient : Bool) (seat count : Nat) : State :=
  let t := s.itin
  if !s.itinLive tenant || source != (if gradient then t.dnpl else t.uppl) || !bit t.h0 (if gradient then 25 else 24) then s
  else if (if gradient then t.ngs else t.nas) ≤ seat || (t.seat gradient seat).st != 0 then s.itinFail cIT_SEAT_OVF
  else { s with itin := t.setSeat gradient seat ⟨1, count⟩ }

/-- A seat return arrives: of an activation seat from downstream, of a gradient seat from upstream; one that would raise a
credit above its limit is discarded (R354, R355). -/
def State.seatBack (s : State) (tenant source : Nat) (gradient : Bool) : State :=
  let t := s.itin
  if !s.itinLive tenant || source != (if gradient then t.uppl else t.dnpl) || !bit t.h0 (if gradient then 24 else 25) then s
  else if gradient then (if t.upfree < t.upgs then { s with itin := { t with upfree := t.upfree + 1 } } else s)
  else if t.dnfree < t.dnas then { s with itin := { t with dnfree := t.dnfree + 1 } } else s

/-- A seat return to the module that filled a seat. -/
def State.seatReturn (s : State) (own : Nat) (gradient : Bool) (e : Nat) : Except Nat State :=
  let r := if gradient then s.itin.route 2 else s.itin.route 3
  let me := (s.selfpl own).toNat
  (s.engineSend own r false (fun op c _ _ => .seatReturn gradient me 0 op c) (fun s => .ok (s.seatBack own me gradient))).map
    (fun x => x.1.updRun e (fun r => { r with rets := r.rets ++ x.2 }))

/-- Sends one listed cell to a line of the peer seat. -/
def State.sendCell (s : State) (own e : Nat) (dst n : W64) : Except Nat State :=
  match s.lineAccess own .load .xchg [⟨0, n, 128, 0, 0, 0⟩] with
  | .error x => .error x.cause
  | .ok (_, as) =>
    let v := (as.map (·.got)).headD 0
    let here := fun (s : State) =>
      match s.lineAccess own .store .xchg [⟨0, dst, 128, v, 0, 0⟩] with
      | .error x => .error x.cause
      | .ok (t, _) => .ok t
    (s.engineSend own dst true (fun op c n _ =>
        .request ⟨.store, .xchg, [⟨dst, 128, v, 0⟩], (s.selfpl own).toNat, 0, op, 0, c, true, n, [], none, none⟩) here).map
      (fun x => x.1.updRun e (fun r => { r with copies := r.copies ++ x.2 }))

/-- The seat-full notice that follows the copies. -/
def State.sendNotice (s : State) (own e : Nat) (gradient : Bool) (seat count : Nat) (r : W64) : Except Nat State :=
  let me := (s.selfpl own).toNat
  (s.engineSend own r true (fun op c n cs => .seatFull gradient seat count me 0 op c n cs)
      (fun s => .ok (s.seatNotice own me gradient seat count))).map
    (fun x => x.1.updRun e (fun r => { r with notes := r.notes ++ x.2 }))

/-- One step of a close on the state that the earlier steps leave; a refused step changes nothing and ends the close: the entry
will not close, and the engine fails with the cause (R354). The mark says whether the close goes on. -/
def closeStep (e : Nat) (b : Bool) (f : State → Except Nat State) (p : State × Bool) : State × Bool :=
  if !p.2 || !b then p
  else
    match f p.1 with
    | .ok t => (t, true)
    | .error c => (p.1.itinBreak e c, false)

/-- Writes the record that an entry pushes: its names and MB (R354). -/
def State.pushRecord (s : State) (own e : Nat) (r : EntryRun) : Except Nat State :=
  match s.writeDwords own (s.itin.route 4 + BitVec.ofNat 64 (512 * r.record))
      ((r.names.length + eMb (s.itin.d1 e) * 2 ^ 8) :: r.names.map (·.toNat)) with
  | .error x => .error x.cause
  | .ok u => .ok u

/-- The names of the record that an entry pops (R354). -/
def State.popNames (s : State) (own : Nat) (r : EntryRun) : Except Nat (List W64) :=
  let a := s.itin.route 4 + BitVec.ofNat 64 (512 * r.record)
  match s.readDwords own a 1 with
  | .error x => .error x.cause
  | .ok hd =>
    match s.readDwords own (a + 8) (hd.headD 0 % 64) with
    | .error x => .error x.cause
    | .ok ns => .ok (ns.map (BitVec.ofNat 64))

/-- Pops a record: its names are relinquished and the stash count falls by 1 (R354). -/
def popRecord (own e : Nat) (r : EntryRun) (p : State × Bool) : State × Bool :=
  if !p.2 then p
  else
    match p.1.popNames own r with
    | .error c => (p.1.itinBreak e c, false)
    | .ok ns =>
      closeStep e true (fun s => .ok { s with itin := { s.itin with stash := s.itin.stash - 1 } })
        (ns.foldl (fun p n => closeStep e true (fun s => s.itinRelinquish own n) p) p)

/-- Steps 4 and 5 of R354, once every copy is acknowledged: the relinquish of the cells not pushed, then the pop. -/
def State.itinSent (s : State) (e : Nat) : State :=
  let t := s.itin
  match t.owner, t.run? e with
  | some own, some r =>
    if r.phase != 4 || r.sent || !r.copies.isEmpty then s
    else
      let d := t.d1 e
      let s0 := s.updRun e (fun x => { x with sent := true })
      let p := r.names.foldl (fun p n => closeStep e (eStash d != 1) (fun s => s.itinRelinquish own n) p) (s0, true)
      (if eStash d == 2 then popRecord own e r p else p).1
  | _, _ => s

/-- The task of an entry has completed: FINISH is stamped, the input seat is returned, the listed cells are sent with the notice
that follows them, the record is pushed; the steps that follow wait for the copies' acknowledgements (R354). A task without
ITDONE fails the engine (R353). An engine that has discarded its copies sends none, and the entry does not close (log entry
52). -/
def State.itinFinish (s : State) (e : Nat) : State :=
  let t := s.itin
  match t.owner, t.run? e with
  | some own, some r =>
    let s0 := s.updRun e (fun x => { x with phase := 4, finish := s.cycle 0 })
    if !r.done then s0.itinBreak e cIT_TABLE_BAD
    else
      let d := t.d1 e
      let input := eNu d || eNd d
      let send := eSd d || eSu d
      let s1 : State := if input then { s0 with itin := s0.itin.setSeat (eNd d) (t.inSeat e) ⟨0, 0⟩ } else s0
      let base := (if eSd d then t.route 2 else t.route 3) + BitVec.ofNat 64 (t.outSeat e * t.z)
      let p1 := closeStep e input (fun s => s.seatReturn own (eNd d) e) (s1, true)
      let p2 := closeStep e (send && t.cut) (fun _ => .error t.fcause) p1
      let p3 := (List.range r.names.length).foldl (fun p i =>
        closeStep e send (fun s => s.sendCell own e (base + BitVec.ofNat 64 (128 * i)) (r.names.getD i 0)) p) p2
      let p4 := closeStep e send (fun s => s.sendNotice own e (eSu d) (t.outSeat e) r.names.length base) p3
      let p5 := closeStep e (eStash d == 1) (fun s => s.pushRecord own e r) p4
      p5.1.itinSent e
  | _, _ => s

/-- The task that the engine posted for an entry has completed; one of an earlier run of a table is nothing to this one. -/
def State.itinTaskDone (s : State) (i : Nat × Nat) : State := if i.1 == s.itin.serial then s.itinFinish i.2 else s

/-- The entry that a task belongs to changes, where its run of the table is the present one. -/
def State.updTask (s : State) (i : Nat × Nat) (f : EntryRun → EntryRun) : State := if i.1 == s.itin.serial then s.updRun i.2 f else s

/-- An entry closes once its copies and notice are acknowledged, and CLOSED rises (R354). -/
def State.itinClose (s : State) (e : Nat) : State :=
  let u := s.itinSent e
  match u.itin.run? e with
  | some r =>
    if r.phase != 4 || !r.sent || !r.copies.isEmpty || !r.notes.isEmpty then u
    else
      let v := u.updRun e (fun x => { x with phase := 5 })
      { v with itin := { v.itin with closed := v.itin.closed + 1 } }
  | none => u

/-- The task of an entry ended by a fault (R353). -/
def State.itinTaskEnded (s : State) (i : Nat × Nat) (cause : Nat) : State :=
  if i.1 == s.itin.serial then s.itinBreak i.2 cause else s

/-- The bubble counters of one cycle of die 0 (R356), while the engine is RUNNING, after an ITSTOP and a later ITGO too (log entry
81). -/
def Itin.bubble (t : Itin) : Itin :=
  if t.st != 2 || t.runs.any (fun r => r.2.phase == 2) then t
  else if t.runs.any (fun r => r.2.phase == 1 || r.2.phase == 3) then { t with counters := t.counters.bump 3 1 }
  else if eKind (t.d1 t.next) == 3 then t
  else
    match t.failing with
    | 2 => { t with counters := t.counters.bump 0 1 }
    | 3 => { t with counters := t.counters.bump 1 1 }
    | 4 | 5 => { t with counters := t.counters.bump 2 1 }
    | _ => t

/-- The operations of the engine that nothing has answered (R359). -/
def Itin.unanswered (t : Itin) : List EngineOp := t.strays ++ (t.runs.map (fun e => e.2.copies ++ e.2.notes ++ e.2.rets)).flatten

/-- A reset of the engine at ITGO (R349); its operations that nothing has answered stay on their way (R359). -/
def Itin.restart (t : Itin) : Itin :=
  { t with
    serial := t.serial + 1, strays := t.unanswered
    st := 2, next := 0, runs := [], act := [], grad := [], dnfree := t.dnas, upfree := t.upgs, pushes := 0, pops := 0, stash := 0,
    counters := [], closed := 0, fcause := 0, cut := false, gone := false }

/-- The engine without a table (R346). -/
def Itin.empty (t : Itin) : Itin :=
  { t.restart with st := 0, owner := none, hdr := [], ents := [], dnfree := 0, upfree := 0 }

end Machine
end Sys2Proof
end

