-- ==== Sys2Proof/Machine/AluInt.lean ====
section
/-!
DEFINITION. Integer instructions of the quads (07_quad_compute R145 to R150).
-/
namespace Sys2Proof.Machine

open Sys2Proof

/-! ### The effect of the formats (R145) -/

/-- An R form with one destination register: `f l` in each active lane whose guard is true. -/
def aluR (s : State) (a : RArgs) (f : Quad → Nat → Word) : Result :=
  .next (s.onQuad (fun q => (q.writeLanes (q.guarded a) a.d.toNat (f q)).advance a.b.size))

/-- An R form with a destination pair. -/
def aluR64 (s : State) (a : RArgs) (f : Quad → Nat → W64) : Result :=
  .next (s.onQuad (fun q => (q.writePairs (q.guarded a) a.d.toNat (f q)).advance a.b.size))

/-- An R form whose F takes a, b and the old destination. -/
def aluF (s : State) (a : RArgs) (f : Word → Word → Word → Word) : Result :=
  aluR s a (fun q l => f (q.reg l a.a.toNat) (q.src l a.b) (q.reg l a.d.toNat))

/-- The same over pairs. -/
def aluF64 (s : State) (a : RArgs) (f : W64 → W64 → W64) : Result :=
  aluR64 s a (fun q l => f (q.pair l a.a.toNat) (q.src64 l a.b))

/-- An I form with one destination register, in every active lane. -/
def aluI (s : State) (a : IArgs) (f : Word → Word → Word) : Result :=
  .next (s.onQuad (fun q =>
    (q.writeLanes q.active a.d.toNat (fun l => f (q.reg l a.a.toNat) (a.imm.signExtend 32))).advance 1))

/-! ### Functions of Tables 7-1 to 7-3 -/

/-- Arithmetic shift right. -/
def sarWord (a : Word) (n : Nat) : Word := a.sshiftRight n

/-- The high word of the signed product. -/
def mulHigh (a b : Word) : Word := ((a.signExtend 64 * b.signExtend 64).extractLsb' 32 32)

/-- The high word of the unsigned product. -/
def mulHighU (a b : Word) : Word := ((a.setWidth 64 * b.setWidth 64).extractLsb' 32 32)

/-- d + Σ of the four byte products, signed or unsigned. -/
def dot4 (sgn : Bool) (a b d : Word) : Word :=
  let ext := fun (x : Word) (i : Nat) => if sgn then (x.extractLsb' (8 * i) 8).signExtend 32 else (x.extractLsb' (8 * i) 8).setWidth 32
  d + ext a 0 * ext b 0 + ext a 1 * ext b 1 + ext a 2 * ext b 2 + ext a 3 * ext b 3

/-- Number of 1 bits. -/
def popCount (a : Word) : Word := BitVec.ofNat 32 ((List.range 32).filter (fun i => a.getLsbD i)).length

/-- Leading zeros; 32 for 0. -/
def leadingZeros (a : Word) : Word := BitVec.ofNat 32 (if a = 0 then 32 else 31 - a.toNat.log2)

/-- Bit reversal. -/
def bitReverse (a : Word) : Word :=
  BitVec.ofNat 32 (((List.range 32).map (fun i => if a.getLsbD (31 - i) then 2 ^ i else 0)).foldl (· + ·) 0)

/-- Position and width of BFX and BFI (R148). -/
def fieldPos (b : Word) : Nat := bits b.toNat 4 0
def fieldWidth (b : Word) : Nat := min (bits b.toNat 10 5) 32

/-- BFX (R148). -/
def fieldExtract (a b : Word) : Word := (a >>> fieldPos b) &&& BitVec.ofNat 32 (2 ^ fieldWidth b - 1)

/-- BFI (R148). -/
def fieldInsert (a b d : Word) : Word :=
  let m : Word := BitVec.ofNat 32 ((2 ^ fieldWidth b - 1) * 2 ^ fieldPos b)
  (d &&& ~~~m) ||| ((a <<< fieldPos b) &&& m)

/-! ### R147, Table 7-1 -/

/-- 0x01 IADD. -/
def execIadd (a : RArgs) (s : State) : Result := aluF s a (fun x y _ => x + y)
/-- 0x02 ISUB. -/
def execIsub (a : RArgs) (s : State) : Result := aluF s a (fun x y _ => x - y)
/-- 0x03 IMUL. -/
def execImul (a : RArgs) (s : State) : Result := aluF s a (fun x y _ => x * y)
/-- 0x04 IMULH. -/
def execImulh (a : RArgs) (s : State) : Result := aluF s a (fun x y _ => mulHigh x y)
/-- 0x05 IMULHU. -/
def execImulhu (a : RArgs) (s : State) : Result := aluF s a (fun x y _ => mulHighU x y)
/-- 0x06 IMAD. -/
def execImad (a : RArgs) (s : State) : Result := aluF s a (fun x y d => x * y + d)
/-- 0x07 IDP4. -/
def execIdp4 (a : RArgs) (s : State) : Result := aluF s a (dot4 true)
/-- 0x08 IDP4U. -/
def execIdp4u (a : RArgs) (s : State) : Result := aluF s a (dot4 false)
/-- 0x09 AND. -/
def execIand (a : RArgs) (s : State) : Result := aluF s a (fun x y _ => x &&& y)
/-- 0x0A OR. -/
def execIor (a : RArgs) (s : State) : Result := aluF s a (fun x y _ => x ||| y)
/-- 0x0B XOR. -/
def execIxor (a : RArgs) (s : State) : Result := aluF s a (fun x y _ => x ^^^ y)
/-- 0x0C ANDN. -/
def execAndn (a : RArgs) (s : State) : Result := aluF s a (fun x y _ => x &&& ~~~y)
/-- 0x0D SHL. -/
def execShl (a : RArgs) (s : State) : Result := aluF s a (fun x y _ => x <<< (y.toNat % 32))
/-- 0x0E SHR. -/
def execShr (a : RArgs) (s : State) : Result := aluF s a (fun x y _ => x >>> (y.toNat % 32))
/-- 0x0F SAR. -/
def execSar (a : RArgs) (s : State) : Result := aluF s a (fun x y _ => sarWord x (y.toNat % 32))
/-- 0x10 IMIN. -/
def execImin (a : RArgs) (s : State) : Result := aluF s a (fun x y _ => if x.sle y then x else y)
/-- 0x11 IMAX. -/
def execImax (a : RArgs) (s : State) : Result := aluF s a (fun x y _ => if x.sle y then y else x)
/-- 0x12 UMIN. -/
def execUmin (a : RArgs) (s : State) : Result := aluF s a (fun x y _ => if x.ule y then x else y)
/-- 0x13 UMAX. -/
def execUmax (a : RArgs) (s : State) : Result := aluF s a (fun x y _ => if x.ule y then y else x)
/-- 0x14 POPC. -/
def execPopc (a : RArgs) (s : State) : Result := aluF s a (fun x _ _ => popCount x)
/-- 0x15 CLZ. -/
def execClz (a : RArgs) (s : State) : Result := aluF s a (fun x _ _ => leadingZeros x)
/-- 0x16 BREV. -/
def execBrev (a : RArgs) (s : State) : Result := aluF s a (fun x _ _ => bitReverse x)
/-- 0x17 BFX. -/
def execBfx (a : RArgs) (s : State) : Result := aluF s a (fun x y _ => fieldExtract x y)
/-- 0x18 BFI. -/
def execBfi (a : RArgs) (s : State) : Result := aluF s a fieldInsert
/-- 0x19 SEL: every active lane is written, by its guard. -/
def execSel (a : RArgs) (s : State) : Result :=
  .next (s.onQuad (fun q => (q.writeLanes q.active a.d.toNat
    (fun l => if q.guard l a.gn a.gp then q.reg l a.a.toNat else q.src l a.b)).advance a.b.size))
/-- 0x1A MOV. -/
def execMov (a : RArgs) (s : State) : Result := aluF s a (fun _ y _ => y)

/-! ### R149, Table 7-2 -/

/-- 0x1B ADD64. -/
def execAdd64 (a : RArgs) (s : State) : Result := aluF64 s a (fun x y => x + y)
/-- 0x1C SUB64. -/
def execSub64 (a : RArgs) (s : State) : Result := aluF64 s a (fun x y => x - y)
/-- 0x1D MADW: a literal is used as written. -/
def execMadw (a : RArgs) (s : State) : Result :=
  aluR64 s a (fun q l => (q.reg l a.a.toNat).setWidth 64 * (q.src l a.b).setWidth 64 + q.pair l a.d.toNat)
/-- 0x1E SHL64. -/
def execShl64 (a : RArgs) (s : State) : Result :=
  aluR64 s a (fun q l => q.pair l a.a.toNat <<< ((q.src l a.b).toNat % 64))
/-- 0x1F SHR64. -/
def execShr64 (a : RArgs) (s : State) : Result :=
  aluR64 s a (fun q l => q.pair l a.a.toNat >>> ((q.src l a.b).toNat % 64))

/-! ### R150, Table 7-3 -/

/-- 0x20 IADDI. -/
def execIaddi (a : IArgs) (s : State) : Result := aluI s a (fun x i => x + i)
/-- 0x21 ANDI. -/
def execAndi (a : IArgs) (s : State) : Result := aluI s a (fun x i => x &&& i)
/-- 0x22 ORI. -/
def execOri (a : IArgs) (s : State) : Result := aluI s a (fun x i => x ||| i)
/-- 0x23 XORI. -/
def execXori (a : IArgs) (s : State) : Result := aluI s a (fun x i => x ^^^ i)
/-- 0x24 SHLI. -/
def execShli (a : IArgs) (s : State) : Result := aluI s a (fun x i => x <<< (i.toNat % 32))
/-- 0x25 SHRI. -/
def execShri (a : IArgs) (s : State) : Result := aluI s a (fun x i => x >>> (i.toNat % 32))
/-- 0x26 SARI. -/
def execSari (a : IArgs) (s : State) : Result := aluI s a (fun x i => sarWord x (i.toNat % 32))
/-- 0x27 ADD64I. -/
def execAdd64i (a : IArgs) (s : State) : Result :=
  .next (s.onQuad (fun q =>
    (q.writePairs q.active a.d.toNat (fun l => q.pair l a.a.toNat + a.imm.signExtend 64)).advance 1))
/-- 0x28 MOVI. -/
def execMovi (a : IArgs) (s : State) : Result := aluI s a (fun _ i => i)

end Sys2Proof.Machine
end

