-- ==== Sys2Proof/Machine/AluPred.lean ====
section
/-!
DEFINITION. Compares, predicates and exchange between lanes (07_quad_compute R151 to R155).
-/
namespace Sys2Proof.Machine

open Sys2Proof

/-! ### R151, R152 -/

/-- A P form: the condition of each active lane is combined with the old predicate (R59, R151); `f` also gives the flags
of a lane. -/
def cmpP (s : State) (a : PArgs) (f : Quad → Nat → Bool × Nat) : Result :=
  .next (s.onQuad (fun q =>
    let r := q.writePreds q.active a.pd.toNat (fun l => combine a.cmb (q.pred l a.pd.toNat) (f q l).1)
    (r.flag ((q.active.map (fun l => (f q l).2)).foldl (· ||| ·) 0)).advance a.b.size))

/-- 0x30 ICMP. -/
def execIcmp (a : PArgs) (s : State) : Result :=
  cmpP s a (fun q l => (ccHolds a.cc (q.reg l a.a.toNat) (q.src l a.b), 0))
/-- 0x31 ICMP64. -/
def execIcmp64 (a : PArgs) (s : State) : Result :=
  cmpP s a (fun q l => (ccHolds a.cc (q.pair l a.a.toNat) (q.src64 l a.b), 0))
/-- 0x32 FCMP. -/
def execFcmp (a : PArgs) (s : State) : Result :=
  cmpP s a (fun q l => fcmp a.cc.toNat (q.reg l a.a.toNat).toNat (q.src l a.b).toNat)

/-! ### R153, Table 7-4 -/

/-- The predicate that a source field names. -/
def Quad.predSrc (q : Quad) (l : Nat) (b : Src) : Bool :=
  match b with
  | .reg n => q.pred l n.toNat
  | .lit _ => false

/-- A predicate form with a predicate destination. -/
def predR (s : State) (a : RArgs) (f : Quad → Nat → Bool) : Result :=
  .next (s.onQuad (fun q => (q.writePreds (q.guarded a) a.d.toNat (f q)).advance 1))

/-- 0x33 PAND. -/
def execPand (a : RArgs) (s : State) : Result := predR s a (fun q l => q.pred l a.a.toNat && q.predSrc l a.b)
/-- 0x34 POR. -/
def execPor (a : RArgs) (s : State) : Result := predR s a (fun q l => q.pred l a.a.toNat || q.predSrc l a.b)
/-- 0x35 PXOR. -/
def execPxor (a : RArgs) (s : State) : Result := predR s a (fun q l => q.pred l a.a.toNat ^^ q.predSrc l a.b)
/-- 0x36 PNOT. -/
def execPnot (a : RArgs) (s : State) : Result := predR s a (fun q l => !q.pred l a.a.toNat)
/-- 0x37 PTOV. -/
def execPtov (a : RArgs) (s : State) : Result := aluR s a (fun q l => if q.pred l a.a.toNat then 1 else 0)
/-- 0x38 VTOP. -/
def execVtop (a : RArgs) (s : State) : Result := predR s a (fun q l => q.reg l a.a.toNat != 0)

/-! ### R154, R155 -/

/-- 0x39 SHFQ: each lane reads the A register of lane b[1:0] of its own quad. -/
def execShfq (a : RArgs) (s : State) : Result := aluR s a (fun q l => q.reg ((q.src l a.b).toNat % 4) a.a.toNat)

/-- The quads of the issuer's gang that stand in the rendezvous once the issuer has arrived, with what each brought. In a
halted workgroup no quad waits at one (R155), but for the origin in its handler. -/
def Issue.present (i : Issue) (vals : List Nat) : List (Nat × Quad × List Nat) :=
  (i.w.gangQuads (i.q / 8)).filterMap (fun e =>
    if e.1 == i.q then some (e.1, e.2, vals)
    else match e.2.await, i.w.halt with
      | some ⟨.rendezvous v, _, _⟩, none => some (e.1, e.2, v)
      | _, _ => none)

/-- A gang rendezvous (R155, R171): the quad waits until every live quad of its gang does; at one address the instruction
completes in each of them by `f`, and the gang is unparted; at different addresses the lowest quad raises
REGANG_MISMATCH. -/
def rendezvous (s : State) (vals : Quad → List Nat)
    (f : List (Nat × List Nat) → Quad → Quad) : Result :=
  match s.issuer with
  | none => .next s
  | some i =>
    let here := i.present (vals i.x)
    if here.length ≠ (i.w.gangQuads (i.q / 8)).length || i.w.halt.any (fun h => h.stage != .handler) then
      .next (s.waitAt i (.rendezvous (vals i.x)))
    else
      match here.find? (fun e => e.2.1.cl.pc != i.x.cl.pc) with
      | some _ =>
        match here with
        | (q, x, _) :: _ => .next (s.raise i.k q (whole cREGANG_MISMATCH x.cl.pc x.mask) x.cl x.sup false)
        | [] => .next s
      | none =>
        let got := here.map (fun e => (e.1, e.2.2))
        let others := (here.map (·.1)).filter (fun q => q != i.q)
        let t := here.foldl (fun s e =>
          s.updQuad i.k e.1 (fun x => let y := f got x; if e.1 == i.q then y else y.completed s.nextId false false y.resume.isSome)) s
        .next (t.updWg i.k (fun w => { w with gangs := Tab.set ⟨false, [], 0⟩ w.gangs (i.q / 8) ⟨false, others, s.nextId⟩ }))

/-- 0x3A SHFG: lane L takes the A value of gang lane index b[4:0]; 0 where that quad is not live. -/
def execShfg (a : RArgs) (s : State) : Result :=
  rendezvous s (fun q => lanes.map (fun l => (q.reg l a.a.toNat).toNat))
    (fun got q =>
      (q.writeLanes (q.guarded a) a.d.toNat (fun l =>
        let n := (q.src l a.b).toNat % 32
        match got.find? (fun e => e.1 % 8 == n / 4) with
        | some e => BitVec.ofNat 32 (e.2.getD (n % 4) 0)
        | none => 0)).advance a.b.size)

/-- 0x3B VOTE: bit i of the ballot is 1 when gang lane i is active, its guard true and its A value nonzero. -/
def execVote (a : RArgs) (s : State) : Result :=
  rendezvous s (fun q => lanes.map (fun l => if (q.guarded a).contains l && q.reg l a.a.toNat != 0 then 1 else 0))
    (fun got q =>
      let ballot := (got.map (fun e => ((List.range 4).map (fun l => e.2.getD l 0 * 2 ^ (4 * (e.1 % 8) + l))).foldl (· + ·) 0)).foldl (· + ·) 0
      (q.writeLanes (q.guarded a) a.d.toNat (fun _ => BitVec.ofNat 32 ballot)).advance 1)

end Sys2Proof.Machine
end

