-- ==== Sys2Proof/Machine/AluFloat.lean ====
section
/-!
DEFINITION. Floating point, packed arithmetic, conversions, packers and modular arithmetic (07_quad_compute R156 to R166).
-/
namespace Sys2Proof.Machine

open Sys2Proof

/-- The flags of several lanes, together (R143). -/
def flagsOf (fs : List Nat) : Nat := fs.foldl (· ||| ·) 0

/-- An R form with one destination register whose F gives a pattern and flags from a, b and d. -/
def floatR (s : State) (a : RArgs) (f : Nat → Nat → Nat → Nat × Nat) : Result :=
  .next (s.onQuad (fun q =>
    let g := fun l => f (q.reg l a.a.toNat).toNat (q.src l a.b).toNat (q.reg l a.d.toNat).toNat
    ((q.writeLanes (q.guarded a) a.d.toNat (fun l => BitVec.ofNat 32 (g l).1)).flag
      (flagsOf ((q.guarded a).map (fun l => (g l).2)))).advance a.b.size))

/-- A function within a bound (R158): each lane uses a free value of its own. -/
def approxR (s : State) (a : RArgs) (f : Nat → Nat → Nat × Nat) : Result :=
  .next ({ s.onQuad (fun q =>
    let g := fun l => f (Config.freeNat (s.free + l)) (q.reg l a.a.toNat).toNat
    ((q.writeLanes (q.guarded a) a.d.toNat (fun l => BitVec.ofNat 32 (g l).1)).flag
      (flagsOf ((q.guarded a).map (fun l => (g l).2)))).advance a.b.size) with free := s.free + 4 })

/-- An R form whose sources and destination are groups. -/
def groupR (s : State) (a : RArgs) (m n : Nat) (f : Nat → Nat × Nat) : Result :=
  .next (s.onQuad (fun q =>
    let g := fun l => f (q.group l a.a.toNat m)
    ((q.writeGroups (q.guarded a) a.d.toNat n (fun l => (g l).1)).flag
      (flagsOf ((q.guarded a).map (fun l => (g l).2)))).advance a.b.size))

/-! ### R156 to R159 -/

/-- 0x40 FADD. -/
def execFadd (a : RArgs) (s : State) : Result := floatR s a (fun x y _ => F32.add x y)
/-- 0x41 FSUB. -/
def execFsub (a : RArgs) (s : State) : Result := floatR s a (fun x y _ => F32.sub x y)
/-- 0x42 FMUL. -/
def execFmul (a : RArgs) (s : State) : Result := floatR s a (fun x y _ => F32.mul x y)
/-- 0x43 FFMA. -/
def execFfma (a : RArgs) (s : State) : Result := floatR s a (fun x y d => F32.fma x y d)
/-- 0x44 FMIN. -/
def execFmin (a : RArgs) (s : State) : Result := floatR s a (fun x y _ => fminmax false x y)
/-- 0x45 FMAX. -/
def execFmax (a : RArgs) (s : State) : Result := floatR s a (fun x y _ => fminmax true x y)
/-- 0x46 FABS. -/
def execFabs (a : RArgs) (s : State) : Result := floatR s a (fun x _ _ => fsign (fun v => v % 2 ^ 31) x)
/-- 0x47 FNEG. -/
def execFneg (a : RArgs) (s : State) : Result := floatR s a (fun x _ _ => fsign (fun v => (v + 2 ^ 31) % 2 ^ 32) x)
/-- 0x48 FRCP. -/
def execFrcp (a : RArgs) (s : State) : Result := approxR s a frcp
/-- 0x49 FRSQ. -/
def execFrsq (a : RArgs) (s : State) : Result := approxR s a frsq
/-- 0x4A FSQRT. -/
def execFsqrt (a : RArgs) (s : State) : Result := floatR s a (fun x _ _ => fsqrt x)
/-- 0x4B FEXP2. -/
def execFexp2 (a : RArgs) (s : State) : Result := approxR s a fexp2
/-- 0x4C FLOG2. -/
def execFlog2 (a : RArgs) (s : State) : Result := approxR s a flog2
/-- 0x4D FTANH. -/
def execFtanh (a : RArgs) (s : State) : Result := approxR s a ftanh
/-- 0x4E FSCALE: b is an S32 integer. -/
def execFscale (a : RArgs) (s : State) : Result := floatR s a (fun x y _ => fscale x (signed 32 y))
/-- 0x4F FRND, in every active lane. -/
def execFrnd (a : IArgs) (s : State) : Result :=
  .next (s.onQuad (fun q =>
    let g := fun l => frnd (bits a.imm.toNat 1 0) (q.reg l a.a.toNat).toNat
    ((q.writeLanes q.active a.d.toNat (fun l => BitVec.ofNat 32 (g l).1)).flag
      (flagsOf (q.active.map (fun l => (g l).2)))).advance 1))

/-! ### R160 -/

/-- Two 16-bit elements of a register, each computed alone. -/
def both (f : Nat → Nat → Nat → Nat × Nat) (a b d : Nat) : Nat × Nat :=
  let lo := f (a % 2 ^ 16) (b % 2 ^ 16) (d % 2 ^ 16)
  let hi := f (a / 2 ^ 16) (b / 2 ^ 16) (d / 2 ^ 16)
  (lo.1 + hi.1 * 2 ^ 16, lo.2 ||| hi.2)

/-- 0x50 HADD2. -/
def execHadd2 (a : RArgs) (s : State) : Result := floatR s a (both (fun x y _ => F16.add x y))
/-- 0x51 HMUL2. -/
def execHmul2 (a : RArgs) (s : State) : Result := floatR s a (both (fun x y _ => F16.mul x y))
/-- 0x52 HFMA2. -/
def execHfma2 (a : RArgs) (s : State) : Result := floatR s a (both F16.fma)
/-- 0x53 BADD2. -/
def execBadd2 (a : RArgs) (s : State) : Result := floatR s a (both (fun x y _ => BF16.add x y))
/-- 0x54 BMUL2. -/
def execBmul2 (a : RArgs) (s : State) : Result := floatR s a (both (fun x y _ => BF16.mul x y))
/-- 0x55 BFMA2. -/
def execBfma2 (a : RArgs) (s : State) : Result := floatR s a (both BF16.fma)

/-! ### R161, R162 -/

/-- 0x58 CVT, in every active lane. -/
def execCvt (a : IArgs) (s : State) : Result :=
  .next (s.onQuad (fun q =>
    let i := a.imm.toNat
    let g := fun l => cvt (bits i 3 0) (bits i 7 4) (bits i 9 8) (bit i 10) (q.reg l a.a.toNat).toNat
    ((q.writeLanes q.active a.d.toNat (fun l => BitVec.ofNat 32 (g l).1)).flag
      (flagsOf (q.active.map (fun l => (g l).2)))).advance 1))

/-- Packs `n` F32 patterns, the lowest register first, into elements of a format (R133, R134, R162). -/
def packN (f : Fmt) (n x : Nat) : Nat × Nat :=
  let es := (List.range n).map (fun i => f.convert 0 true (F32.value (x / 2 ^ (32 * i) % 2 ^ 32)))
  (((List.range n).map (fun i => (es.getD i (0, 0)).1 * 2 ^ (f.width * i))).foldl (· + ·) 0, flagsOf (es.map (·.2)))

/-- Unpacks `n` elements of a format to F32 patterns, one register each. -/
def unpackN (f : Fmt) (n x : Nat) : Nat × Nat :=
  let es := (List.range n).map (fun i => F32.convert 0 false (f.value (x / 2 ^ (f.width * i) % 2 ^ f.width)))
  (((List.range n).map (fun i => (es.getD i (0, 0)).1 * 2 ^ (32 * i))).foldl (· + ·) 0, flagsOf (es.map (·.2)))

/-- 0x59 PACKB2. -/
def execPackb2 (a : RArgs) (s : State) : Result := floatR s a (fun x y _ => packN BF16 2 (x + y * 2 ^ 32))
/-- 0x5A PACKH2. -/
def execPackh2 (a : RArgs) (s : State) : Result := floatR s a (fun x y _ => packN F16 2 (x + y * 2 ^ 32))
/-- 0x5B UNPKB2. -/
def execUnpkb2 (a : RArgs) (s : State) : Result := groupR s a 1 2 (unpackN BF16 2)
/-- 0x5C UNPKH2. -/
def execUnpkh2 (a : RArgs) (s : State) : Result := groupR s a 1 2 (unpackN F16 2)
/-- 0x5D PK4E4M3. -/
def execPk4e4m3 (a : RArgs) (s : State) : Result := groupR s a 4 1 (packN E4M3 4)
/-- 0x5E PK4E5M2. -/
def execPk4e5m2 (a : RArgs) (s : State) : Result := groupR s a 4 1 (packN E5M2 4)
/-- 0x5F PK8E2M1. -/
def execPk8e2m1 (a : RArgs) (s : State) : Result := groupR s a 8 1 (packN E2M1 8)
/-- 0x60 PK16E2M3. -/
def execPk16e2m3 (a : RArgs) (s : State) : Result := groupR s a 16 3 (packN E2M3 16)
/-- 0x61 PK16E3M2. -/
def execPk16e3m2 (a : RArgs) (s : State) : Result := groupR s a 16 3 (packN E3M2 16)
/-- 0x62 UPK4E4M3. -/
def execUpk4e4m3 (a : RArgs) (s : State) : Result := groupR s a 1 4 (unpackN E4M3 4)
/-- 0x63 UPK4E5M2. -/
def execUpk4e5m2 (a : RArgs) (s : State) : Result := groupR s a 1 4 (unpackN E5M2 4)
/-- 0x64 UPK8E2M1. -/
def execUpk8e2m1 (a : RArgs) (s : State) : Result := groupR s a 1 8 (unpackN E2M1 8)
/-- 0x65 UPK16E2M3. -/
def execUpk16e2m3 (a : RArgs) (s : State) : Result := groupR s a 3 16 (unpackN E2M3 16)
/-- 0x66 UPK16E3M2. -/
def execUpk16e3m2 (a : RArgs) (s : State) : Result := groupR s a 3 16 (unpackN E3M2 16)

/-! ### R163 -/

/-- The BF16 pattern of a weight. -/
def vqBf16 (entry code j : Nat) : Nat := (BF16.convert 0 false (vqNum entry code j)).1

/-- The eight weights of a code as four BF16 pairs, weight 0 lowest. -/
def vqGroup (book : Tab Word) (code : Nat) : Nat :=
  let e := (Tab.get 0 book (code % 256)).toNat
  ((List.range 8).map (fun j => vqBf16 e code j * 2 ^ (16 * j))).foldl (· + ·) 0

/-- 0x67 VQDEC: CODEBOOK_UNSET ends the unit when no CBLD has loaded the codebook. -/
def execVqdec (a : RArgs) (s : State) : Result :=
  match s.issuer with
  | none => .next s
  | some i =>
    if i.w.mtx.bookSet then groupR s a 1 4 (fun x => (vqGroup i.w.mtx.book (x % 2 ^ 16), 0))
    else .next (s.precise i cCODEBOOK_UNSET)

/-! ### R164 to R166 -/

/-- The bit length of a number. -/
def bitLength (q : Nat) : Nat := if q = 0 then 0 else q.log2 + 1

/-- Is MODB what MODQ requires (R164)? -/
def modulusOk (q b : W64) : Bool := 2 ≤ q.toNat && b.toNat == 2 ^ (2 * bitLength q.toNat) / q.toNat

/-- A modular form: MOD_BAD, precise, when the moduli do not fit (R164); `f` takes q, a and b. -/
def modR (s : State) (a : RArgs) (f : Nat → Nat → Nat → Nat) : Result :=
  match s.issuer with
  | none => .next s
  | some i =>
    if modulusOk i.x.modq i.x.modb then
      aluR64 s a (fun q l => BitVec.ofNat 64 (f q.modq.toNat (q.pair l a.a.toNat).toNat (q.src64 l a.b).toNat))
    else .next (s.precise i cMOD_BAD)

/-- 0x68 ADDM64. -/
def execAddm64 (a : RArgs) (s : State) : Result := modR s a (fun q x y => (x % q + y % q) % q)
/-- 0x69 SUBM64. -/
def execSubm64 (a : RArgs) (s : State) : Result := modR s a (fun q x y => (x % q + q - y % q) % q)
/-- 0x6A MULM64. -/
def execMulm64 (a : RArgs) (s : State) : Result := modR s a (fun q x y => (x % q) * (y % q) % q)

/-- 0x6B NTTBF: D takes x + t and A takes x − t, with t = w × y (R166). -/
def execNttbf (a : RArgs) (s : State) : Result :=
  match s.issuer with
  | none => .next s
  | some i =>
    if !modulusOk i.x.modq i.x.modb then .next (s.precise i cMOD_BAD)
    else
      .next (s.onQuad (fun q =>
        let m := q.modq.toNat
        let x := fun l => (q.pair l a.d.toNat).toNat % m
        let t := fun l => (q.src64 l a.b).toNat % m * ((q.pair l a.a.toNat).toNat % m) % m
        let r := q.writePairs (q.guarded a) a.d.toNat (fun l => BitVec.ofNat 64 ((x l + t l) % m))
        (r.writePairs (q.guarded a) a.a.toNat (fun l => BitVec.ofNat 64 ((x l + m - t l) % m))).advance a.b.size))

end Sys2Proof.Machine
end

