-- ==== Sys2Proof/Machine/Crossbar.lean ====
section
/-!
DEFINITION. The crossbars and the bridges: line accesses on their way to their home slices, and their answers on the way back
(01_device R6 to R11).
-/
namespace Sys2Proof
namespace Machine

/-- A message at a crossbar or a bridge: the line access, the port it comes from, the port it goes to, its tenant and class 0-3,
whether it is an answer (R8, R10), and what crosses a bridge without being a line access of a core. The end of a bridge at a die is
numbered `die*4 +` the other die. -/
structure XMsg where
  op : Nat
  part : Nat
  input : Nat
  output : Nat
  tenant : Nat
  cls : Nat
  answer : Bool
  other : Option Transit
  deriving DecidableEq, Repr

/-! ### Slots (R10) -/

/-- The key of a slot count at a port. -/
def vnKey (port tenant cls : Nat) : Nat := (port * 16 + tenant) * 4 + cls

/-- The tenant of what waits to cross a bridge. -/
def Errand.tenant (e : Errand) : Nat :=
  match e with
  | .leave _ m | .reach m => m.tenant
  | .translate t _ _ => t

/-- Its class. -/
def Errand.cls (e : Errand) : Nat :=
  match e with
  | .leave _ m | .reach m => m.body.cls
  | .translate _ _ _ => 0

/-- Tenants present: those that exist on the module (R10, 21_host_security R367), and those of which it still holds work or a
message (log entry 60). -/
def State.tenantsPresent (s : State) : List Nat :=
  (List.range 16).filter (fun t => s.tdi t == .locked || s.tdi t == .run || s.wgs.any (fun e => e.2.tenant == t) ||
    s.sched.saved.any (fun u => u.wgs.any (fun v => v.wg.tenant == t)) || s.flights.any (fun e => e.2.tenant == t) ||
    s.fab.transit.any (fun x => x.what.tenant == t))

/-- The shared slots that a tenant holds at a port: of each class, all but the reserved one (log entry 60). -/
def sharedOf (held : Tab Nat) (port tenant : Nat) : Nat :=
  ((List.range 4).map (fun c => Tab.get 0 held (vnKey port tenant c) - 1)).foldl (· + ·) 0

/-- Has the tenant's network a free slot of a class at a port, in one direction: its reserved one, or a shared one, of which it may
hold 8? A tenant that is not present has none. -/
def slotFree (present : List Nat) (held : Tab Nat) (port tenant cls : Nat) : Bool :=
  let all := (present.map (sharedOf held port)).foldl (· + ·) 0
  present.contains tenant &&
    (Tab.get 0 held (vnKey port tenant cls) == 0 || (sharedOf held port tenant < 8 && all < 96 - 4 * present.length))

/-- The messages that hold a slot of their input port, the first ones first: the others wait where they are. -/
def slotted (present : List Nat) (ms : List XMsg) : List XMsg :=
  (ms.foldl (fun (p : Tab Nat × List XMsg) m =>
    if slotFree present p.1 m.input m.tenant m.cls then (p.1.bump (vnKey m.input m.tenant m.cls) 1, p.2 ++ [m]) else p) ([], [])).2

/-! ### What wants to cross -/

/-- The class of a line access's answer: its data, or an acknowledgement (R10). -/
def Job.answerCls (j : Job) : Nat :=
  match j.kind with
  | .load | .fetch | .atomic => 1
  | _ => 2

/-- The port of a core on its die's crossbar (R8). -/
def corePort (k : Nat) : Nat := coreIx k % 144

/-- The slice that a line access goes to or is answered from: its home slice, or, once it has been refused for a domain that is
not mapped, its die's first (log entry 60). -/
def State.sliceOf (s : State) (f : Flight) (p : Part) : Option Nat :=
  if p.home.isNone && p.st == .performed then some (f.die % 4 * 48) else s.targetSlice f p

/-- The line accesses of device memory, of each the first part, with their slices. -/
def State.crossing (s : State) : List (Nat × Nat × Flight × Part × Nat) :=
  (s.flights.map (fun e => e.2.parts.filterMap (fun p =>
    if p.2.place == .dev && (s.membersOf e.2 p.2).head? == some (e.1, p.1) then (s.sliceOf e.2 p.2).map (fun h => (e.1, p.1, e.2, p.2, h))
    else none))).flatten

/-- May a line access leave its core now, with the others of its gang? -/
def State.setsOut (s : State) (f : Flight) (p : Part) : Bool :=
  (!s.isSaved f.uid || f.job == .word) && s.mayAll (s.membersOf f p)

/-- The message of a line access that waits to cross the crossbar of die `die`, that of its home slice: a request from its core's
port, or from across a bridge, where what an STO or a release carries must be met before it goes on (17_fabric R330), or an answer.
One from another die takes the port of its core's number (log entry 60). -/
def State.xbarMessage (s : State) (die : Nat) (x : Nat × Nat × Flight × Part × Nat) : Option XMsg :=
  let (id, j, f, p, h) := x
  let core := corePort f.party.wg
  if h / 48 != die then none
  else
    match p.st with
    | .flying => if f.die == die && s.setsOut f p then some ⟨id, j, core, 144 + h % 48, f.tenant, 0, false, none⟩ else none
    | .bridged => if s.bridgeMet f p then some ⟨id, j, core, 144 + h % 48, f.tenant, 0, false, none⟩ else none
    | .performed => if p.left || p.back then none else some ⟨id, j, 144 + h % 48, core, f.tenant, f.job.answerCls, true, none⟩
    | _ => none

/-- The message of a line access that waits to cross a bridge from die `die`: a request to the die of its home slice, or an answer on
its way back. -/
def State.bridgeMessage (s : State) (die : Nat) (x : Nat × Nat × Flight × Part × Nat) : Option XMsg :=
  let (id, j, f, p, h) := x
  let far := h / 48
  if far == f.die then none
  else
    match p.st with
    | .flying => if f.die == die && s.setsOut f p then some ⟨id, j, die * 4 + far, far * 4 + die, f.tenant, 0, false, none⟩ else none
    | .performed =>
      if far == die && p.left && !p.back then some ⟨id, j, die * 4 + f.die, f.die * 4 + die, f.tenant, f.job.answerCls, true, none⟩ else none
    | _ => none

/-- The messages that cross a die's crossbar, between its cores' ports and its slices', 144 to 191. -/
def State.xbarMessages (s : State) (die : Nat) : List XMsg := s.crossing.filterMap (s.xbarMessage die)

/-- The messages that cross the bridges from a die: line accesses, and what else waits there (R6, R15). -/
def State.bridgeMessages (s : State) (die : Nat) : List XMsg :=
  s.crossing.filterMap (s.bridgeMessage die) ++ (s.fab.transit.filter (fun t => t.src == die)).map (fun t =>
    ⟨0, 0, die * 4 + t.dst, t.dst * 4 + die, t.what.tenant, t.what.cls, false, some t⟩)

/-- Does an arrived line access wait for a lane of another route (R226)? It has left its port's slot. -/
def State.waitsTwin (s : State) (f : Flight) (p : Part) : Bool := !(s.twins f p).all s.partsThere

/-- The slots that requests hold at the ports of the home slices they have arrived at. -/
def State.arrivedAt (s : State) (die : Nat) : Tab Nat :=
  (s.crossing.filter (fun x => x.2.2.2.1.st == .arrived && x.2.2.2.2 / 48 == die && !s.waitsTwin x.2.2.1 x.2.2.2.1)).foldl
    (fun t x => t.bump (vnKey (144 + x.2.2.2.2 % 48) x.2.2.1.tenant 0) 1) []

/-- The slots that requests hold at the far ends of bridges; an STO or a release that waits there is in the die's hold store
(17_fabric R330). An answer, and any other message, leaves its slot at once. -/
def State.bridgedAt (s : State) : Tab Nat :=
  (s.crossing.filter (fun x => x.2.2.2.1.st == .bridged && s.bridgeMet x.2.2.1 x.2.2.2.1)).foldl
    (fun t x => t.bump (vnKey (x.2.2.2.2 / 48 * 4 + x.2.2.1.die) x.2.2.1.tenant 0) 1) []

/-! ### Crossing -/

/-- A line access has crossed the crossbar of its home slice: a request arrives there; an answer is at its core, or at the bridge. -/
def State.crossed (s : State) (m : XMsg) : State :=
  match s.part? m.op m.part with
  | none => s
  | some (f, p) =>
    let ms := s.membersOf f p
    if m.answer then s.updParts ms (fun t => { t with left := true, back := (s.sliceOf f p).all (fun h => h / 48 == f.die) })
    else s.updParts ms (fun t => { t with st := .arrived, home := s.sliceOf f p })

/-- A line access has crossed a bridge. -/
def State.crossedBridge (s : State) (m : XMsg) : State :=
  match s.part? m.op m.part with
  | none => s
  | some (f, p) =>
    let ms := s.membersOf f p
    if m.answer then s.updParts ms (fun t => { t with back := true })
    else s.overBridge f ((s.sliceOf f p).getD 0) f.job.ordered ms .bridged

/-- What a crossbar cycle has done so far: the state, what is left of the choice, the slots held at the outputs, the messages left,
those that each input and each output has moved. -/
structure XCycle where
  s : State
  choice : Nat
  held : Tab Nat
  left : List XMsg
  ins : Tab Nat
  outs : Tab Nat

/-- The grant of one output: a requesting input that no requesting input was granted less recently than; among inputs never
granted `choice` decides (R9; log entry 36). A port moves up to four messages in each direction in a cycle (R8). -/
def XCycle.grant (c : XCycle) (present : List Nat) (die output : Nat) : XCycle :=
  let order := Tab.get [] c.s.fab.lrg (die * 192 + output)
  let able := c.left.filter (fun m => m.output == output && Tab.get 0 c.ins m.input < 4 && Tab.get 0 c.outs output < 4 &&
    slotFree present c.held output m.tenant m.cls)
  let fresh := able.filter (fun m => !order.contains m.input)
  let pick := match fresh with
    | [] => order.findSome? (fun i => able.find? (fun m => m.input == i))
    | m :: _ => some (fresh.getD (c.choice % fresh.length) m)
  match pick with
  | none => c
  | some m =>
    let t := c.s.crossed m
    { s := { t with fab := { t.fab with lrg := Tab.set [] t.fab.lrg (die * 192 + output) (order.filter (· != m.input) ++ [m.input]) } }
      choice := if fresh.isEmpty then c.choice else c.choice / fresh.length
      held := if m.answer then c.held else c.held.bump (vnKey output m.tenant m.cls) 1
      left := c.left.filter (fun x => x != m)
      ins := c.ins.bump m.input 1
      outs := c.outs.bump output 1 }

end Machine
end Sys2Proof
end

