-- ==== Sys2Proof/Machine/Mem.lean ====
section
/-!
DEFINITION. Loads, stores, releases and acquires, atomics, gather and scatter, scratchpad, private memory, lane copies,
fences and WAITV (10_memory_ops R226 to R251).
-/
namespace Sys2Proof.Machine

open Sys2Proof

/-! ### M format (R234) -/

/-- A load of `bytes` bytes into `regs` registers. -/
def loadM (a : MArgs) (bytes regs : Nat) (sext : Bool) (s : State) : Result :=
  match s.issuer with
  | none => .next s
  | some i => .next (s.issueRoutes i (.load bytes sext none) none
      (i.x.active.map (fun l => ⟨l, i.x.route l a bytes, bytes, 0, 0, 0⟩)) [] a.d.toNat regs a.la.toNat 1 6 true)

/-- A store of the low `bytes` bytes of `regs` registers; LA has no effect (R66). -/
def storeM (a : MArgs) (bytes regs : Nat) (job : Job) (s : State) : Result :=
  match s.issuer with
  | none => .next s
  | some i => .next (s.issueRoutes i job none
      (i.x.active.map (fun l => ⟨l, i.x.route l a bytes, bytes, i.x.group l a.d.toNat regs % 2 ^ (8 * bytes), 0, 0⟩))
      [] 0 0 0 1 6 false)

/-- 0x80 LD8. -/
def execLd8 (a : MArgs) (s : State) : Result := loadM a 1 1 false s
/-- 0x81 LD8S. -/
def execLd8s (a : MArgs) (s : State) : Result := loadM a 1 1 true s
/-- 0x82 LD16. -/
def execLd16 (a : MArgs) (s : State) : Result := loadM a 2 1 false s
/-- 0x83 LD16S. -/
def execLd16s (a : MArgs) (s : State) : Result := loadM a 2 1 true s
/-- 0x84 LD32. -/
def execLd32 (a : MArgs) (s : State) : Result := loadM a 4 1 false s
/-- 0x85 LD64. -/
def execLd64 (a : MArgs) (s : State) : Result := loadM a 8 2 false s
/-- 0x86 LD128. -/
def execLd128 (a : MArgs) (s : State) : Result := loadM a 16 4 false s
/-- 0x87 ST8. -/
def execSt8 (a : MArgs) (s : State) : Result := storeM a 1 1 .store s
/-- 0x88 ST16. -/
def execSt16 (a : MArgs) (s : State) : Result := storeM a 2 1 .store s
/-- 0x89 ST32. -/
def execSt32 (a : MArgs) (s : State) : Result := storeM a 4 1 .store s
/-- 0x8A ST64. -/
def execSt64 (a : MArgs) (s : State) : Result := storeM a 8 2 .store s
/-- 0x8B ST128. -/
def execSt128 (a : MArgs) (s : State) : Result := storeM a 16 4 .store s
/-- 0x8C STO (R235). -/
def execSto (a : MArgs) (s : State) : Result := storeM a 4 1 .sto s

/-! ### A format (R236 to R242) -/

/-- Does an ORD give release order? -/
def isRelease (ord : BitVec 2) : Bool := ord.getLsbD 1

/-- Towards SYS a release waits for the quad's counters to be zero and its loads to have returned (R239). -/
def State.sysReady (s : State) (i : Issue) (scope : Nat) : Bool :=
  scope != 5 || (i.x.uad == 0 && i.x.uap == 0 && s.outstandingLoads i.w.uid (.quad i.k i.q) == 0)

/-- May a release issue: every earlier operation of the quad's Q2, Q3, Q4 and Q6 is performed, and what SYS asks
for holds (R21, R239)? -/
def State.releaseReady (s : State) (i : Issue) (scope : Nat) : Bool :=
  s.drained i.w.uid (.quad i.k i.q) releaseMask i.x.sup && s.sysReady i scope

/-- May a release access issue (R230): its earlier operations of Q4 and Q6 have entered? Those of Q2 and Q3 it waits for until it is
performed (log entry 19). -/
def State.relMayIssue (s : State) (i : Issue) (scope : Nat) : Bool :=
  s.drained i.w.uid (.quad i.k i.q) entryMask i.x.sup && s.sysReady i scope

/-- An A-format access: a release waits for what it covers, the destination is written with no lookahead (R241). A host-half
atomic acts at SYS (R242). -/
def accessA (a : AArgs) (bytes regs : Nat) (job : Job) (rel pending : Bool) (data cmp : Quad → Nat → Nat)
    (s : State) : Result :=
  match s.issuer with
  | none => .next s
  | some i =>
    let host := job.kind == .atomic && i.x.active.any (fun l => !isDev (i.x.pair l a.a.toNat))
    if rel && !s.relMayIssue i (if host then 5 else a.scope.toNat) then .next (s.waitAt i .stall)
    else .next (s.issueRoutes i job (some a.scope.toNat)
      (i.x.active.map (fun l => ⟨l, i.x.pair l a.a.toNat, bytes, data i.x l, cmp i.x l, 0⟩))
      [] a.d.toNat regs 0 1 6 pending)

/-- The scope of an A-format access as an acquire, and as a release. -/
def acqOf (a : AArgs) : Option Nat := if a.ord.getLsbD 0 then some a.scope.toNat else none
def relOf (a : AArgs) : Option Nat := if isRelease a.ord then some a.scope.toNat else none

/-- An atomic on 4 or 8 bytes: b is v[B], the comparand of ACAS is v[D]. -/
def atomicA (a : AArgs) (op : AtomicOp) (regs : Nat) (s : State) : Result :=
  accessA a (4 * regs) regs (.atomic op (acqOf a) (relOf a)) (isRelease a.ord) true
    (fun q l => q.group l a.b.toNat regs) (fun q l => q.group l a.d.toNat regs) s

/-- 0x8D LDAQ. -/
def execLdaq (a : AArgs) (s : State) : Result := accessA a 4 1 (.load 4 false (acqOf a)) false true (fun _ _ => 0) (fun _ _ => 0) s
/-- 0x8E STRL. -/
def execStrl (a : AArgs) (s : State) : Result :=
  accessA a 4 0 (.strl (relOf a)) (isRelease a.ord) false
    (fun q l => (q.reg l a.d.toNat).toNat) (fun _ _ => 0) s
/-- 0x8F AXCHG. -/
def execAxchg (a : AArgs) (s : State) : Result := atomicA a .xchg 1 s
/-- 0x90 ACAS. -/
def execAcas (a : AArgs) (s : State) : Result := atomicA a .cas 1 s
/-- 0x91 AADD. -/
def execAadd (a : AArgs) (s : State) : Result := atomicA a .add 1 s
/-- 0x92 AMIN. -/
def execAmin (a : AArgs) (s : State) : Result := atomicA a .min 1 s
/-- 0x93 AMAX. -/
def execAmax (a : AArgs) (s : State) : Result := atomicA a .max 1 s
/-- 0x94 AAND. -/
def execAand (a : AArgs) (s : State) : Result := atomicA a .and 1 s
/-- 0x95 AOR. -/
def execAor (a : AArgs) (s : State) : Result := atomicA a .or 1 s
/-- 0x96 AXOR. -/
def execAxor (a : AArgs) (s : State) : Result := atomicA a .xor 1 s
/-- 0x97 AFADD. -/
def execAfadd (a : AArgs) (s : State) : Result := atomicA a .fadd 1 s
/-- 0x98 AXCHG64. -/
def execAxchg64 (a : AArgs) (s : State) : Result := atomicA a .xchg 2 s
/-- 0x99 ACAS64. -/
def execAcas64 (a : AArgs) (s : State) : Result := atomicA a .cas 2 s
/-- 0x9A AADD64. -/
def execAadd64 (a : AArgs) (s : State) : Result := atomicA a .add 2 s

/-! ### Gather and scatter (R243) -/

/-- Does a lane's address leave the base's extent, or its cell when the base is a name? -/
def offSpan (base r : W64) : Bool :=
  isDev base &&
    (if 0xC0 ≤ dlOf base && dlOf base ≤ 0xCF then base.toNat / 2 ^ 7 != r.toNat / 2 ^ 7
     else base.toNat / 2 ^ 21 != r.toNat / 2 ^ 21)

/-- GLD and GST: the base is the pair A of the lowest active guarded lane; each such lane accesses base + v[B]. -/
def gather (a : RArgs) (job : Job) (regs : Nat) (pending : Bool) (data : Quad → Nat → Nat) (s : State) : Result :=
  match s.issuer with
  | none => .next s
  | some i =>
    let ls := i.x.guarded a
    let base := i.x.pair (ls.headD 0) a.a.toNat
    let r := fun l => base + (i.x.src l a.b).setWidth 64
    let out := (ls.filter (fun l => offSpan base (r l))).map (fun l => (l, (⟨cGATHER_SPAN, 4, xlOf (r l)⟩ : Refuse), r l))
    .next (s.issueRoutes i job none (ls.map (fun l => ⟨l, r l, 4, data i.x l, 0, 0⟩)) out a.d.toNat regs 0 a.b.size 6 pending (some base))

/-- 0x9B GLD. -/
def execGld (a : RArgs) (s : State) : Result := gather a (.load 4 false none) 1 true (fun _ _ => 0) s
/-- 0x9C GST. -/
def execGst (a : RArgs) (s : State) : Result := gather a .store 0 false (fun q l => (q.reg l a.d.toNat).toNat) s

/-! ### Scratchpad (R244, R245) -/

/-- A scratchpad access of `bytes` bytes. -/
def scratchM (a : MArgs) (bytes regs : Nat) (job : Job) (pending : Bool) (data : Quad → Nat → Nat) (s : State) : Result :=
  match s.issuer with
  | none => .next s
  | some i => .next (s.issueScratch i job
      (i.x.active.map (fun l => ⟨l, BitVec.ofNat 64 (i.x.scratchAddr l a bytes), bytes, data i.x l, 0, 0⟩))
      a.d.toNat regs a.la.toNat 1 pending)

/-- 0x9D LDS. -/
def execLds (a : MArgs) (s : State) : Result := scratchM a 4 1 (.load 4 false none) true (fun _ _ => 0) s
/-- 0x9E STS. -/
def execSts (a : MArgs) (s : State) : Result := scratchM a 4 0 .store false (fun q l => q.group l a.d.toNat 1) s
/-- 0x9F LDS128. -/
def execLds128 (a : MArgs) (s : State) : Result := scratchM a 16 4 (.load 16 false none) true (fun _ _ => 0) s
/-- 0xA0 STS128. -/
def execSts128 (a : MArgs) (s : State) : Result := scratchM a 16 0 .store false (fun q l => q.group l a.d.toNat 4) s
/-- 0xA1 LSET. -/
def execLset (a : MArgs) (s : State) : Result := scratchM a 128 0 (.lset true) false (fun _ _ => 0) s
/-- 0xA2 LCLR. -/
def execLclr (a : MArgs) (s : State) : Result := scratchM a 128 0 (.lset false) false (fun _ _ => 0) s

/-! ### Private memory (R246) -/

/-- The lane-precise faults of a private access: ALIGN, then PRIVATE_BOUND. -/
def Issue.privFaults (i : Issue) (a : MArgs) : List LaneFault :=
  i.x.active.filterMap (fun l =>
    let v := i.x.privAddr l a
    if v % 4 != 0 then some (l, ⟨cALIGN, 15, 0⟩, BitVec.ofNat 64 v)
    else if i.w.pwords * 4 ≤ v then some (l, ⟨cPRIVATE_BOUND, 7, 0⟩, BitVec.ofNat 64 v) else none)

/-- 0xA3 LDP: the word is read at issue, and written to D under its window; it is a load, and holds a transaction entry (R233),
one for all its lanes, whatever their words (log entry 76). -/
def execLdp (a : MArgs) (s : State) : Result :=
  match s.issuer with
  | none => .next s
  | some i =>
    let fs := i.privFaults a
    let go := i.x.active.filter (fun l => !fs.any (fun f => f.1 == l))
    let acc := fun l => (⟨l, BitVec.ofNat 64 (i.x.privAddr l a), 4, 0, 0,
      (Tab.get 0 i.x.priv (l * 512 + i.x.privAddr l a / 4)).toNat⟩ : Access)
    let ps : Tab Part := [(0, { Part.fresh .priv (go.map acc) (s.nextId, 0) none true with st := .performed })]
    if !go.isEmpty && !s.room i (.load 4 false none) ps then .next (s.waitAt i .stall)
    else
      let t := if go.isEmpty then s.updQuad i.k i.q (·.advance 1)
        else s.enter i (.load 4 false none) a.d.toNat 1 a.la.toNat 1 6 go ps true
      .next (s.raiseLanes t i fs)

/-- 0xA4 STP: performed at issue; no store-buffer entry, no counter. -/
def execStp (a : MArgs) (s : State) : Result :=
  match s.issuer with
  | none => .next s
  | some i =>
    let fs := i.privFaults a
    let go := i.x.active.filter (fun l => !fs.any (fun f => f.1 == l))
    let put := fun (p : Tab Word) (l : Nat) => Tab.set 0 p (l * 512 + i.x.privAddr l a / 4) (i.x.reg l a.d.toNat)
    .next (s.raiseLanes (s.updQuad i.k i.q (fun x => { x with priv := go.foldl put x.priv }.advance 1)) i fs)

/-! ### Lane copies (R247, R248) -/

/-- CPL of `size` bytes: ALIGN of both addresses, level 0 of the source for the instruction as a whole, the destination's
scratchpad checks lane by lane; a source in the host half that cannot be translated ends the unit. -/
def laneCopy (a : RArgs) (size : Nat) (s : State) : Result :=
  match s.issuer with
  | none => .next s
  | some i =>
    let ls := i.x.guarded a
    let src := fun l => i.x.pair l a.a.toNat
    let dst := fun l => (i.x.reg l a.d.toNat).toNat
    let chk := fun l => s.scratchCheck i.k i.w (dst l)
    let odd := ls.filter (fun l => (src l).toNat % size == 0 && dst l % size != 0)
    let out := ls.filter (fun l => dst l % size == 0 && (chk l).toOption.isNone)
    let pre : List LaneFault := odd.map (fun l => (l, ⟨cALIGN, 15, 0⟩, BitVec.ofNat 64 (dst l))) ++
      out.filterMap (fun l => match chk l with
        | .error c => some (l, ⟨c, 6, bits (dst l) 25 21⟩, BitVec.ofNat 64 (dst l))
        | .ok _ => none)
    let into := ls.filterMap (fun l => match chk l with
      | .ok (m, off) => some (l, m, ((s.wg? m).map (fun w => w.gen)).getD 0, off)
      | .error _ => none)
    let as := (ls.filter (fun l => !odd.contains l)).map (fun l => (⟨l, src l, size, 0, 0, 0⟩ : Access))
    let host := as.filter (fun x => x.addr.toNat % size == 0 && hostBad x.addr && !pre.any (fun f => f.1 == x.key))
    let level0 := as.any (fun x => x.addr.toNat % size == 0 && (s.level0 i.w.tenant .load none x.addr).toOption.isNone)
    match host, level0 with
    | x :: _, false =>
      .next (s.raise i.k i.q ⟨cCOPY_FAULT, 5, cHOST_XLATE, 0, x.addr, maskOf (host.map (·.key)), i.x.cl.pc, false⟩ i.x.cl i.x.sup false)
    | _, _ => .next (s.issueRoutes i (.cpl (s.leadOf i) into) none as pre 0 0 0 1 2 false)

/-- 0xA5 CPL4. -/
def execCpl4 (a : RArgs) (s : State) : Result := laneCopy a 4 s
/-- 0xA6 CPL8. -/
def execCpl8 (a : RArgs) (s : State) : Result := laneCopy a 8 s
/-- 0xA7 CPL16. -/
def execCpl16 (a : RArgs) (s : State) : Result := laneCopy a 16 s

/-! ### Fences and WAITV (R249 to R251) -/

/-- The queues whose operations a FENCE waits for: those of Q4 and Q6, which enter before it issues whatever its kind (R230), and of
Q2 and Q3 those that hold accesses of its kind: an STN or RLQ is no load (R249). -/
def fenceMask (kind : BitVec 2) : Nat := if kind.toNat == 1 then 0x54 else releaseMask

/-- 0xAA FENCE: the quad waits at the fence (log entry 19); towards SYS a fence that acts as a release also waits for the
acknowledgements (R239, R249). -/
def execFence (scope : BitVec 3) (kind : BitVec 2) (s : State) : Result :=
  match s.issuer with
  | none => .next s
  | some i =>
    if s.drained i.w.uid (.quad i.k i.q) (fenceMask kind) i.x.sup && s.sysReady i (if kind.toNat == 1 then 0 else scope.toNat) then .next (s.updQuad i.k i.q (·.advance 1))
    else .next (s.waitAt i .stall)

/-- Has every counted store of the quad whose route leaves the module been sent, so that a path count holds it (18_program_flag
R342)? -/
def State.allSent (s : State) (uid : Nat) (p : Party) : Bool :=
  (s.opsOf uid p).all (fun e => !e.2.job.counted || e.2.parts.all (fun t => t.2.place != .remote || t.2.st == .away || t.2.st == .performed))

/-- 0xAB FENCEA: completes when the quad's counters are zero; with paths named, when theirs are and every store has been sent
on its path (R250, 18_program_flag R342). -/
def execFencea (scope : BitVec 3) (paths : BitVec 4) (s : State) : Result :=
  match s.issuer with
  | none => .next s
  | some i =>
    let done := if paths != 0 then
        s.allSent i.w.uid (.quad i.k i.q) && (List.range 4).all (fun n => !paths.getLsbD n || Tab.get 0 i.x.path n == 0)
      else i.x.uad == 0 && (scope.toNat < 3 || i.x.uap == 0)
    if done then .next (s.updQuad i.k i.q (·.advance 1)) else .next (s.waitAt i .other)

/-- 0xAC WAITV: once for the quad, with the route and comparand of its lowest active lane. The read returns as
WAITV_READ_RETURN, which ends the wait or makes it again. -/
def execWaitv (a c : BitVec 6) (cc : BitVec 3) (s : State) : Result :=
  match s.issuer with
  | none => .next s
  | some i =>
    let l := i.x.lowest
    let r := i.x.pair l a.toNat
    let lane := fun (e : Refuse) => s.raise i.k i.q ⟨e.cause, e.level, 0, e.label, r, maskOf [l], i.x.cl.pc, false⟩ i.x.cl i.x.sup false
    let running := (s.opsOf i.w.uid (.quad i.k i.q)).any (fun e => i.x.standsIn e.1)
    if running then .next s
    else if r.toNat % 4 != 0 then .next (lane ⟨cALIGN, 15, 0⟩)
    else
      match s.level0 i.w.tenant .load none r with
      | .error e => .next (s.preciseAt i e r)
      | .ok _ =>
        let job := Job.waitv cc (i.x.reg l c.toNat)
        if hostBad r then .next (lane ⟨cHOST_XLATE, 5, 0⟩)
        else
          let ps : Tab Part := [(0, s.partOf i.w.tenant (dieOf i.k) ⟨l, r, 4, 0, 0, 0⟩)]
          let f : Flight := ⟨i.w.uid, .quad i.k i.q, 6, job, i.w.tenant, dieOf i.k, i.x.cl, i.x.sup, 0, 0, maskOf [l], ps, [], false⟩
          if !s.room i job ps then .next (s.waitAt i .stall)
          else
            .next ((s.launch f).updQuad i.k i.q (fun x =>
              { x with cl := x.cl.issued, await := some ⟨.waitv s.nextId r cc (i.x.reg l c.toNat), 0, (s.csr (dieOf i.k) i.w.tenant).waitcap.toNat⟩ }))

end Sys2Proof.Machine
end

