-- ==== Sys2Proof/Machine/Hamper.lean ====
section
/-!
DEFINITION. The hamper: stores without an address, relinquish, counts of free cells (13_hamper R260 to R272).
-/
namespace Sys2Proof.Machine

open Sys2Proof

/-! ### Pools (R260, R261, R265) -/

/-- The present extents of a tenant's valid pool regions on a stack, as (region 0-3, XL). -/
def State.poolExtents (s : State) (tenant stack : Nat) : List (Nat × Nat) :=
  match s.pool tenant stack with
  | none => []
  | some p =>
    ((List.range 4).map (fun r =>
      let g := s.region stack (p + r)
      if rgV g && rgOwner g == tenant then
        ((List.range (rgLimit g)).filter (fun x => xtP (s.extent stack (rgXbase g + x)))).map (fun x => (r, x))
      else [])).flatten

/-- The allocated cells of a pool extent. -/
def State.usedIn (s : State) (tenant stack : Nat) (e : Nat × Nat) : List Nat :=
  let lo := (tenant * 16 + stack) * 2 ^ 28 + e.1 * 2 ^ 24 + e.2 * 2 ^ 14
  (s.tab.cells.filter (fun c => lo ≤ c.1 && c.1 < lo + 2 ^ 14 && c.2.used)).map (fun c => c.1 - lo)

/-- Size of a pool in cells (R261). -/
def State.poolSize (s : State) (tenant stack : Nat) : Nat := 16384 * (s.poolExtents tenant stack).length

/-- Free cells of a pool. -/
def State.poolFree (s : State) (tenant stack : Nat) : Nat :=
  ((s.poolExtents tenant stack).map (fun e => 16384 - (s.usedIn tenant stack e).length)).foldl (· + ·) 0

/-- May an STN of the tenant on the die use the stack (R265)? -/
def State.poolDomainOk (s : State) (tenant stack : Nat) : Bool :=
  let d := s.domain tenant (0xC0 + stack)
  d.getLsbD 0 && d.getLsbD 5 && stackOfDomain d == stack && d.getLsbD 2 &&
    !(d.getLsbD 20 && s.tdi (bits d.toNat 19 16) != .run)

/-- The extents that can take an STN of the tenant: on a stack of the die, in a region that grants W and whose key is not
destroyed, with a free cell. -/
def State.placeable (s : State) (tenant die : Nat) : List (Nat × Nat × Nat) :=
  ((List.range 4).map (fun j =>
    let stack := 4 * die + j
    if s.poolDomainOk tenant stack then
      ((s.poolExtents tenant stack).filter (fun e =>
        (s.regionCheck tenant stack ((s.pool tenant stack).getD 0 + e.1) e.2 .store).toOption.isSome &&
          (s.usedIn tenant stack e).length < 16384)).map (fun e => (stack, e))
    else [])).flatten

/-- The `n`-th cell of an extent that is not among the used ones, which rise. -/
def nthFree (used : List Nat) (n : Nat) : Nat :=
  match used with
  | [] => n
  | u :: r => nthFree r (if u ≤ n then n + 1 else n)

/-- The placement unit's choice: a free value among the free cells of every eligible stack (R265; which one is not
promised). -/
def State.placeName (s : State) (tenant die : Nat) : Option (Nat × Nat) :=
  let es := s.placeable tenant die
  match es with
  | [] => none
  | e0 :: _ =>
    let (stack, r, x) := es.getD (s.pick es.length) e0
    let used := s.usedIn tenant stack (r, x)
    some (stack, r * 2 ^ 24 + x * 2 ^ 14 + nthFree used (Config.freeNat (s.free + 1) % (16384 - used.length)))

/-- The 128 bytes of an STN: lane l's registers D to D + 7 at bytes 32 l up, whatever the mask (R264). -/
def Quad.block (q : Quad) (d : Nat) : Nat :=
  (lanes.map (fun l => q.group l d 8 * 2 ^ (256 * l))).foldl (· + ·) 0

/-- The quad's earlier Q3 operations are performed (R20). -/
def State.q3Clear (s : State) (i : Issue) : Bool := s.drained i.w.uid (.quad i.k i.q) 8 i.x.sup

/-- 0xA8 STN: the placement unit takes a cell, and its data sets out for it as a line access; its name follows as STN_NAME_WRITE, and
performs it, once the quad's earlier Q3 operations are performed (R19, R20). A pool that one of these may still fill is empty only
after them. -/
def execStn (a : MArgs) (s : State) : Result :=
  match s.issuer with
  | none => .next s
  | some i =>
    match s.placeName i.w.tenant (dieOf i.k) with
    | none =>
      if !s.q3Clear i then .next (s.waitAt i .stall)
      else .next (s.raise i.k i.q ⟨cNAME_POOL_EMPTY, 3, 0, 0, 0, i.x.mask, i.x.cl.pc, false⟩ i.x.cl i.x.sup false)
    | some (stack, c) =>
      let g := (s.cell i.w.tenant stack c).gen
      let name := mkName (s.selfpl i.w.tenant).toNat stack c g.toNat
      let p := Part.fresh .dev [⟨0, name, 128, i.x.block a.d.toNat, 0, 0⟩] (s.nextId, lineIn .dev name) none true
      .next ((({ s with free := s.free + 2 } : State).setCell i.w.tenant stack c ⟨true, g⟩).enter i (.stn name.toNat) a.a.toNat 2
        a.la.toNat 1 3 i.x.active [(0, p)] true)

/-- 0xA9 RLQ: each distinct name once; the checks of R267 at issue are precise. -/
def execRlq (a : MArgs) (s : State) : Result :=
  match s.issuer with
  | none => .next s
  | some i =>
    let name := fun l => i.x.pair l a.a.toNat
    match s.nameFault i.w.tenant (fun _ => none) (i.x.active.map name) with
    | some (n, r) => .next (s.preciseAt i r n)
    | none =>
      let once := i.x.active.filter (fun l => !i.x.active.any (fun m => m < l && name m == name l))
      .next (s.issueRoutes i .rlq none (once.map (fun l => ⟨l, name l, 128, 0, 0, 0⟩)) [] 0 0 0 1 3 false)

/-- 0xAD HFREE: nothing when no active lane's guard is true; else it waits for the quad's earlier Q3 operations, and
HFREE_PERFORMED writes its result. -/
def execHfree (a : RArgs) (s : State) : Result :=
  match s.issuer with
  | none => .next s
  | some i =>
    match i.x.guarded a with
    | [] => .next (s.updQuad i.k i.q (·.advance 1))
    | l :: ls =>
      let v := (i.x.reg l a.a.toNat).toNat
      let running := (s.opsOf i.w.uid (.quad i.k i.q)).any (fun e => match e.2.job with
        | .hfree _ _ => true
        | _ => false)
      if running then .next s
      else if 16 ≤ v then .next (s.precise i cILL_FIELD)
      else if !s.q3Clear i then .next (s.waitAt i .stall)
      else
        let f : Flight := ⟨i.w.uid, .quad i.k i.q, 3, .hfree v a.d.toNat, i.w.tenant, dieOf i.k, i.x.cl, i.x.sup,
          i.x.phys a.d.toNat, 2, maskOf (l :: ls), [], [], false⟩
        .next ((s.launch f).waitAt i .other)

/-- HFREE_PERFORMED: the base die has read its counts; the result goes to every active lane whose guard is true (R269). -/
def execHfreePerformed (wg quad : Nat) (s : State) : Result :=
  match s.wg? wg, s.quad? wg quad with
  | some w, some x =>
    match (s.opsOf w.uid (.quad wg quad)).find? (fun e => match e.2.job with
      | .hfree _ _ => true
      | _ => false) with
    | none => .next s
    | some (id, f) =>
      match f.job with
      | .hfree stack d =>
        if x.cl.issued != f.pos.issued then .next s
        else
          let v := BitVec.ofNat 32 (s.poolSize w.tenant stack) ++ BitVec.ofNat 32 (s.poolFree w.tenant stack)
          let t := (s.updQuad wg quad (fun q => (q.writePairs (lanesOf f.lanes) d (fun _ => v)).advance 1)).retire id
          .next (t.settleQuad s wg quad false)
      | _ => .next s
  | _, _ => .next s

end Sys2Proof.Machine
end

