-- ==== Sys2Proof/Machine/Itinerary.lean ====
section
/-!
DEFINITION. The instructions of the itinerary engine and its events (19_itinerary R347 to R360).
-/
namespace Sys2Proof.Machine

open Sys2Proof

/-! ### ITOUT and ITDONE (R352) -/

/-- The entry index that an active guarded lane names, or none when its register has a reserved bit set. -/
def entryIndex (v : Word) : Option Nat := if v.toNat < 256 then some v.toNat else none

/-- May names be handed to the entry: a table of the tenant, the entry started and not finished? -/
def State.entryOpen (s : State) (tenant e : Nat) : Bool :=
  s.itin.owner == some tenant &&
    (match s.itin.run? e with
      | some r => !r.done
      | none => false)

/-- Is the engine of the tenant failed by a lost peer (R358)? -/
def State.peerGone (s : State) (tenant : Nat) : Bool :=
  s.itin.owner == some tenant && s.itin.st == 5 && s.itin.gone

/-- A name outside the pool domains. -/
def poolCheck (n : W64) : Option Refuse :=
  if dlOf n < 0xC0 || 0xCF < dlOf n then some ⟨cDOMAIN_PERM, 2, dlOf n⟩ else none

/-- IT_PEER_LOST of an ITOUT or ITDONE: TLEVEL 1 (R358, Table 5-1). -/
def State.peerLost (s : State) (i : Issue) : State := s.preciseAt i ⟨cIT_PEER_LOST, 1, 0⟩ 0

/-- 0xAE ITOUT: the names of the active guarded lanes, in lane order, all or none. -/
def execItout (a : RArgs) (s : State) : Result :=
  match s.issuer with
  | none => .next s
  | some i =>
    match i.x.guarded a with
    | [] => .next (s.updQuad i.k i.q (·.advance a.b.size))
    | l0 :: ls =>
      let names := (l0 :: ls).map (fun l => i.x.pair l a.a.toNat)
      match entryIndex (i.x.src l0 a.b) with
      | none => .next (s.precise i cILL_FIELD)
      | some e =>
        match s.nameFault i.w.tenant poolCheck names with
        | some (n, r) => .next (s.preciseAt i r n)
        | none =>
          if i.x.idem.isSome then .next (s.precise i cIDEM_NEST)
          else if s.peerGone i.w.tenant then .next (s.peerLost i)
          else if !s.entryOpen i.w.tenant e then .next (s.precise i cIT_TABLE_BAD)
          else
            let d := s.itin.d1 e
            let held := ((s.itin.run? e).map (fun r => r.names.length)).getD 0
            if eOutn d < held + names.length then
              .next (s.precise i (if eSd d || eSu d then cIT_SEAT_OVF else cIT_STASH_OVF))
            else .next ((s.updRun e (fun r => { r with names := r.names ++ names })).updQuad i.k i.q (·.advance a.b.size))

/-- 0xAF ITDONE: the entry of the lowest active guarded lane is finished. -/
def execItdone (a : RArgs) (s : State) : Result :=
  match s.issuer with
  | none => .next s
  | some i =>
    match i.x.guarded a with
    | [] => .next (s.updQuad i.k i.q (·.advance a.b.size))
    | l0 :: _ =>
      match entryIndex (i.x.src l0 a.b) with
      | none => .next (s.precise i cILL_FIELD)
      | some e =>
        if i.x.idem.isSome then .next (s.precise i cIDEM_NEST)
        else if s.peerGone i.w.tenant then .next (s.peerLost i)
        else if !s.entryOpen i.w.tenant e then .next (s.precise i cIT_TABLE_BAD)
        else .next ((s.updRun e (fun r => { r with done := true })).updQuad i.k i.q (·.advance a.b.size))

/-! ### ITLD, ITGO, ITSTOP (R347 to R349) -/

/-- An instruction that the engine performs as Q5_OPERATION_PERFORMED: the quad waits for it. -/
def toEngine (ins : Instr) (s : State) : Result :=
  match s.issuer with
  | none => .next s
  | some i => .next (s.waitAt i (.q5 ins))

/-- 0xC6 ITLD: a route that is not 0 must be local and 64-byte aligned. -/
def execItld (a : LArgs) (s : State) : Result :=
  match s.issuer with
  | none => .next s
  | some i =>
    let r := i.x.pair i.x.lowest a.a.toNat
    if r != 0 && (!s.isLocal i.w.tenant r || r.toNat % 64 != 0) then .next (s.precise i cILL_FIELD)
    else toEngine (.itld a) s

/-- 0xC7 ITGO. -/
def execItgo (a : LArgs) (s : State) : Result := toEngine (.itgo a) s

/-- 0xC8 ITSTOP. -/
def execItstop (a : LArgs) (s : State) : Result := toEngine (.itstop a) s

/-- The table that an image describes, not yet started (R343). -/
def Itin.loaded (t : Itin) (own : Nat) (img : List Nat) : Itin :=
  { t.empty with
    owner := some own
    st := 1
    hdr := (img.take 5).map (BitVec.ofNat 64)
    ents := (List.range (bits (img.headD 0) 63 56 + 1)).map (fun e =>
      (BitVec.ofNat 64 (img.getD (8 + 4 * e) 0), BitVec.ofNat 64 (img.getD (9 + 4 * e) 0))) }

/-- Reads an image: the header, then its entries (R343, R348). -/
def State.readImage (s : State) (tenant : Nat) (r : W64) : Except Refuse (List Nat) :=
  match s.readDwords tenant r 8 with
  | .error e => .error e
  | .ok h => (s.readDwords tenant (r + 64) (4 * (bits (h.headD 0) 63 56 + 1))).map (fun es => h ++ es)

/-- What the engine answers to an instruction: a status and the engine afterwards, or a refused read, or a precise cause. -/
inductive EngineAnswer where
  | status (v : Nat) (t : Itin)
  | refused (r : Refuse)
  | cause (c : Nat)

/-- ITLD (R347, R348). -/
def State.itld (s : State) (tenant : Nat) (r : W64) : EngineAnswer :=
  let t := s.itin
  if t.owner.any (fun o => o != tenant) then .status 2 t
  else if t.owner == some tenant && (t.st == 2 || !t.open.isEmpty) then .status 1 t
  else if r == 0 then .status 0 t.empty
  else
    match s.readImage tenant r with
    | .error e => .refused e
    | .ok img => if s.imageBad tenant img then .cause cIT_TABLE_BAD else .status 0 (t.loaded tenant img)

/-- ITGO (R347, R349, R360; 21_host_security R376 for an engine that is not ready). -/
def Itin.go (t : Itin) (tenant : Nat) (ready : Bool) : EngineAnswer :=
  if t.owner != some tenant || t.st == 0 || t.st == 5 then .cause cIT_TABLE_BAD
  else if t.hostMark || !ready then .status 3 t
  else if t.st == 2 then .status 1 t
  else if t.st == 3 then .status 0 { t with st := 2 }
  else .status 0 t.restart

/-- ITSTOP. -/
def Itin.stop (t : Itin) (tenant : Nat) : EngineAnswer :=
  if t.owner == some tenant && t.st == 2 then .status 0 { t with st := 3 } else .status 1 t

/-- Q5_OPERATION_PERFORMED: the engine performs the instruction that the quad waits on, and its status goes to v[D] of
every active lane (R347). -/
def execQ5OperationPerformed (wg quad : Nat) (s : State) : Result :=
  match s.wg? wg, s.quad? wg quad with
  | some w, some x =>
    let finish := fun (d : BitVec 6) (ans : EngineAnswer) =>
      match ans with
      | .status v t =>
        let u : State := { s with itin := t }
        (u.updQuad wg quad (fun q => (q.writeLanes q.active d.toNat (fun _ => BitVec.ofNat 32 v)).advance 1)).settleQuad s wg quad false
      | .refused r =>
        let f : FaultInfo := ⟨r.cause, r.level, 0, r.label, x.pair x.lowest (match x.await with
          | some ⟨.q5 (.itld a), _, _⟩ => a.a.toNat
          | _ => 0), maskOf [x.lowest], x.cl.pc, false⟩
        (s.updQuad wg quad (fun q => { q with await := none })).raise wg quad f x.cl x.sup false
      | .cause c =>
        (s.updQuad wg quad (fun q => { q with await := none })).raise wg quad (whole c x.cl.pc x.mask) x.cl x.sup false
    match x.await with
    | some ⟨.q5 (.itld a), _, _⟩ => .next (finish a.d (s.itld w.tenant (x.pair x.lowest a.a.toNat)))
    | some ⟨.q5 (.itgo a), _, _⟩ => .next (finish a.d (s.itin.go w.tenant (s.isReady (20 * 32))))
    | some ⟨.q5 (.itstop a), _, _⟩ => .next (finish a.d (s.itin.stop w.tenant))
    | _ => .next s
  | _, _ => .next s

/-! ### ITSTAT (R357) -/

/-- Does the selector read v[A]? -/
def statReads (sel : Nat) (wait : Bool) : Bool := sel == 6 || sel == 7 || (sel == 1 && wait)

/-- Table 19-6 for the owner. -/
def Itin.stat (t : Itin) (sel : Nat) (v : Nat) : Nat :=
  let full := fun (x : Tab Seat) => (x.filter (fun e => e.2.st == 1)).length
  match sel with
  | 0 => t.st + t.next * 2 ^ 8 + t.fcause * 2 ^ 16 + full t.act * 2 ^ 32 + full t.grad * 2 ^ 36 + t.dnfree * 2 ^ 40 +
      t.upfree * 2 ^ 44 + t.stash * 2 ^ 48
  | 1 => t.closed
  | 6 => ((t.run? (v % 256)).map (fun r => r.start)).getD 0
  | 7 => ((t.run? (v % 256)).map (fun r => r.finish)).getD 0
  | n => Tab.get 0 t.counters (n - 2)

/-- Does the condition of ITSTAT.WAIT hold? -/
def Itin.statDone (t : Itin) (sel : Nat) (v : Nat) : Bool :=
  if sel == 0 then t.st != 2 && (t.st != 3 || t.open.isEmpty) else v ≤ t.closed || t.st == 5

/-- May ITSTAT end for this quad: it does not wait, another tenant owns the engine, or its condition holds? -/
def State.statReady (s : State) (tenant : Nat) (a : IArgs) (v : Word) : Bool :=
  !bit a.imm.toNat 8 || s.itin.owner != some tenant || s.itin.statDone (bits a.imm.toNat 7 0) v.toNat

/-- The effect of ITSTAT: the value in every active lane; 0 for a tenant that is not the owner. -/
def State.statWrite (s : State) (k q : Nat) (tenant : Nat) (a : IArgs) (v : Word) : State :=
  let r := if s.itin.owner == some tenant then s.itin.stat (bits a.imm.toNat 7 0) v.toNat else 0
  s.updQuad k q (fun q => (q.writePairs q.active a.d.toNat (fun _ => BitVec.ofNat 64 r)).advance 1)

/-- 0xC9 ITSTAT. -/
def execItstat (a : IArgs) (s : State) : Result :=
  match s.issuer with
  | none => .next s
  | some i =>
    let sel := bits a.imm.toNat 7 0
    let wait := bit a.imm.toNat 8
    let v := i.x.reg i.x.lowest a.a.toNat
    let limit := if sel == 1 then 512 else 256
    if statReads sel wait && limit ≤ v.toNat then .next (s.precise i cILL_FIELD)
    else if s.statReady i.w.tenant a v then .next (s.statWrite i.k i.q i.w.tenant a v)
    else .next (s.waitAt i (.itstat a))

/-- ITSTAT_WAIT_COMPLETE: the condition holds, and the value is read then. -/
def execItstatWaitComplete (wg quad : Nat) (s : State) : Result :=
  match s.wg? wg, s.quad? wg quad with
  | some w, some x =>
    match x.await with
    | some ⟨.itstat a, _, _⟩ =>
      let v := x.reg x.lowest a.a.toNat
      if w.goesOn quad && s.statReady w.tenant a v then .next ((s.statWrite wg quad w.tenant a v).settleQuad s wg quad false)
      else .next s
    | _ => .next s
  | _, _ => .next s

/-! ### The engine's own steps -/

/-- ITINERARY_ENTRY_START: the next entry starts once every condition of R350 holds (R351). -/
def execItineraryEntryStart (s : State) : Result := .next s.itinStart

/-- ITINERARY_ENTRY_CLOSED: every copy of the entry is acknowledged, and then its notice (R354). -/
def execItineraryEntryClosed (entry : Nat) (s : State) : Result := .next (s.itinClose entry)

/-- SEAT_FULL_NOTICE from a pod label, under the owner (R355). -/
def execSeatFullNotice (source : Nat) (gradient : Bool) (seat count : Nat) (s : State) : Result :=
  match s.itin.owner with
  | some own => .next (s.seatNotice own source gradient seat count)
  | none => .next s

/-- SEAT_RETURN from a pod label, under the owner (R355). -/
def execSeatReturn (source : Nat) (gradient : Bool) (s : State) : Result :=
  match s.itin.owner with
  | some own => .next (s.seatBack own source gradient)
  | none => .next s

/-- HOST_ITINERARY_RESUME: the host takes its mark back (R360). -/
def execHostItineraryResume (s : State) : Result := .next { s with itin := { s.itin with hostMark := false } }

/-- HOST_ITINERARY_CLEAR: the host clears the tenant's table (R348). -/
def execHostItineraryClear (s : State) : Result := .next { s with itin := { s.itin.empty with hostMark := false } }

end Sys2Proof.Machine
end

