-- ==== Sys2Proof/Machine/Control.lean ====
section
/-!
DEFINITION. Control flow, windows, barriers, sequencers, posting, regions, traps, user CSRs (08_quad_control R167 to R191).
-/
namespace Sys2Proof.Machine

open Sys2Proof

/-! ### Transfers of control (R50, R387) -/

/-- A transfer of the quad to `target`, which must be a clause header; `f` is what else the instruction does. -/
def State.transfer (s : State) (i : Issue) (target : W64) (f : Quad → Quad) : State :=
  match s.targetAt i.w.tenant i.x.got [0, 1, 2, 3] target with
  | .ask => s.askFor (.quad i.k i.q) .fetch target 4 i.x.cl i.x.sup i.x.mask
  | .refused r => s.raise i.k i.q ⟨r.cause, r.level, 0, r.label, target, i.x.mask, i.x.cl.pc, true⟩ i.x.cl i.x.sup false
  | .bad => s.precise i cBR_TARGET
  | .header h => s.updQuad i.k i.q (fun x => { f x with cl := Cl.enter target h, await := none, got := [] })

/-- The lanes whose branch condition holds (R169). -/
def Quad.holding (q : Quad) (a : BArgs) : List Nat := q.active.filter (fun l => q.guard l a.pn a.p)

/-- The pair `n` of the lowest active lane, when the active lanes agree on it. -/
def Quad.common (q : Quad) (f : Nat → W64) : Option W64 :=
  let v := f q.lowest
  if q.active.all (fun l => f l == v) then some v else none

/-- 0xB0 BR. -/
def execBr (a : BArgs) (s : State) : Result :=
  match s.issuer with
  | none => .next s
  | some i =>
    let c := i.x.holding a
    let all := c.length == i.x.active.length
    let taken := if a.mode.toNat = 0 then !c.isEmpty else all
    if a.mode.toNat = 2 && !c.isEmpty && !all then .next (s.precise i cBR_UNIFORM)
    else if taken then .next (s.transfer i (i.x.cl.target a.off) id)
    else .next (s.updQuad i.k i.q (·.advance 1))

/-- 0xB1 BRD: the failing lanes run first (R171). -/
def execBrd (a : BArgs) (s : State) : Result :=
  match s.issuer with
  | none => .next s
  | some i =>
    let t := maskOf (i.x.holding a)
    let n := i.x.mask &&& ~~~t
    let target := i.x.cl.target a.off
    if 8 ≤ i.x.recon.length then .next (s.precise i cRECONV_OVF)
    else if n != 0 then
      .next (s.updQuad i.k i.q (fun x => { x with recon := ⟨x.mask, t, target⟩ :: x.recon, mask := n }.advance 1))
    else .next (s.transfer i target (fun x => { x with recon := ⟨x.mask, 0, target⟩ :: x.recon, mask := t }))

/-- 0xB2 JOIN (R172). -/
def execJoin (off : BitVec 16) (s : State) : Result :=
  match s.issuer with
  | none => .next s
  | some i =>
    let target := i.x.cl.target off
    match i.x.recon with
    | [] => .next (s.transfer i target id)
    | e :: rest =>
      if e.pm != 0 then .next (s.transfer i e.ppc (fun x => { x with mask := e.pm, recon := { e with pm := 0 } :: rest }))
      else .next (s.transfer i target (fun x => { x with mask := e.m, recon := rest }))

/-- 0xB3 JMPR (R174). -/
def execJmpr (a : BitVec 6) (s : State) : Result :=
  match s.issuer with
  | none => .next s
  | some i =>
    match i.x.common (fun l => i.x.pair l a.toNat) with
    | some t => .next (s.transfer i t id)
    | none => .next (s.precise i cBR_UNIFORM)

/-! ### Windows (R175 to R178) -/

/-- A call to `target`: the link in the caller's window, in all four lanes; the frame; the base (R177). -/
def callTo (i : Issue) (slide : Nat) (target : W64) (s : State) : Result :=
  if 64 ≤ i.x.frames.length || 448 < i.x.depth + 2 * slide then
    .next (s.raise i.k i.q ⟨cWIN_SPILL, 7, 0, 0, 0, i.x.mask, i.x.cl.pc, false⟩ i.x.cl i.x.sup false)
  else
    let ret := i.x.cl.hdr + BitVec.ofNat 64 (4 * (i.x.cl.idx + i.x.cl.rem))
    .next (s.transfer i target (fun x =>
      { (x.writePairs lanes (2 * slide - 2) (fun _ => ret)).push (2 * slide) with frames := slide :: x.frames }))

/-- 0xB4 CALL. -/
def execCall (slide : BitVec 5) (off : BitVec 16) (s : State) : Result :=
  match s.issuer with
  | none => .next s
  | some i => callTo i slide.toNat (i.x.cl.target off) s

/-- 0xB5 CALLR. -/
def execCallr (slide : BitVec 5) (a : BitVec 6) (s : State) : Result :=
  match s.issuer with
  | none => .next s
  | some i =>
    match i.x.common (fun l => i.x.pair l a.toNat) with
    | some t => callTo i slide.toNat t s
    | none => .next (s.precise i cBR_UNIFORM)

/-- The link of a lane: the physical pair just below the window. -/
def Quad.link (q : Quad) (l : Nat) : W64 :=
  Tab.get 0 q.regs (l * 256 + (q.depth - 1) % 256) ++ Tab.get 0 q.regs (l * 256 + (q.depth - 2) % 256)

/-- 0xB6 RET (R178). -/
def execRet (s : State) : Result :=
  match s.issuer with
  | none => .next s
  | some i =>
    match i.x.frames with
    | [] => .next (s.precise i cWIN_UNDER)
    | sl :: rest =>
      match i.x.common i.x.link with
      | none => .next (s.precise i cBR_UNIFORM)
      | some t => .next (s.transfer i t (fun x => { x.pop (2 * sl) with frames := rest }))

/-! ### Barriers (R179 to R182) -/

/-- 0xB7 REGANG: the id is part of the instruction at the address. -/
def execRegang (_id : BitVec 8) (s : State) : Result := rendezvous s (fun _ => []) (fun _ q => q.advance 1)

/-- An arrival of the quad at a numbered barrier, a release at WG (R24, R180). -/
def arriveAt (i : Issue) (b : Nat) (then' : State → State) (s : State) : Result :=
  if i.w.barQuads b = 0 || i.w.flag b i.q then .next (s.precise i cBAR_MISUSE)
  else if !s.releaseReady i 0 then .next (s.waitAt i .stall)
  else .next (then' (s.updWg i.k (fun w => w.arrive b i.q)))

/-- 0xB8 BARA. -/
def execBara (b : BitVec 4) (s : State) : Result :=
  match s.issuer with
  | none => .next s
  | some i => arriveAt i b.toNat (fun t => t.updQuad i.k i.q (·.advance 1)) s

/-- 0xB9 BARW: until the phase of the quad's arrival has completed. -/
def execBarw (b : BitVec 4) (s : State) : Result :=
  match s.issuer with
  | none => .next s
  | some i =>
    if i.w.barQuads b.toNat = 0 then .next (s.precise i cBAR_MISUSE)
    else if i.w.flag b.toNat i.q then .next (s.waitAt i .bar)
    else .next (s.updQuad i.k i.q (·.advance 1))

/-- 0xBA BARS: BARA, then BARW. In its wait the arrival stands. -/
def execBars (b : BitVec 4) (s : State) : Result :=
  match s.issuer with
  | none => .next s
  | some i =>
    if i.x.await.any (fun a => a.what == .bar) then
      if i.w.flag b.toNat i.q then .next s else .next (s.updQuad i.k i.q (·.advance 1))
    else arriveAt i b.toNat (fun t =>
      if ((t.wg? i.k).map (fun w => w.flag b.toNat i.q)).getD false then t.waitAt i .bar
      else t.updQuad i.k i.q (·.advance 1)) s

/-- The barrier of a cluster group. -/
def State.cbar (s : State) (unit : Nat) : CBar := Tab.get ⟨none, 0, []⟩ s.sched.cbars unit

/-- Writes it. -/
def State.setCbar (s : State) (unit : Nat) (c : CBar) : State :=
  { s with sched := { s.sched with cbars := Tab.set ⟨none, 0, []⟩ s.sched.cbars unit c } }

/-- The phase completes when every live quad of every member has arrived (R182). -/
def State.cbarCheck (s : State) (unit : Nat) : State :=
  let c := s.cbar unit
  let all := (s.unitWgs unit).all (fun e => e.2.quads.all (fun q => !q.2.live || c.arrived.contains (e.2.wgid, q.1)))
  if all && !c.arrived.isEmpty then s.setCbar unit ⟨none, c.phase + 1, []⟩ else s

/-- 0xBB CBARS: arrive and wait; a release at CLU. -/
def execCbars (id : BitVec 8) (s : State) : Result :=
  match s.issuer with
  | none => .next s
  | some i =>
    let c := s.cbar i.w.unit
    match i.x.await with
    | some ⟨.cbars ph, _, _⟩ => if c.phase == ph then .next s else .next (s.updQuad i.k i.q (·.advance 1))
    | _ =>
      if c.id.any (fun j => j != id.toNat) then .next (s.precise i cBAR_MISUSE)
      else if !s.releaseReady i 1 then .next (s.waitAt i .stall)
      else
        let t := (s.setCbar i.w.unit ⟨some id.toNat, c.phase, c.arrived ++ [(i.w.wgid, i.q)]⟩).cbarCheck i.w.unit
        if (t.cbar i.w.unit).phase == c.phase then .next (t.waitAt i (.cbars c.phase))
        else .next (t.updQuad i.k i.q (·.advance 1))

/-! ### Sequencers (R183, R184) -/

/-- A context started at an entry: k0 is the argument, the other registers are zero (R23). -/
def Seq.begin (entry arg : W64) : Seq :=
  ⟨.started, Cl.start entry, some entry, Tab.set 0 [] 0 arg, [], none, 0, []⟩

/-- 0xBC FORK. -/
def execFork (m c a : BitVec 6) (s : State) : Result :=
  match s.issuer with
  | none => .next s
  | some i =>
    let l := i.x.lowest
    let em := i.x.pair l m.toNat
    let ec := i.x.pair l c.toNat
    let arg := i.x.pair l a.toNat
    let copy := c.toNat != 63
    if em.toNat % 4 != 0 || (copy && ec.toNat % 4 != 0) then .next (s.precise i cBR_TARGET)
    else if i.w.mtx.seq.mode != .idle || i.w.cpy.seq.mode != .idle then .next (s.precise i cBAR_MISUSE)
    else if !s.releaseReady i 0 then .next (s.waitAt i .stall)
    else .next ((s.updWg i.k (fun w => { w with
        mtx := { w.mtx with seq := Seq.begin em arg }
        cpy := if copy then ⟨Seq.begin ec arg, [], 0⟩ else w.cpy })).updQuad i.k i.q (·.advance 1))

/-- A context after RDV: idle again. -/
def Seq.joined (x : Seq) : Seq := { x with mode := .idle }

/-- 0xBD RDV: completes in every waiting quad together. -/
def execRdv (s : State) : Result :=
  match s.issuer with
  | none => .next s
  | some i =>
    let ready := i.w.mtx.seq.mode != .started && i.w.cpy.seq.mode != .started && s.drained i.w.uid (.quad i.k i.q) 3 i.x.sup
    if !ready then .next (s.waitAt i .rdv)
    else
      let t := s.updWg i.k (fun w => { w with
        mtx := { w.mtx with seq := w.mtx.seq.joined }, cpy := { w.cpy with seq := w.cpy.seq.joined } })
      let others := (i.w.quads.filter (fun e => e.1 != i.q && e.2.await.any (fun a => a.what == .rdv))).map (·.1)
      let u := others.foldl (fun u q => (u.updQuad i.k q (·.advance 1)).settleQuad u i.k q false) t
      .next (u.updQuad i.k i.q (·.advance 1))

/-! ### Posting, exit, queues (R185 to R187) -/

/-- The cluster that POST's target names, or none for a bad queue id (R88). -/
def postTarget (k target : Nat) (qid : Word) : Option Nat :=
  let die := dieOf k
  match target with
  | 0 => some (clusterIx k)
  | 1 => some (die * 6 + (clusterOf k + 5) % 6)
  | 2 => some (die * 6 + (clusterOf k + 1) % 6)
  | _ => if qid.toNat < 32 && qid.toNat % 8 < 6 then some (qid.toNat / 8 * 6 + qid.toNat % 8) else none

/-- 0xBE POST: a release at DEV; a full ring makes it wait (R87, R89). -/
def execPost (c : BitVec 6) (target : BitVec 2) (q : BitVec 6) (prio : BitVec 2) (s : State) : Result :=
  match s.issuer with
  | none => .next s
  | some i =>
    let card := i.x.pair i.x.lowest c.toNat
    match postTarget i.k target.toNat (i.x.reg i.x.lowest q.toNat) with
    | none => .next (s.precise i cILL_FIELD)
    | some cl =>
      if card.toNat % 64 != 0 then .next (s.preciseAt i ⟨cALIGN, 15, 0⟩ card)
      else if !s.isLocal i.w.tenant card then .next (s.preciseAt i ⟨cRANGE_PERM, 0, if isDev card then plOf card else 0⟩ card)
      else if !s.releaseReady i 3 then .next (s.waitAt i .stall)
      else if !s.ringRoom cl prio.toNat then .next (s.waitAt i (.ring cl prio.toNat card))
      else .next ((s.enqueue cl prio.toNat card i.w.tenant none).updQuad i.k i.q (·.advance 1))

/-- POST_RING_SPACE: an entry of the ring has become free. -/
def execPostRingSpace (wg quad : Nat) (s : State) : Result :=
  match s.wg? wg, s.quad? wg quad with
  | some w, some x =>
    match x.await with
    | some ⟨.ring cl prio card, _, _⟩ =>
      if w.goesOn quad && s.ringRoom cl prio then
        .next (((s.enqueue cl prio card w.tenant none).updQuad wg quad (·.advance 1)).settleQuad s wg quad false)
      else .next s
    | _ => .next s
  | _, _ => .next s

/-- 0xBF EXIT: it waits, and EXIT_COMPLETE ends the quad (R186). -/
def execExit (s : State) : Result :=
  match s.issuer with
  | none => .next s
  | some i => .next (s.waitAt i .exit)

/-- 0xC0 QFENCE: until the operations that were in the named queues when it issued are performed (R22). -/
def execQfence (mask : BitVec 7) (s : State) : Result :=
  match s.issuer with
  | none => .next s
  | some i =>
    let open' := s.unperformed i.w.uid (.quad i.k i.q) mask.toNat i.x.sup
    let mine := match i.x.await with
      | some ⟨.qfence ops, _, _⟩ => open'.filter (fun n => ops.contains n)
      | _ => open'
    if mine.isEmpty then .next (s.updQuad i.k i.q (·.advance 1)) else .next (s.waitAt i (.qfence mine))

/-! ### Idempotent regions (R188) -/

/-- The masked registers of v0 to v15 in each lane, keyed `lane*16 + i`. -/
def Quad.liveRegs (q : Quad) (live : BitVec 16) : Tab Word :=
  let ks := (lanes.map (fun l => ((List.range 16).filter (fun i => live.getLsbD i)).map (fun i => (l, i)))).flatten
  ks.foldl (fun t e => Tab.set 0 t (e.1 * 16 + e.2) (q.reg e.1 e.2)) []

/-- 0xC1 IDEMB. -/
def execIdemb (live : BitVec 16) (s : State) : Result :=
  match s.issuer with
  | none => .next s
  | some i =>
    if i.x.idem.isSome then .next (s.precise i cIDEM_NEST)
    else .next (s.updQuad i.k i.q (fun x =>
      { x with idem := some ⟨x.cl.pc, x.cl.next 1, x.depth, live, x.liveRegs live⟩ }.advance 1))

/-- 0xC2 IDEME. -/
def execIdeme (s : State) : Result :=
  match s.issuer with
  | none => .next s
  | some i =>
    if i.x.idem.isNone then .next (s.precise i cIDEM_NEST)
    else .next (s.updQuad i.k i.q (fun x => { x with idem := none }.advance 1))

/-! ### Traps, no-ops, yielding (R189, R190) -/

/-- 0xC3 TRAP: cause 0x38 + n. -/
def execTrap (code : BitVec 3) (s : State) : Result :=
  match s.issuer with
  | none => .next s
  | some i => .next (s.precise i (cTRAP + code.toNat))

/-- 0xCA NOP. -/
def execNop (s : State) : Result := .next (s.onQuad (·.advance 1))

/-- 0xCB YIELD: the unit counts as having become ready in this cycle (R94). -/
def execYield (s : State) : Result :=
  match s.issuer with
  | none => .next s
  | some i => .next (s.updQuad i.k i.q (fun x => { x with since := some (s.cycle (dieOf i.k)) }.advance 1))

/-! ### User CSRs (R83, R142, R164, R191) -/

/-- The value of a user CSR in a lane, or none for an id that is not one. -/
def State.userCsr (s : State) (i : Issue) (l id : Nat) : Option W64 :=
  let nat := fun (n : Nat) => some (BitVec.ofNat 64 n)
  match id with
  | 0x000 => nat l
  | 0x001 => nat i.q
  | 0x002 => nat (i.q / 8)
  | 0x003 => nat i.w.wgid
  | 0x004 => nat (coreOf i.k)
  | 0x005 => nat (clusterOf i.k)
  | 0x006 => nat (dieOf i.k)
  | 0x007 => nat i.w.tenant
  | 0x008 => nat (s.selfpl i.w.tenant).toNat
  | 0x009 => nat (s.cycle (dieOf i.k))
  | 0x00A => some (i.x.fpstat.setWidth 64)
  | 0x00B => some i.x.modq
  | 0x00C => some i.x.modb
  | 0x00D | 0x00E | 0x00F | 0x010 => nat (Tab.get 0 i.x.path (id - 0x00D))
  | 0x011 => some ((i.x.idem.map (·.addr)).getD 0)
  | _ => none

/-- Writes a CSR's value to register or pair `d` of each active lane. -/
def Quad.csrTo (q : Quad) (d id : Nat) (f : Nat → W64) : Quad :=
  if csrWide id then q.writePairs q.active d f else q.writeLanes q.active d (fun l => (f l).setWidth 32)

/-- 0xC4 CSRR: ILL_FIELD for an unknown id, or an odd register for a 64-bit CSR. -/
def execCsrr (a : IArgs) (s : State) : Result :=
  match s.issuer with
  | none => .next s
  | some i =>
    let id := a.imm.toNat
    if (s.userCsr i 0 id).isNone || (csrWide id && a.d.toNat % 2 == 1) then .next (s.precise i cILL_FIELD)
    else .next (s.updQuad i.k i.q (fun x => (x.csrTo a.d.toNat id (fun l => (s.userCsr i l id).getD 0)).advance 1))

/-- 0xC5 CSRW, from the lowest active lane: FPSTAT, MODQ and MODB alone can be written. -/
def execCsrw (a : IArgs) (s : State) : Result :=
  match s.issuer with
  | none => .next s
  | some i =>
    let l := i.x.lowest
    let v := i.x.reg l a.a.toNat
    let p := i.x.pair l a.a.toNat
    let odd := a.a.toNat % 2 == 1
    match a.imm.toNat with
    | 0x00A =>
      if 32 ≤ v.toNat then .next (s.precise i cILL_FIELD)
      else .next (s.updQuad i.k i.q (fun x => { x with fpstat := v }.advance 1))
    | 0x00B =>
      if odd || 2 ^ 62 ≤ p.toNat then .next (s.precise i cILL_FIELD)
      else .next (s.updQuad i.k i.q (fun x => { x with modq := p }.advance 1))
    | 0x00C =>
      if odd then .next (s.precise i cILL_FIELD)
      else .next (s.updQuad i.k i.q (fun x => { x with modb := p }.advance 1))
    | _ => .next (s.precise i cILL_FIELD)

end Sys2Proof.Machine
end

