-- ==== Sys2Proof/Machine/Save.lean ====
section
/-!
DEFINITION. Save records (05_traps R119 to R121, R124, Table 5-5) as bytes by their offset: the fields of a workgroup, and the
workgroup that a record's bytes give. Offsets inside a block, and what a block's handle stands for, are the model's (log entry 12).
-/
namespace Sys2Proof

/-- A field of a record: offset, size, value. -/
abbrev Field := Nat × Nat × Nat

/-- Writes fields. -/
def Memory.putFields (m : Memory) (fs : List Field) : Memory := fs.foldl (fun m f => m.writeN f.1 f.2.1 f.2.2) m

/-- The fields of a table of `size`-byte values from offset `o` up. -/
def Tab.fields (t : Tab Nat) (o size : Nat) : List Field := t.map (fun e => (o + e.1 * size, size, e.2))

/-- The `n` bytes from `o` up as a table of `size`-byte values. -/
def Memory.table (m : Memory) (o n size : Nat) : Tab Nat :=
  (m.within o n).foldl (fun t c =>
    let i := c.1 - o
    Tab.set 0 t (i / size) (Tab.get 0 t (i / size) + c.2.toNat * 256 ^ (i % size))) []

namespace Machine

/-! ### Table 5-5 -/

/-- Offsets of the parts of a record. -/
def oAck : Nat := 0x000100
def oQuads : Nat := 0x000800
def oStores : Nat := 0x010000
def oMtx : Nat := 0x030000
def oCpy : Nat := 0x040000
def oBars : Nat := 0x041000
def oTiles : Nat := 0x041100
def oRegs : Nat := 0x050000
def oPreds : Nat := 0x090000
def oPriv : Nat := 0x0A0000
def oScratch : Nat := 0x120000
def oFull : Nat := 0x2A0000

/-- The parts of a record that a workgroup's shape uses, by offset and size. -/
def Wg.sections (w : Wg) : List (Nat × Nat) :=
  let n := w.nquads
  [(0, 256), (oAck, 16 * n), (oQuads, 512 * n), (oStores, 2048 * n), (oMtx, 0x9800), (oCpy, 0x1000), (oBars, 0x500),
   (oRegs, 4096 * n), (oPreds, 16 * n), (oPriv, 8192 * n), (oScratch, 128 * w.slines), (oFull, (w.slines + 31) / 32 * 4)]

/-- The parts of a restart record (R124). -/
def Wg.restartSections (w : Wg) : List (Nat × Nat) := [(oQuads, 512 * w.nquads)]

/-- The chunks in which parts are read and written: lines. -/
def chunks (parts : List (Nat × Nat)) : List (Nat × Nat) :=
  (parts.map (fun p => (List.range ((p.2 + 127) / 128)).map (fun i => (p.1 + 128 * i, min 128 (p.2 - 128 * i))))).flatten

/-- The accesses that write a record to a route, and those that read it. -/
def recordWrites (r : W64) (parts : List (Nat × Nat)) (m : Memory) : List Access :=
  (chunks parts).map (fun c => ⟨0, r + BitVec.ofNat 64 c.1, c.2, m.readN c.1 c.2, 0, 0⟩)
def recordReads (r : W64) (parts : List (Nat × Nat)) : List Access :=
  (chunks parts).map (fun c => ⟨0, r + BitVec.ofNat 64 c.1, c.2, 0, 0, 0⟩)

/-- Performs accesses one after another, under a tenant: the state and the bytes read, by offset from `r`. -/
def State.accessAll (s : State) (tenant : Nat) (k : AccKind) (r : W64) (as : List Access) : Except Refuse (State × Memory) :=
  as.foldlM (fun (p : State × Memory) a =>
    (p.1.lineAccess tenant k .xchg [a]).map (fun x => (x.1, p.2.writeN (a.addr - r).toNat a.size ((x.2.map (·.got)).headD 0)))) (s, [])

/-! ### Fields -/

/-- A place in a clause, 11 bytes. -/
def Cl.fields (c : Cl) (o : Nat) : List Field := [(o, 8, c.hdr.toNat), (o + 8, 1, c.idx), (o + 9, 1, c.rem), (o + 10, 1, c.cls)]

/-- The code of a counted wait in the header: 0 for none. -/
def Wait.code (w : Wait) : Nat :=
  match w with
  | .waitv _ _ _ _ => 1
  | .itstat _ => 2
  | .cbars _ => 3
  | .full => 4
  | _ => 0

/-- The header: card route, save cause, place, generation, the quads' wakes and the counts of their waiting reports, and the
workgroup's SHAPE. -/
def Wg.headerFields (w : Wg) (k cause : Nat) : List Field :=
  [(0, 8, w.card.toNat), (8, 1, cause), (9, 1, dieOf k), (10, 1, clusterOf k), (11, 1, coreOf k), (12, 1, slotOf k), (13, 1, w.gen),
   (208, 8, w.shape.toNat)] ++
    (w.quads.map (fun e => [(14 + 2 * e.1, 2, (e.2.await.map (·.what.code)).getD 0), (142 + e.1, 1, e.2.reports.length)])).flatten

/-- The 16 bytes of a quad in the acknowledgement line. -/
def Quad.ackFields (q : Quad) (n : Nat) : List Field :=
  [(oAck + 16 * n, 2, q.uad), (oAck + 16 * n + 2, 2, q.uap)] ++
    (List.range 4).map (fun i => (oAck + 16 * n + 4 + 2 * i, 2, Tab.get 0 q.path i))

/-- A gang's state in a byte: parted, and in the next the quads that have issued. -/
def Gang.fields (g : Gang) (o : Nat) : List Field :=
  [(o, 1, if g.parted then 1 else 0), (o + 1, 1, (g.issued.map (fun q => 2 ^ (q % 8))).foldl (· ||| ·) 0)]

/-- A pending destination, 12 bytes: the operation, the instructions that may still issue, the registers. -/
def Win.fields (w : Win) (o : Nat) : List Field :=
  [(o, 6, w.op), (o + 6, 1, w.left), (o + 7, 1, w.dst.length)] ++ (w.dst.take 4).zipIdx.map (fun e => (o + 8 + e.2, 1, e.1))

/-- A waiting report, 24 bytes: cause, inner cause, level and label, lanes, class, route, TPC, and the place of its store. -/
def reportFields (r : FaultInfo × Cl) (o : Nat) : List Field :=
  [(o, 1, r.1.cause), (o + 1, 1, r.1.inner), (o + 2, 1, r.1.lanes.toNat + 16 * r.2.cls), (o + 3, 1, r.2.idx + 16 * r.2.rem),
   (o + 4, 4, r.1.label + 2 ^ 28 * r.1.level), (o + 8, 8, r.1.route.toNat), (o + 16, 8, r.1.tpc.toNat)]

/-- What handler entry saves, 31 bytes: lane mask, predicates, FPSTAT, reconvergence depth, window base, resume point (R111). -/
def Shadow.fields (h : Shadow) (o : Nat) : List Field :=
  [(o, 1, h.mask.toNat), (o + 13, 4, h.fpstat.toNat), (o + 17, 1, h.recon.length), (o + 18, 2, h.depth)] ++
    (h.preds.map (fun e => (o + 1 + 3 * e.1, 3, e.2.toNat))) ++ h.resume.fields (o + 20)

/-- The frame stack, the pending destinations, the shadow, and as many waiting reports as a block has room for (R120, R176, log entry
12). -/
def Quad.stackFields (q : Quad) (o : Nat) : List Field :=
  [(o + 37, 1, q.frames.length), (o + 38, 1, q.wins.length), (o + 39, 1, if q.shadow.isSome then 1 else 0)] ++
    q.frames.zipIdx.map (fun e => (o + 256 + e.2, 1, e.1)) ++
    ((q.wins.take 4).zipIdx.map (fun e => e.1.fields (o + 320 + 12 * e.2))).flatten ++
    (q.shadow.map (fun h => h.fields (o + 368))).getD [] ++
    ((q.reports.take 4).zipIdx.map (fun e => reportFields e.1 (o + 400 + 24 * e.2))).flatten

/-- A quad's block; `image` is the handle of what has no field of its own here. -/
def Quad.blockFields (q : Quad) (n : Nat) (g : Gang) (image : Nat) : List Field :=
  let o := oQuads + 512 * n
  let r := (q.resume.map (·.1)).getD q.cl
  q.cl.fields o ++ [(o + 11, 1, q.mask.toNat + if q.live then 16 else 0)] ++ g.fields (o + 12) ++ r.fields (o + 16) ++
    [(o + 27, 1, (q.resume.map (fun r => 16 + r.2.toNat)).getD 0), (o + 28, 4, q.fpstat.toNat), (o + 32, 2, q.depth),
     (o + 36, 1, q.recon.length), (o + 40, 4, q.trap.cause.toNat), (o + 44, 4, q.trap.level.toNat), (o + 48, 4, q.trap.label.toNat),
     (o + 52, 4, q.trap.lanes.toNat), (o + 56, 4, q.trap.skid.toNat), (o + 64, 8, q.trap.pc.toNat), (o + 72, 8, q.trap.route.toNat),
     (o + 80, 8, image)] ++ q.stackFields o ++
    (q.recon.zipIdx.map (fun e => [(o + 128 + 16 * e.2, 8, e.1.ppc.toNat), (o + 136 + 16 * e.2, 1, e.1.m.toNat),
      (o + 137 + 16 * e.2, 1, e.1.pm.toNat)])).flatten

/-- A quad's restart record (R124): the IDEMB's address, the place after it, the window base, the mask of live registers, and
these registers. -/
def Quad.restartFields (q : Quad) (n : Nat) : List Field :=
  let o := oQuads + 512 * n
  match q.idem with
  | none => []
  | some m =>
    [(o, 8, m.addr.toNat), (o + 32, 2, m.depth), (o + 34, 2, m.mask.toNat)] ++
      m.after.fields (o + 16) ++ Tab.fields (m.regs.map (fun e => (e.1, e.2.toNat))) (o + 256) 4

/-- The entries of a quad's store buffer (10_memory_ops R231). -/
def State.storeBuffer (s : State) (uid : Nat) (p : Party) : List (Nat × Flight) :=
  ((s.opsOf uid p).filter (fun e => e.2.entry && e.2.parts.any (fun t => t.2.buffered))).take 16

/-- Entry `j` of a quad's store buffer: per lane the route and the data, then size, lanes, held lanes, order, image. -/
def Flight.storeFields (f : Flight) (n j id image : Nat) : List Field :=
  let o := oStores + 2048 * n + 128 * j
  let ps := (f.parts.map (·.2)).filter (·.buffered)
  let as := (ps.map (·.accs)).flatten
  let lanesIn := fun (l : List Access) => (maskOf (l.map (·.key))).toNat
  (as.map (fun a => [(o + 8 * a.key, 8, a.addr.toNat), (o + 32 + 16 * a.key, 16, a.data), (o + 96, 1, a.size)])).flatten ++
    [(o + 97, 1, lanesIn as), (o + 98, 1, lanesIn (((ps.filter (·.st == .held)).map (·.accs)).flatten)), (o + 104, 8, id),
     (o + 112, 8, image)]

/-- What the two sequencer contexts share: the place, k0 to k31, kp0 to kp7. -/
def Seq.fields (x : Seq) (o : Nat) : List Field :=
  let mode := match x.mode with
    | .idle => 0
    | .started => 1
    | .ended => 2
  x.cl.fields o ++ [(o + 11, 1, mode), (o + 272, 1, (x.kp.map (fun e => if e.2 then 2 ^ e.1 else 0)).foldl (· + ·) 0)] ++
    Tab.fields (x.k.map (fun e => (e.1, e.2.toNat))) (o + 16) 8

/-- The code of an accumulator's tag, and the bytes of its elements. -/
def Tag.code (t : Tag) : Nat :=
  match t with
  | .f => 1
  | .i => 2
  | .m => 3
def Tag.bytes (t : Tag) : Nat := if t == .m then 8 else 4

/-- The matrix context. -/
def Mtx.fields (x : Mtx) (image : Nat) : List Field :=
  let nat := fun (t : Tab Word) => t.map (fun e => (e.1, e.2.toNat))
  x.seq.fields oMtx ++ [(oMtx + 273, 1, if x.bookSet then 1 else 0), (oMtx + 280, 8, image)] ++
    (x.acc.map (fun e => (oMtx + 288 + e.1, 1, e.2.tag.code) :: Tab.fields e.2.el (oMtx + 0x1000 * (1 + e.1)) e.2.tag.bytes)).flatten ++
    Tab.fields (nat x.sx) (oMtx + 0x9000) 4 ++ Tab.fields (nat x.book) (oMtx + 0x9400) 4

/-- A squashed copy (14_copy R293). -/
def Copy.fields (c : Copy) (o id : Nat) : List Field :=
  let kind := match c.kind with
    | .cpt => 1
    | .cpto => 2
    | .cpr => 3
    | .cpmc => 4
  [(o, 1, kind), (o + 1, 1, c.tile), (o + 2, 1, (if c.keep then 1 else 0) + if c.bf16 then 2 else 0), (o + 3, 1, c.ka),
   (o + 4, 2, c.base), (o + 6, 2, c.nl), (o + 8, 8, c.route.toNat), (o + 16, 8, id)]

/-- The copy context, with the operations that wait to be reissued. -/
def Cpy.fields (x : Cpy) (ops : List (Nat × Copy)) (image : Nat) : List Field :=
  x.seq.fields oCpy ++ [(oCpy + 276, 4, x.drops.toNat), (oCpy + 280, 8, image)] ++
    (x.ly.map (fun e => [(oCpy + 0x200 + 32 * e.1, 8, e.2.d0.toNat), (oCpy + 0x208 + 32 * e.1, 8, e.2.d1.toNat),
      (oCpy + 0x210 + 32 * e.1, 8, e.2.d2.toNat), (oCpy + 0x218 + 32 * e.1, 8, e.2.d3.toNat)])).flatten ++
    ((ops.take 96).zipIdx.map (fun e => e.1.2.fields (oCpy + 0x400 + 32 * e.2) e.1.1)).flatten

/-- The code of a tile state (Table 14-2). -/
def TileState.code (t : TileState) : Nat :=
  match t with
  | .empty => 0
  | .filling => 1
  | .ready => 2
  | .draining => 3

/-- A tile-table entry (Table 14-2). -/
def State.tileFields (s : State) (w : Wg) (n : Nat) (t : Tile) : List Field :=
  [(oTiles + 16 * n, 8, 2 ^ 31 + (s.tileState w n t).code * 2 ^ 28 + t.nl * 2 ^ 14 + t.base),
   (oTiles + 16 * n + 8, 8, (t.lines.filter (fun l => w.full.has l)).length)]

/-- A barrier: its phase, and who has arrived. -/
def Barrier.fields (b : Barrier) (n : Nat) : List Field :=
  [(oBars + 16 * n, 7, b.phase), (oBars + 16 * n + 7, 9, (b.arrived.map (fun p => 2 ^ p)).foldl (· ||| ·) 0)]

/-- A quad's registers, predicates and private memory. -/
def Quad.fileFields (q : Quad) (n : Nat) : List Field :=
  let nat := fun (t : Tab Word) => t.map (fun e => (e.1, e.2.toNat))
  Tab.fields (nat q.regs) (oRegs + 4096 * n) 4 ++ Tab.fields (q.preds.map (fun e => (e.1, e.2.toNat))) (oPreds + 16 * n) 4 ++
    Tab.fields (nat q.priv) (oPriv + 8192 * n) 4

/-- The record of a workgroup that runs in slot `k`, under a save cause (R120); `image` is the handle that its blocks carry. -/
def State.recordOf (s : State) (k cause : Nat) (w : Wg) (image : Nat) : Memory :=
  let quad := fun (e : Nat × Quad) =>
    e.2.ackFields e.1 ++ e.2.blockFields e.1 (Tab.get ⟨false, [], 0⟩ w.gangs (e.1 / 8)) image ++ e.2.fileFields e.1 ++
      ((s.storeBuffer w.uid (.quad k e.1)).zipIdx.map (fun f => f.1.2.storeFields e.1 f.2 f.1.1 image)).flatten
  let fullBits := w.full.foldl (fun (t : Tab Nat) e => Tab.set 0 t (e.1 / 8) (Tab.get 0 t (e.1 / 8) + 2 ^ (e.1 % 8))) []
  Memory.putFields [] (w.headerFields k cause ++ (w.quads.map quad).flatten ++ w.mtx.fields image ++
    w.cpy.fields (s.copies w.uid) image ++ (w.bars.map (fun e => e.2.fields e.1)).flatten ++
    (w.tiles.map (fun e => s.tileFields w e.1 e.2)).flatten ++ Tab.fields (w.scratch.map (fun e => (e.1, e.2.toNat))) oScratch 1 ++
    Tab.fields fullBits oFull 1)

/-- The restart record of a workgroup inside an idempotent region (R124). -/
def Wg.restartOf (w : Wg) : Memory := Memory.putFields [] (w.quads.map (fun e => e.2.restartFields e.1)).flatten

/-! ### Reading a record -/

/-- A place in a clause. A place that is the image's has its header's word still. -/
def clAt (m : Memory) (o : Nat) (was : Cl) : Cl :=
  let c : Cl := ⟨BitVec.ofNat 64 (m.readN o 8), m.readN (o + 8) 1, m.readN (o + 9) 1, m.readN (o + 10) 1, none⟩
  if c = { was with head := none } then was else c

/-- 64 bits, 32 bits, and lanes. -/
def dwordAt (m : Memory) (o : Nat) : W64 := BitVec.ofNat 64 (m.readN o 8)
def wordAt (m : Memory) (o : Nat) : Word := BitVec.ofNat 32 (m.readN o 4)
def lanesAt (m : Memory) (o : Nat) : BitVec 4 := BitVec.ofNat 4 (m.readN o 1)

/-- Words of a table. -/
def wordsAt (m : Memory) (o n : Nat) : Tab Word := (m.table o n 4).map (fun e => (e.1, BitVec.ofNat 32 e.2))

/-- A quad's counters as the acknowledgement line has them (R121). -/
def Quad.readAck (q : Quad) (m : Memory) (n : Nat) : Quad :=
  let t := m.table (oAck + 16 * n) 16 2
  { q with
    uad := Tab.get 0 t 0
    uap := Tab.get 0 t 1
    path := (List.range 4).foldl (fun p i => Tab.set 0 p i (Tab.get 0 t (2 + i))) [] }

/-- The frame stack, the pending destinations and the waiting reports of a quad's block, and the shadow of one that has one; reports
beyond a block's room are the image's. -/
def Quad.readStacks (b : Quad) (m : Memory) (o count : Nat) : Quad :=
  let win := fun (a : Nat) => (⟨m.readN a 6, (List.range (min 4 (m.readN (a + 7) 1))).map (fun i => m.readN (a + 8 + i) 1), m.readN (a + 6) 1⟩ : Win)
  let report := fun (a : Nat) =>
    let lv := m.readN (a + 4) 4
    let tpc := dwordAt m (a + 16)
    let idx := m.readN (a + 3) 1 % 16
    ((⟨m.readN a 1, lv / 2 ^ 28, m.readN (a + 1) 1, lv % 2 ^ 28, dwordAt m (a + 8), BitVec.ofNat 4 (m.readN (a + 2) 1), tpc, false⟩ : FaultInfo),
      (⟨tpc - BitVec.ofNat 64 (4 * idx), idx, m.readN (a + 3) 1 / 16, m.readN (a + 2) 1 / 16, none⟩ : Cl))
  let s := o + 368
  { b with
    frames := (List.range (m.readN (o + 37) 1)).map (fun i => m.readN (o + 256 + i) 1)
    wins := (List.range (min 4 (m.readN (o + 38) 1))).map (fun i => win (o + 320 + 12 * i))
    reports := (List.range (min 4 count)).map (fun i => report (o + 400 + 24 * i)) ++ b.reports.drop 4
    shadow := b.shadow.map (fun h => { h with
      mask := lanesAt m s
      preds := lanes.foldl (fun t l => Tab.set 0 t l (BitVec.ofNat 24 (m.readN (s + 1 + 3 * l) 3))) []
      fpstat := wordAt m (s + 13)
      recon := h.recon.take (m.readN (s + 17) 1)
      depth := m.readN (s + 18) 2
      resume := clAt m (s + 20) h.resume }) }

/-- The quad of a record; `b` is its image. -/
def Quad.fromRecord (b : Quad) (m : Memory) (n : Nat) : Quad :=
  let o := oQuads + 512 * n
  let back := m.readN (o + 27) 1
  { b.readStacks m o (m.readN (142 + n) 1) with
    live := bit (m.readN (o + 11) 1) 4
    cl := clAt m o b.cl
    mask := lanesAt m (o + 11)
    resume := if bit back 4 then some (clAt m (o + 16) ((b.resume.map (·.1)).getD b.cl), BitVec.ofNat 4 back) else none
    fpstat := wordAt m (o + 28)
    depth := m.readN (o + 32) 2
    recon := (List.range (m.readN (o + 36) 1)).map (fun i =>
      ⟨lanesAt m (o + 136 + 16 * i), lanesAt m (o + 137 + 16 * i), dwordAt m (o + 128 + 16 * i)⟩)
    trap := ⟨wordAt m (o + 40), wordAt m (o + 44), wordAt m (o + 48), dwordAt m (o + 64), dwordAt m (o + 72), wordAt m (o + 52), wordAt m (o + 56)⟩
    regs := wordsAt m (oRegs + n * 4096) 4096
    preds := (m.table (oPreds + n * 16) 16 4).foldl (fun t e => Tab.set 0 t e.1 (BitVec.ofNat 24 e.2)) []
    priv := wordsAt m (oPriv + n * 8192) 8192 }

/-- The gang that a quad's block names; one that is the image's has the image's order. -/
def gangAt (m : Memory) (n : Nat) (was : Gang) : Gang :=
  let o := oQuads + 512 * n + 12
  let issued := (List.range 8).filter (fun i => bit (m.readN (o + 1) 1) i)
  if (List.range 8).filter (fun i => was.issued.any (fun q => q % 8 == i)) == issued then { was with parted := bit (m.readN o 1) 0 }
  else { was with parted := bit (m.readN o 1) 0, issued := issued.map (fun i => n / 8 * 8 + i) }

/-- A sequencer context of a record; `b` is its image. -/
def Seq.fromRecord (b : Seq) (m : Memory) (o : Nat) : Seq :=
  { b with
    mode := match m.readN (o + 11) 1 with
      | 0 => .idle
      | 1 => .started
      | _ => .ended
    cl := clAt m o b.cl
    k := (m.table (o + 16) 256 8).map (fun e => (e.1, BitVec.ofNat 64 e.2))
    kp := (List.range 8).foldl (fun t i => Tab.set false t i (bit (m.readN (o + 272) 1) i)) [] }

/-- The matrix context of a record. -/
def Mtx.fromRecord (b : Mtx) (m : Memory) : Mtx :=
  let acc := fun (n : Nat) =>
    let t := match m.readN (oMtx + 288 + n) 1 with
      | 1 => some Tag.f
      | 2 => some Tag.i
      | 3 => some Tag.m
      | _ => none
    t.map (fun t => (n, (⟨t, m.table (oMtx + 0x1000 * (1 + n)) 0x1000 t.bytes⟩ : Acc)))
  { b with
    seq := b.seq.fromRecord m oMtx
    acc := (List.range 8).filterMap acc
    sx := wordsAt m (oMtx + 0x9000) 0x400
    book := wordsAt m (oMtx + 0x9400) 0x400
    bookSet := bit (m.readN (oMtx + 273) 1) 0 }

/-- The copy context of a record. -/
def Cpy.fromRecord (b : Cpy) (m : Memory) : Cpy :=
  let ly := fun (n : Nat) =>
    let o := oCpy + 0x200 + 32 * n
    let l : Layout := ⟨dwordAt m o, dwordAt m (o + 8), dwordAt m (o + 16), dwordAt m (o + 24)⟩
    if l = ⟨0, 0, 0, 0⟩ then none else some (n, l)
  ⟨b.seq.fromRecord m oCpy, (List.range 8).filterMap ly, wordAt m (oCpy + 276)⟩

/-- The barriers of a record. -/
def barsOf (m : Memory) : Tab Barrier :=
  (List.range 16).filterMap (fun n =>
    let b : Barrier := ⟨m.readN (oBars + 16 * n) 7, (List.range 66).filter (fun p => bit (m.readN (oBars + 16 * n + 7) 9) p)⟩
    if b.phase = 0 && b.arrived.isEmpty then none else some (n, b))

/-- The tile-table entries of a record. -/
def tilesOf (m : Memory) : Tab Tile :=
  (List.range 64).filterMap (fun n =>
    let d := m.readN (oTiles + 16 * n) 8
    if bit d 31 then some (n, ⟨bits d 13 0, bits d 27 14⟩) else none)

/-- The lines whose full bit a record sets. -/
def fullBitsOf (m : Memory) (n : Nat) : Tab Unit :=
  ((List.range n).filter (fun l => bit (m.readN (oFull + l / 8) 1) (l % 8))).map (fun l => (l, ()))

/-- What a block's handle stands for. -/
def State.imageAt (s : State) (m : Memory) (o : Nat) (w : Wg) : Wg := ((s.sched.images.find (m.readN o 8)).map (·.wg)).getD w

/-- The workgroup that a record gives, of the card and shape of `w`; where a block carries no handle, what has no field of its own
is `w`'s. -/
def State.fromRecord (s : State) (w : Wg) (m : Memory) (counters : Bool) : Wg :=
  let quad := fun (e : Nat × Quad) =>
    let b := ((s.imageAt m (oQuads + 512 * e.1 + 80) w).quads.find e.1).getD e.2
    let q := b.fromRecord m e.1
    (e.1, if counters then q.readAck m e.1 else q)
  let gangs := w.quads.foldl (fun (t : Tab Gang) e =>
    if (t.find (e.1 / 8)).isSome then t
    else t.put (e.1 / 8) (gangAt m e.1 (Tab.get ⟨false, [], 0⟩ (s.imageAt m (oQuads + 512 * e.1 + 80) w).gangs (e.1 / 8)))) []
  { w with
    quads := w.quads.map quad
    gangs := gangs.filter (fun e => e.2 != ⟨false, [], 0⟩)
    mtx := (s.imageAt m (oMtx + 280) w).mtx.fromRecord m
    cpy := (s.imageAt m (oCpy + 280) w).cpy.fromRecord m
    bars := barsOf m
    tiles := tilesOf m
    scratch := (m.table oScratch (w.slines * 128) 1).map (fun e => (e.1, BitVec.ofNat 8 e.2))
    full := fullBitsOf m w.slines }

/-- A quad with its restart record. -/
def Quad.fromRestart (b : Quad) (m : Memory) (n : Nat) : Quad :=
  let o := oQuads + 512 * n
  match b.idem with
  | none => b
  | some i => { b with
      idem := some ⟨dwordAt m o, clAt m (o + 16) i.after, m.readN (o + 32) 2, BitVec.ofNat 16 (m.readN (o + 34) 2), wordsAt m (o + 256) 256⟩ }

/-! ### Store buffers (R120) -/

/-- Entry `j` of a quad's store buffer, where the record has one: its operation, as its image has it, with the lanes' routes and
data of the record. -/
def State.storeEntry (s : State) (m : Memory) (die tenant n j : Nat) : Option Flight :=
  let o := oStores + 2048 * n + 128 * j
  match (s.sched.images.find (m.readN (o + 112) 8)).bind (fun i => i.flights.find (m.readN (o + 104) 8)) with
  | none => none
  | some f =>
    let ls := lanesOf (lanesAt m (o + 97))
    let as := ls.map (fun l => (⟨l, dwordAt m (o + 8 * l), m.readN (o + 96) 1, m.readN (o + 32 + 16 * l) 16, 0, 0⟩ : Access))
    let held := lanesOf (lanesAt m (o + 98))
    let ps := linesOf (s.partOf tenant die) as
    if ls.isEmpty then none
    else some { f with faults := [], parts := ps.map (fun e =>
      (e.1, if e.2.accs.any (fun a => held.contains a.key) then { e.2 with st := .held } else e.2)) }

/-- A quad's store buffer is replaced by the record's: the entries that it holds go, those of the record enter in their order. -/
def State.loadStores (s : State) (k n : Nat) (w : Wg) (m : Memory) : State :=
  let p := Party.quad k n
  let gone := (s.storeBuffer w.uid p).filter (fun e => !e.2.sup)
  let t := gone.foldl (fun s e => (e.2.parts.filter (fun t => t.2.buffered)).foldl (fun s t =>
    let u := s.updUid w.uid (fun w => w.updQuad n (·.uncount t.2.onDie))
    u.dropPart e.1 t.1) s) s
  ((List.range 16).filterMap (fun j => t.storeEntry m (dieOf k) w.tenant n j)).foldl (fun s f =>
    (s.launch { f with uid := w.uid, party := p, die := dieOf k, parts := f.parts.map (fun e =>
      (e.1, { e.2 with joint := (s.nextId, e.2.joint.2) })) }).updUid w.uid (fun w => w.updQuad n (·.count f.parts))) t

end Machine
end Sys2Proof
end

