-- ==== Sys2Proof/Machine/Life.lean ====
section
/-!
DEFINITION. The life of a unit: cards, admission, completion, ending, pre-emption, saving, waking and readmission
(04_execution R79 to R100, 05_traps R113, R114, R120 to R124).
-/
namespace Sys2Proof.Machine

open Sys2Proof

/-! ### Cards (R85, R86) -/

/-- A card as read: its eight dwords. -/
abbrev Card := List Nat

/-- Dword `i` of a card. -/
def cd (c : Card) (i : Nat) : Nat := c.getD i 0
/-- CGSIZE, where 0 counts as 1. -/
def cardMembers (c : Card) : Nat := max 1 (bits (cd c 4) 40 36)
/-- QUADS. -/
def cardQuads (c : Card) : Nat := bits (cd c 4) 6 0
/-- SLINES rounded up to a multiple of 24 (R79). -/
def roundLines (n : Nat) : Nat := (n + 23) / 24 * 24
/-- BARQ bytes. -/
def cardBarq (c : Card) : List Nat := (List.range 16).map (fun n => cd c (5 + n / 8) / 256 ^ (n % 8) % 256)

/-- The first failing case of R86 after the card has been read, 2 to 8; 0 when none fails. -/
def State.cardCase (s : State) (tenant : Nat) (c : Card) : Nat :=
  let shape := cd c 4
  let succ := BitVec.ofNat 64 (cd c 2)
  if bits (cd c 3) 63 32 != 0 || bits (cd c 7) 63 32 != 0 || bits shape 63 42 != 0 then 2
  else if cardQuads c = 0 || 64 < cardQuads c then 3
  else if 12288 < bits shape 20 7 || 256 < bits shape 29 21 then 4
  else if 25 ≤ bits shape 40 36 then 5
  else if (cardBarq c).any (fun b => cardQuads c < b) then 6
  else if bits shape 35 32 != tenant then 7
  else if succ != 0 && (!s.isLocal tenant succ || succ.toNat % 64 != 0) then 8
  else 0

/-! ### A fresh workgroup (R80) -/

/-- A quad at admission. -/
def Quad.fresh (code frame : W64) : Quad where
  live := true
  cl := Cl.start code
  entered := some code
  mask := 15
  regs := (lanes.foldl (fun (r : Tab Word) l =>
    Tab.set 0 (Tab.set 0 r (l * 256) (frame.setWidth 32)) (l * 256 + 1) (frame.extractLsb' 32 32)) [])
  preds := []
  priv := []
  depth := 0
  frames := []
  recon := []
  fpstat := 0
  modq := 0
  modb := 0
  uad := 0
  uap := 0
  path := []
  idem := none
  trap := TrapRec.zero
  sup := false
  shadow := none
  wins := []
  reports := []
  skid := 0
  await := none
  redo := []
  resume := none
  kept := none
  since := none
  got := []

/-- An idle sequencer context. -/
def Seq.fresh : Seq := ⟨.idle, Cl.start 0, none, [], [], none, 0, []⟩

/-- A workgroup at admission, of a card read for a tenant. -/
def Wg.fresh (route : W64) (c : Card) (tenant unit uid wgid gen : Nat) (entry : Option (Nat × Nat)) : Wg where
  uid := uid
  unit := unit
  wgid := wgid
  members := cardMembers c
  tenant := tenant
  card := route
  code := BitVec.ofNat 64 (cd c 0)
  frame := BitVec.ofNat 64 (cd c 1)
  succ := BitVec.ofNat 64 (cd c 2)
  shape := BitVec.ofNat 64 (cd c 4)
  barq := cardBarq c
  mseq := BitVec.ofNat 16 (cd c 7)
  cseq := BitVec.ofNat 16 (cd c 7 / 2 ^ 16)
  gen := gen
  entry := entry
  quads := (List.range (cardQuads c)).map (fun q => (q, Quad.fresh (BitVec.ofNat 64 (cd c 0)) (BitVec.ofNat 64 (cd c 1))))
  gangs := []
  mtx := ⟨Seq.fresh, [], [], [], false, [], none, none⟩
  cpy := ⟨Seq.fresh, [], 0⟩
  scratch := []
  full := []
  bars := []
  tiles := []
  halt := none
  preempt := none
  was := none

/-! ### Room (R79, R91) -/

/-- The workgroups of a core. -/
def State.onCore (s : State) (core : Nat) : List (Nat × Wg) := s.wgs.filter (fun e => coreIx e.1 == core)

/-- The workgroup slot of a core that a workgroup takes: of the free ones, which R91 leaves open, the lowest (log entry 69). -/
def State.freeSlot (s : State) (core : Nat) : Option Nat :=
  ((List.range 4).map (fun i => core * 4 + i)).find? (fun k => (s.wg? k).isNone)

/-- Does the core have a slot, quads and lines free? -/
def State.fits (s : State) (core quads lines : Nat) : Bool :=
  let on := s.onCore core
  (s.freeSlot core).isSome &&
    (on.map (fun e => e.2.nquads)).foldl (· + ·) quads ≤ Config.quads &&
    (on.map (fun e => roundLines e.2.slines)).foldl (· + ·) (roundLines lines) ≤ Config.lines

/-- The next generation of the allocations of a core. -/
def State.nextGen (s : State) (core : Nat) : Nat := (Tab.get 0 s.sched.gens core + 1) % 256

/-- Places a workgroup in a free slot of a core, with a new generation (R80, R99). -/
def State.seat (s : State) (core : Nat) (w : Wg) : State :=
  match s.freeSlot core with
  | none => s
  | some k =>
    { s with
      wgs := s.wgs.put k { w with gen := s.nextGen core }
      sched := { s.sched with gens := Tab.set 0 s.sched.gens core (s.nextGen core) } }

/-- Removes a workgroup from its slot; the tenant's deficit goes when the tenant is no longer present on the core (R94). -/
def State.unseat (s : State) (k : Nat) : State :=
  match s.wg? k with
  | none => s
  | some w =>
    let t := { s with wgs := s.wgs.del k }
    if (t.onCore (coreIx k)).any (fun e => e.2.tenant == w.tenant) then t
    else { t with sched := { t.sched with deficits := t.sched.deficits.del (coreIx k * 16 + w.tenant) } }

/-! ### Completion (R81, R82, R90) -/

/-- Is the workgroup complete (R81)? A context may end while the workgroup stops for a save. -/
def Wg.complete (w : Wg) : Bool :=
  w.halt.all (fun h => match h.stage with
    | .saving _ _ => true
    | _ => false) && w.quads.all (fun e => !e.2.live) && w.mtx.seq.mode != .started && w.cpy.seq.mode != .started

/-- A complete workgroup leaves its slot; with its unit's last member the task completes: its successor is owed a decrement,
and its itinerary entry closes (R90, 19_itinerary R354). -/
def State.checkComplete (s : State) (k : Nat) : State :=
  match s.wg? k with
  | none => s
  | some w =>
    if !w.complete then s
    else
      let t := s.unseat k
      if !(t.unitWgs w.unit).isEmpty then t.cbarCheck w.unit
      else
        let u := { t with sched := { t.sched with
          cbars := t.sched.cbars.del w.unit
          joins := if w.succ == 0 then t.sched.joins else t.sched.joins ++ [⟨w.succ, w.tenant, dieOf k, clusterOf k, w.card⟩] } }
        match w.entry with
        | some e => u.itinTaskDone e
        | none => u

/-! ### Ending (R113, R114) -/

/-- The operations of a unit that is ending or restarting: copies and lane copies are squashed. -/
def State.squash (s : State) (uids : List Nat) : State :=
  s.abandon (fun f => uids.contains f.uid && (match f.job with
    | .copy _ | .cpl _ _ => true
    | _ => false))

/-- Every held entry of the quads of a workgroup is discarded (R113). -/
def State.discardAll (s : State) (k : Nat) (w : Wg) : State :=
  w.quads.foldl (fun s e => s.discardHeld w.uid (.quad k e.1)) s

/-- Line accesses of workgroups still unanswered. -/
def pendingOf (ws : List Wg) : Nat :=
  (ws.map (fun w => (w.quads.map (fun q => q.2.uad + q.2.uap)).foldl (· + ·) 0)).foldl (· + ·) 0

/-- A saved workgroup with the counters that its record has (R121). -/
def State.countersOf (s : State) (v : SavedWg) : Wg :=
  let part := [(oAck, 16 * v.wg.nquads)]
  match v.record.bind (fun r => (s.accessAll v.wg.tenant .load r (recordReads r part)).toOption) with
  | some (_, m) => { v.wg with quads := v.wg.quads.map (fun e => (e.1, e.2.readAck m e.1)) }
  | none => v.wg

/-- TSKID of the ending quad: its trap record's in the handler of a pre-emption (R113, R122), else the origin's own. -/
def Wg.originSkid (w : Wg) (origin : Nat) : Word :=
  match w.quads.find origin with
  | some x =>
    if x.shadow.any (fun h => h.fault.cause == cPREEMPT) && w.halt.all (fun h => !h.sup) then x.trap.skid else BitVec.ofNat 32 (origin * 16 + 8)
  | none => BitVec.ofNat 32 (origin * 16 + (if origin < 127 then 8 else 0))

/-- TSKID of every quad: the origin's own, the siblings' with their skids, as the handler's entry has recorded them when the
unit ends out of a handler (Table 5-3). -/
def skidList (w : Wg) (origin : Nat) : List Word :=
  (List.range 64).map (fun q =>
    match w.quads.find q with
    | some x =>
      if !x.live then 0
      else if origin = q then w.originSkid q
      else if x.trap.cause == BitVec.ofNat 32 cHALT_SIBLING then x.trap.skid
      else BitVec.ofNat 32 (origin * 16 + x.skid)
    | none => 0)

/-- The record of a unit's end: of the workgroup and the party that the fault names, with the trap record, the line accesses that
the watchdog has abandoned, and TSKID of every quad (R113, 17_fabric R335). -/
def State.endRecord (s : State) (k : Nat) (w : Wg) (origin : Nat) (f : FaultInfo) (sup : Bool) (pending : Nat) : ErrRec :=
  let r := f.record 0
  ⟨1, w.tenant, { r with skid := w.originSkid origin, cause := BitVec.ofNat 32 (f.cause + if sup then 64 else 0) }, contextOf k origin, w.card, 0, pending,
    s.placeOf w.tenant (dieOf k) 0, skidList w origin⟩

/-- The operations of workgroups that have ended: what no rule squashes is still performed (R109, 09_routes R220); the rest is given
up. Nobody waits for what has left the module, and its answers are late (17_fabric R334). -/
def State.leave (s : State) (uids : List Nat) : State :=
  s.abandon (fun f => uids.contains f.uid && (!(f.job.counted || f.job == .kst || f.job.kind == .atomic) || f.done))

/-- The itinerary entry of a task that has ended fails (19_itinerary R353). -/
def State.taskEnded (s : State) (w : Wg) (cause : Nat) : State :=
  match w.entry with
  | some e => s.itinTaskEnded e cause
  | none => s

/-- The unit's slots are free, and the record of its end goes to the host (R113, R335). The watchdog's keeps SUP as the fault that it
interrupts has it (log entry 63). -/
def State.finishUnit (s : State) (unit : Nat) (watchdog : Bool) : State :=
  let ws := s.unitWgs unit
  match (ws.find? (fun e => e.2.halt.any (fun h => h.origin != 127))).orElse (fun _ => ws.head?) with
  | none => s
  | some (k, w) =>
    match w.halt with
    | none => s
    | some h =>
      let tpc := ((w.quads.find? (fun e => e.2.live)).map (fun e => e.2.cl.pc)).getD 0
      let f : FaultInfo := if watchdog then whole cWATCHDOG tpc 0 else h.fault
      let r := s.endRecord k w h.origin f h.sup (if watchdog then pendingOf (ws.map (·.2)) else 0)
      let t := ws.foldl (fun s e => s.unseat e.1) (s.leave (ws.map (fun e => e.2.uid)))
      (({ t with sched := { t.sched with cbars := t.sched.cbars.del unit } } : State).report r).taskEnded w f.cause

/-- A saved unit has ended: its save slots are free, and the record of its end goes to the host (R113). -/
def State.finishSaved (s : State) (u : Saved) (e : Ending) (watchdog : Bool) : State :=
  match (u.wgs.find? (fun v => v.wg.uid == e.uid)).orElse (fun _ => u.wgs.head?) with
  | none => s
  | some v =>
    let f : FaultInfo := if watchdog then whole cWATCHDOG 0 0 else e.fault
    let r := s.endRecord v.place v.wg e.origin f false (if watchdog then pendingOf (u.wgs.map s.countersOf) else 0)
    let t := s.leave (u.wgs.map (fun v => v.wg.uid))
    (({ t with sched := { t.sched with
      saved := t.sched.saved.filter (fun x => x.unit != u.unit), cbars := t.sched.cbars.del u.unit } } : State).report r).taskEnded v.wg f.cause

/-- Have the operations that no rule squashes had their effects: the names of STN are written, the Q5 instructions performed
(R109, 13_hamper R273)? -/
def State.continues (s : State) (uids : List Nat) : Bool :=
  s.flights.all (fun e => !uids.contains e.2.uid || (match e.2.job with
    | .stn _ => false
    | _ => true)) &&
  s.wgs.all (fun e => !uids.contains e.2.uid || e.2.quads.all (fun q => q.2.await.all (fun a => match a.what with
    | .q5 _ => false
    | _ => true)))

/-- Is a local atomic of the workgroups left, or a remote KST, which no counter counts, unanswered (17_fabric R335)? -/
def State.storesLeft (s : State) (uids : List Nat) : Bool :=
  s.flights.any (fun e => uids.contains e.2.uid && ((e.2.job.kind == .atomic && !e.2.done) ||
    (e.2.job == .kst && e.2.parts.any (fun p => p.2.place == .remote))))

/-- The saved unit of this name, while it is ending. -/
def State.endingSaved (s : State) (unit : Nat) : Option (Saved × Ending) :=
  (s.sched.saved.find? (fun u => u.unit == unit)).bind (fun u => u.ended.map (fun e => (u, e)))

/-- Incomplete copies of a saved unit that ends are squashed, and its held entries discarded. -/
def State.squashSaved (s : State) (u : Saved) : State :=
  u.wgs.foldl (fun s v => s.discardAll v.place v.wg) (s.squash (u.wgs.map (fun v => v.wg.uid)))

/-- TERMINATION_COMPLETE: incomplete copies are squashed and held entries discarded; when every counter is zero and no
local atomic and no remote KST is left, the unit ends, resident or saved (R113, 17_fabric R335; log entry 71). -/
def execTerminationComplete (unit : Nat) (s : State) : Result :=
  let ws := s.unitWgs unit
  if ws.isEmpty then
    match s.endingSaved unit with
    | none => .next s
    | some (u, e) =>
      let t := s.squashSaved u
      if pendingOf (u.wgs.map t.countersOf) = 0 && !t.storesLeft (u.wgs.map (fun v => v.wg.uid)) then .next (t.finishSaved u e false)
      else .next t
  else if !ws.all (fun e => e.2.halt.any (fun h => h.stage == .ending)) then .next s
  else
    let uids := ws.map (fun e => e.2.uid)
    let t := ws.foldl (fun s e => s.discardAll e.1 e.2) (s.squash uids)
    if pendingOf ((t.unitWgs unit).map (·.2)) = 0 && !t.storesLeft uids && t.continues uids then .next (t.finishUnit unit false)
    else .next t

/-- WDOG of a tenant on a die, in cycles; 0 is never (R114). -/
def State.wdog (s : State) (die tenant : Nat) : Nat := bits (s.csr die tenant).preemptcfg.toNat 31 16 * 4096

/-- Has a halt of the unit, or the end of a saved unit, lasted longer than its watchdog (R114)? The handler is not timed (R115). -/
def State.watchdogDue (s : State) (unit : Nat) : Bool :=
  (s.unitWgs unit).any (fun e =>
    let d := s.wdog (dieOf e.1) e.2.tenant
    d != 0 && e.2.halt.any (fun h => h.stage != .handler && d < h.cycles)) ||
  (s.endingSaved unit).any (fun x => x.1.wgs.any (fun v =>
    let d := s.wdog (dieOf v.place) v.wg.tenant
    d != 0 && d < x.1.cycles))

/-- WATCHDOG_EXPIRY: the drain is abandoned at once. -/
def execWatchdogExpiry (unit : Nat) (s : State) : Result :=
  if !s.watchdogDue unit then .next s
  else
    match (s.unitWgs unit).find? (fun e => e.2.halt.isSome) with
    | none =>
      match s.endingSaved unit with
      | none => .next s
      | some (u, e) => .next ((s.squashSaved u).finishSaved u e true)
    | some (k, w) =>
      let origin := (w.halt.map (fun h => h.origin)).getD 127
      let t := s.endUnit unit k origin (whole cWATCHDOG 0 0) (Cl.start 0) false false
      let uids := (t.unitWgs unit).map (fun e => e.2.uid)
      let u := (t.unitWgs unit).foldl (fun s e => s.discardAll e.1 e.2) (t.squash uids)
      .next (u.finishUnit unit true)

/-! ### Pre-emption (R118, R122, R123) -/

/-- Save slots of a tenant on a die that no saved or saving unit uses. -/
def State.slotsFree (s : State) (die tenant : Nat) : List Nat :=
  let used := ((s.sched.saved.map (fun u => (u.wgs.filter (fun v => v.wg.tenant == tenant && dieOf v.place == die)).map (fun v => v.slot))).flatten)
  (List.range (bits (s.csr die tenant).preemptcfg.toNat 15 8)).filter (fun n => !used.contains n)

/-- Members of the tenant on the die whose save has been accepted. -/
def State.savers (s : State) (die tenant : Nat) : Nat :=
  (s.wgs.filter (fun e => dieOf e.1 == die && e.2.tenant == tenant &&
    (e.2.preempt.isSome || e.2.halt.any (fun h => match h.stage with
      | .saving _ _ => true
      | _ => false)))).length

/-- Are there free slots for a unit of `n` members? -/
def State.slotRoom (s : State) (die tenant n : Nat) : Bool := s.savers die tenant + n ≤ (s.slotsFree die tenant).length

/-- Is the unit being saved, ended or discarded already? -/
def State.unitGoing (s : State) (unit : Nat) : Bool :=
  (s.unitWgs unit).any (fun e => e.2.preempt.isSome || e.2.halt.any (fun h => match h.stage with
    | .saving _ _ | .ending => true
    | _ => false))

/-- Once no member is halted, a unit whose pre-emption has been accepted begins to stop (R112, R122). -/
def State.startSaving (s : State) (unit : Nat) : State :=
  let ws := s.unitWgs unit
  match ws.findSome? (fun e => e.2.preempt) with
  | none => s
  | some cause =>
    if ws.all (fun e => e.2.halt.isNone) then
      { s with wgs := s.wgs.map (fun e =>
          if e.2.unit == unit then
            (e.1, { e.2 with preempt := none, halt := some ⟨127, whole cause 0 0, Cl.start 0, false, false, .saving cause [], 0, none, 0⟩ })
          else e) }
    else s

/-- Accepts a pre-emption of a unit. -/
def State.acceptSave (s : State) (unit cause : Nat) : State :=
  ({ s with wgs := s.wgs.map (fun e => if e.2.unit == unit then (e.1, { e.2 with preempt := some cause }) else e) } : State).startSaving unit

/-- The status of a pre-emption request for a slot (R118); `own` is the issuer's slot. Of several that apply the lowest is
returned (log entry 58). -/
def State.preemptStatus (s : State) (k tenant : Nat) (own : Option Nat) : Nat :=
  match s.wg? k with
  | none => 1
  | some w =>
    if w.tenant != tenant then 1
    else if !w.pe then 2
    else if s.unitGoing w.unit then 3
    else if own == some k then 4
    else if !s.slotRoom (dieOf k) tenant (s.unitWgs w.unit).length then 5
    else 0

/-- A request for a slot: its effect when the status is 0. -/
def State.requestSave (s : State) (k tenant : Nat) (own : Option Nat) : State :=
  match s.wg? k, s.preemptStatus k tenant own with
  | some w, 0 => s.acceptSave w.unit cPREEMPT
  | _, _ => s

/-- A request of the host, under the refusals 2, 3 and 5, which the host is told (R118). -/
def State.hostRequest (s : State) (k tenant : Nat) : State :=
  match s.preemptStatus k tenant none with
  | 0 => s.requestSave k tenant none
  | n => s.answerHost (.preempt k n)

/-- HOST_PREEMPT_REQUEST: of one slot, or of a tenant: then its itinerary engine stops posting under the host's mark, and
each of its running units is pre-empted (R122, 19_itinerary R360). -/
def execHostPreemptRequest (target : PreemptTarget) (s : State) : Result :=
  match target with
  | .slot k => .next (match s.wg? k with
    | some w => s.hostRequest k w.tenant
    | none => s)
  | .tenant t =>
    let s1 := if s.itin.owner == some t && s.itin.st == 2 then { s with itin := { s.itin with st := 3, hostMark := true } } else s
    .next ((s1.wgs.filter (fun e => e.2.tenant == t)).foldl (fun s e => s.hostRequest e.1 t) s1)

/-! ### Swap-out on wait (R96, R97, R123) -/

/-- Is the wait a counted one (R96)? -/
def Wait.countedWait (w : Wait) : Bool :=
  match w with
  | .waitv _ _ _ _ | .cbars _ | .full | .cpwt | .itstat _ => true
  | _ => false

/-- Has the quad waited longer than its WAITCAP: 0 is never, 1 to 4,095 act as 4,096 (R97)? -/
def Quad.pastCap (q : Quad) : Bool :=
  q.await.any (fun a => a.what.countedWait && a.cap != 0 && max a.cap 4096 < a.count)

/-- May the unit be swapped out on wait (R96)? A unit that has no live quad waits nowhere, and
stays (log entry 75). -/
def State.swapReady (s : State) (unit : Nat) : Bool :=
  let ws := s.unitWgs unit
  ws.any (fun e => e.2.quads.any (fun q => q.2.live)) && ws.all (fun e => e.2.pe && e.2.halt.isNone && e.2.preempt.isNone &&
    e.2.quads.all (fun q => !q.2.live || q.2.pastCap))

/-- A test for a swap-out: it begins when the unit meets its condition and a save slot is free. -/
def State.swapTest (s : State) (unit : Nat) : State :=
  match (s.unitWgs unit).head? with
  | none => s
  | some (k, w) =>
    if s.swapReady unit && s.slotRoom (dieOf k) w.tenant (s.unitWgs unit).length then s.acceptSave unit cWAIT_SWAP else s

/-- SWAP_OUT_ON_WAIT: the first test, when the condition comes to hold. -/
def execSwapOutOnWait (unit : Nat) (s : State) : Result := .next (s.swapTest unit)

/-- SWAP_SLOT_RETEST: a later test, while every slot was in use. -/
def execSwapSlotRetest (unit : Nat) (s : State) : Result := .next (s.swapTest unit)

/-! ### Stopping the engines (R122, Table 5-6) -/

/-- The gang of a quad is not in the middle of an instruction. -/
def Wg.gangWhole (w : Wg) (g : Nat) : Bool :=
  let x : Gang := Tab.get ⟨false, [], 0⟩ w.gangs g
  x.parted || x.issued.isEmpty || (w.gangQuads g).all (fun e => x.issued.contains e.1 || e.2.await.isSome)

/-- Loads that cannot be answered now: an LDS on a line whose full bit is clear, a WAITV, and an access that waits for held
entries (R105, R109). They are withdrawn, to be executed again. -/
def State.withdrawable (s : State) (e : Nat × Flight) : Bool :=
  let f := e.2
  let behind := s.flights.any (fun h => h.1 < e.1 && h.2.uid == f.uid && h.2.party == f.party &&
    h.2.parts.any (fun t => t.2.st == .held && f.parts.any (fun p => s.clash f.tenant t.2 p.2)))
  let empty := f.parts.any (fun p => match p.2.place with
    | .scratch m => p.2.st == .flying && !s.isFull m ((p.2.accs.headD ⟨0, 0, 0, 0, 0, 0⟩).addr.toNat / 128)
    | _ => false)
  !f.sup && f.parts.all (fun p => p.2.st == .flying || p.2.under) &&
    (match f.job with
      | .load _ _ _ => behind || empty
      | .atomic _ _ _ => behind
      | .waitv _ _ => true
      | _ => false)

/-- Withdraws an operation of a quad: its flight and window go. -/
def State.withdraw (s : State) (e : Nat × Flight) : State := (s.updOwner e.2 (·.close e.1)).retire e.1

/-- The operations of a quad that are withdrawn, oldest first. A WAITV is executed again where the quad stands. -/
def State.withdrawn (s : State) (uid : Nat) (p : Party) (waits : Bool) : List (Nat × Flight) :=
  (s.opsOf uid p).filter (fun e => s.withdrawable e && (waits || (match e.2.job with
    | .load _ _ _ => e.2.parts.all (fun p => match p.2.place with
      | .scratch _ => false
      | _ => true)
    | _ => true)))

/-- Puts instructions before the place where the quad goes on. -/
def Quad.againAll (q : Quad) (rs : List Redo) : Quad :=
  match rs with
  | [] => q
  | r :: rest =>
    let p := q.pendingRedo
    { q.startRedo (Redo.sort (r :: rest ++ p.1)) p.2.1 p.2.2 with kept := q.keeps }

/-- What a stopped quad takes up: a wait in which its arrival stands; every other waiting instruction is executed again
(R109). -/
def Quad.rewoken (q : Quad) : Quad :=
  { q with
    await := if q.resume.isSome then none else q.await.filter (fun a => a.what.stands)
    since := none }

/-- A quad stops: what cannot be answered is withdrawn. -/
def State.stopQuad (s : State) (uid : Nat) (k q : Nat) : State :=
  let l := s.withdrawn uid (.quad k q) true
  let t := l.foldl (fun s e => s.withdraw e) s
  let redo := (l.filter (fun e => match e.2.job with
    | .waitv _ _ => false
    | _ => true)).map (fun e => (⟨e.2.pos, e.2.lanes, e.1, false⟩ : Redo))
  t.updQuad k q (fun x => x.againAll redo)

/-- A copy as it was issued: it is reissued whole (R122, 14_copy R293), under names that are `n` above the old ones. -/
def Flight.reissued (f : Flight) (n : Nat) : Flight :=
  let fresh := f.parts.map (fun e => (e.1, { e.2 with
    joint := (e.2.joint.1 + n, e.2.joint.2), st := .flying, slot := none, mslot := none, twin := 0, carried := none, back := false, age := 0,
    home := none, left := false, xord := none, ords := [] }))
  match f.job with
  | .copy c => { f with parts := fresh, job := .copy { c with
      todo := (List.range c.nl).map (fun i => c.base + i), buf := [], wrote := [], lost := 0 } }
  | .cpl b ds => { f with parts := fresh, job := .cpl (b + n) ds }
  | _ => f

/-- Squashed copies wait to be reissued, in their order; what has left the module for them keeps their old names. -/
def State.reissue (s : State) (squashed : Flight → Bool) : State :=
  let n := s.nextId
  let again := (s.flights.filter (fun e => squashed e.2)).map (fun e => (e.1 + n, e.2.reissued n))
  let t := s.abandon squashed
  if again.isEmpty then s
  else { t with flights := again.foldl (fun fs e => fs.put e.1 e.2) t.flights, nextId := n + n }

/-- The tile of an incomplete copy when it is squashed: that of a copy into it is empty; that of a copy out of it is ready, and
its lines hold what the copy has read of them, for it to be reissued whole (14_copy R293; log entry 62). -/
def Wg.squashTile (w : Wg) (c : Copy) : Wg :=
  let ls := (List.range c.nl).map (fun i => c.base + i)
  match c.kind with
  | .cpt => w.clearFull ls
  | _ => (ls.filter (fun l => !c.todo.contains l)).foldl (fun w l =>
      ({ w with scratch := w.scratch.setBytes (l * 128) 128 (c.buf.bytes ((l - c.base) * 128) 128) } : Wg).setFull l true) w

/-- The full bits that an incomplete multicast has set on its receivers return to clear (14_copy R293). -/
def State.unsend (s : State) (c : Copy) : State :=
  c.wrote.foldl (fun s d => match Tab.find c.gens d.1 with
    | some (some (m, g)) => s.updWg m (fun w => if w.gen = g then w.clearFull [d.2] else w)
    | _ => s) s

/-- May the engine of a stopping workgroup acknowledge (Table 5-6)? The engines that the quads feed follow the quads, so that
nothing enters them afterwards. -/
def State.engineStopped (s : State) (k : Nat) (w : Wg) (acks : List Engine) (e : Engine) : Bool :=
  let mine := s.flights.filter (fun f => f.2.uid == w.uid)
  let ofQuads := fun (f : Flight) => match f.party with
    | .quad _ _ => true
    | _ => false
  match e with
  | .quads => (List.range 8).all (fun g => w.gangWhole g) && w.quads.all (fun q => q.2.wins.isEmpty &&
      q.2.await.all (fun a => match a.what with
        | .q5 _ => false
        | _ => true))
  | .matrix => w.mtx.gather.isNone && mine.all (fun f => f.2.queue != 1)
  | .copy => mine.all (fun f => match f.2.job with
      | .kld _ => false
      | _ => true)
  | .coalescer => acks.contains .quads
  | .hamper => acks.contains .quads && mine.all (fun f => match f.2.job with
      | .stn _ | .hfree _ _ => false
      | _ => true)
  | .egress => acks.contains .quads && mine.all (fun f => !ofQuads f.2 || (match f.2.job with
      | .load _ _ _ | .atomic _ _ _ | .waitv _ _ => false
      | _ => true)) && (s.wg? k).isSome

/-- What an engine does to stop. -/
def State.stopEngine (s : State) (k : Nat) (w : Wg) (acks : List Engine) (e : Engine) : State :=
  let mine := fun (f : Flight) => f.uid == w.uid
  match e with
  | .quads => w.quads.foldl (fun s q => s.stopQuad w.uid k q.1) s
  | .matrix => s.updWg k (fun w => { w with mtx := w.mtx.giveUp })
  | .copy =>
    let t := (s.copies w.uid).reverse.foldl (fun s c => (s.updWg k (fun w => w.squashTile c.2)).unsend c.2) s
    t.reissue (fun f => mine f && f.copy?.isSome)
  | .coalescer =>
    if !acks.contains .quads then s
    else s.reissue (fun f => mine f && (match f.job with
      | .cpl _ _ => true
      | _ => false))
  | _ => s

/-- The quads have stopped for a save: each records its skid, with no quad for its origin (R109, R122). -/
def Wg.skidsRecorded (w : Wg) (e : Engine) : Wg :=
  if e == .quads then { w with quads := w.quads.map (fun q => if q.2.live then (q.1, q.2.siblingRecord 127) else q) } else w

/-- ENGINE_STOP_ACK: an engine of a workgroup that is being pre-empted has stopped and tells its collector. -/
def execEngineStopAck (wg : Nat) (engine : Engine) (s : State) : Result :=
  match s.wg? wg with
  | none => .next s
  | some w =>
    match w.halt with
    | some h =>
      match h.stage with
      | .saving cause acks =>
        if acks.contains engine then .next s
        else
          let t := s.stopEngine wg w acks engine
          match t.wg? wg with
          | none => .next s
          | some v =>
            if t.engineStopped wg v acks engine then
              .next (t.updWg wg (fun w => { w.skidsRecorded engine with halt := some { h with stage := .saving cause (acks ++ [engine]) } }))
            else .next t
      | _ => .next s
    | none => .next s

/-! ### Saving (R120, R122, R124) -/

/-- Is the workgroup inside an idempotent region (R124)? -/
def Wg.inIdem (w : Wg) : Bool :=
  w.quads.any (fun q => q.2.live) && w.quads.all (fun q => !q.2.live || q.2.idem.isSome) && w.mtx.seq.mode != .started &&
    w.cpy.seq.mode != .started

/-- The six engines. -/
def engines : List Engine := [.quads, .matrix, .copy, .coalescer, .hamper, .egress]

/-- Have all collectors of a unit reported? An idempotent region also waits for its counters (Table 5-6). -/
def State.savable (s : State) (unit : Nat) : Bool :=
  let ws := s.unitWgs unit
  !ws.isEmpty && ws.all (fun e => (match e.2.halt with
    | some ⟨_, _, _, _, _, .saving _ acks, _, _, _⟩ => engines.all (fun g => acks.contains g)
    | _ => false) && (!e.2.inIdem || e.2.quads.all (fun q => q.2.uad == 0 && q.2.uap == 0)))

/-- The operations of a saved workgroup wait in its store buffers; inside an idempotent region nothing of it is left but the
completion words of base dies (R124, 09_routes R220). -/
def State.shelve (s : State) (uid : Nat) (idem : Bool) : State :=
  let part := fun (p : Part) => if p.st == .arrived && p.onDie then { p with st := .flying, home := none } else p
  let t := if idem then s.abandon (fun f => f.uid == uid && f.job != .word) else s
  { t with flights := t.flights.map (fun e =>
      if e.2.uid == uid then (e.1, { e.2 with parts := e.2.parts.map (fun p => (p.1, part p.2)) }) else e) }

/-- The operations in the store buffers of a workgroup. -/
def State.buffers (s : State) (k : Nat) (w : Wg) : Tab Flight := (w.quads.map (fun e => s.storeBuffer w.uid (.quad k e.1))).flatten

/-- A handle for what has no field in a record. -/
def State.newImage (s : State) (x : SaveImage) : State :=
  { s with sched := { s.sched with images := s.sched.images.put (s.sched.images.length + 1) x } }

/-- Saves one member: it leaves its slot, and its record is written where its save slot is mapped. Which of the free slots it takes
the manual does not say: the lowest (log entry 70). -/
def State.saveMember (s : State) (k : Nat) (w : Wg) (cause : Nat) : State × Option SavedWg :=
  match (s.slotsFree (dieOf k) w.tenant).head? with
  | none => (s, none)
  | some n =>
    let v : Wg := { w with halt := none, was := none, quads := w.quads.map (fun q => (q.1, { q.2 with skid := 0 })) }
    let r := (s.csr (dieOf k) w.tenant).ctxbase + BitVec.ofNat 64 (n * 2 ^ 22)
    let writes := if w.inIdem then recordWrites r w.restartSections w.restartOf
      else recordWrites r w.sections (s.recordOf k cause w (s.sched.images.length + 1))
    let t := (s.accessAll w.tenant .store r writes).toOption.map (·.1)
    (((t.getD s).newImage ⟨v, s.buffers k w⟩).shelve w.uid w.inIdem |>.unseat k, some ⟨v, t.map (fun _ => r), n, k, [], []⟩)

/-- Adds a member to a saved unit. -/
def State.addSaved (s : State) (unit cause k : Nat) (v : SavedWg) : State :=
  match s.sched.saved.find? (fun u => u.unit == unit) with
  | some _ => { s with sched := { s.sched with saved := s.sched.saved.map (fun u =>
      if u.unit == unit then { u with wgs := u.wgs ++ [v] } else u) } }
  | none => { s with sched := { s.sched with saved := s.sched.saved ++ [⟨unit, cause, clusterIx k, [v], 0, cause == cPREEMPT, none⟩] } }

/-- PREEMPTION_SAVE: the unit's contexts are written to free save slots and its resources return to the core. -/
def execPreemptionSave (unit : Nat) (s : State) : Result :=
  if !s.savable unit then .next s
  else
    let ws := s.unitWgs unit
    let cause := ((ws.head?.bind (fun e => e.2.halt)).map (fun h => h.fault.cause)).getD cPREEMPT
    let step := fun (s : State) (e : Nat × Wg) =>
      match s.saveMember e.1 e.2 cause with
      | (t, some v) => t.addSaved unit cause e.1 v
      | (t, none) => t
    let t := ws.foldl step s
    match ws.head?.bind (fun e => e.2.entry) with
    | some e => .next (t.updTask e (fun r => { r with phase := 3 }))
    | none => .next t

/-! ### Waking (R98, Table 4-7) -/

/-- Does a saved quad's wait pass its wake test? A WAITV's read of another module or of the host is a free
value (log entry 9), and one that a level refuses does not pass (log entry 74). -/
def State.wakes (s : State) (unit : Nat) (w : Wg) (q : Quad) : Bool :=
  match q.await with
  | some ⟨.waitv _ r cc cmp, _, _⟩ =>
    if s.isLocal w.tenant r then
      match s.lineAccess w.tenant .load .xchg [⟨0, r, 4, 0, 0, 0⟩] with
      | .ok (_, a :: _) => ccHolds cc (BitVec.ofNat 32 a.got) cmp
      | _ => false
    else ccHolds cc (BitVec.ofNat 32 (Config.freeNat s.free)) cmp
  | some ⟨.itstat a, _, _⟩ => s.statReady w.tenant a (q.reg q.lowest a.a.toNat)
  | some ⟨.cbars ph, _, _⟩ => (s.cbar unit).phase != ph
  | some ⟨.full, _, _⟩ | some ⟨.cpwt, _, _⟩ => true
  | _ => false

/-- Changes a saved unit. -/
def State.updSaved (s : State) (unit : Nat) (f : Saved → Saved) : State :=
  { s with sched := { s.sched with saved := s.sched.saved.map (fun u => if u.unit == unit then f u else u) } }

/-- WAKE_TEST: once every 4,096 cycles from the end of the save. A copy context that waits at CPWT passes the unit's test by
itself (log entry 65). -/
def execWakeTest (unit : Nat) (s : State) : Result :=
  match s.sched.saved.find? (fun u => u.unit == unit) with
  | none => .next s
  | some u =>
    if u.passed || u.ended.isSome || u.cycles < 4096 then .next s
    else
      let ok := u.wgs.any (fun v => v.wg.cpy.seq.await.any (fun a => a.what == .cpwt) ||
        v.wg.quads.any (fun q => q.2.live && s.wakes unit v.wg q.2))
      .next (s.drawn.updSaved unit (fun u => { u with cycles := 0, passed := ok }))

/-! ### Readmission (R99, R100, R122, R124) -/

/-- A quad that restarts at the instruction after its IDEMB, inside its region (R124). -/
def Quad.restarted (q : Quad) (code frame : W64) : Quad :=
  let b := Quad.fresh code frame
  match q.idem with
  | none => { b with live := false }
  | some m =>
    let d := { b with cl := m.after, entered := none, depth := m.depth, idem := some m }
    ((lanes.map (fun l => ((List.range 16).filter (fun i => m.mask.getLsbD i)).map (fun i => (l, i)))).flatten).foldl
      (fun q e => q.setReg e.1 e.2 (Tab.get 0 m.regs (e.1 * 16 + e.2))) d

/-- The bytes of a saved member's record, where it has one. -/
def State.savedBytes (s : State) (v : SavedWg) (parts : List (Nat × Nat)) : Option Memory :=
  v.record.bind (fun r => (s.accessAll v.wg.tenant .load r (recordReads r parts)).toOption.map (·.2))

/-- What has come to a quad while it was saved: instructions to be executed again, and reports (R125). -/
def SavedWg.caughtUp (v : SavedWg) (e : Nat × Quad) : Nat × Quad :=
  let late := (v.late.filter (fun r => r.1 == e.1)).map (·.2)
  let reports := (v.reports.filter (fun r => r.1 == e.1)).map (·.2)
  (e.1, { e.2.rewoken.againAll late with reports := e.2.reports ++ reports })

/-- The workgroup that a saved member becomes. -/
def State.revived (s : State) (v : SavedWg) : Wg :=
  let w := v.wg
  if w.inIdem then
    let m := s.savedBytes v w.restartSections
    let quad := fun (e : Nat × Quad) => (e.1, ((m.map (e.2.fromRestart · e.1)).getD e.2).restarted w.code w.frame)
    { w with
      quads := w.quads.map quad
      gangs := []
      mtx := ⟨Seq.fresh, [], [], [], false, [], none, none⟩
      cpy := ⟨Seq.fresh, [], 0⟩
      scratch := []
      full := []
      bars := []
      tiles := [] }
  else
    let r := ((s.savedBytes v w.sections).map (fun m => s.fromRecord w m true)).getD w
    let fix := fun (x : Seq) => { x with await := x.await.filter (fun a => a.what.stands), skid := 0 }
    { r with
      quads := r.quads.map v.caughtUp
      mtx := { r.mtx with seq := fix r.mtx.seq }
      cpy := { r.cpy with seq := fix r.cpy.seq } }

/-- A party named in another slot. -/
def Party.moved (p : Party) (k : Nat) : Party :=
  match p with
  | .quad _ q => .quad k q
  | .mtx _ => .mtx k
  | .cpy _ => .cpy k

/-- An operation of a unit whose members have moved from old to new slots (with new generations). -/
def Flight.moved (f : Flight) (at' : List (Nat × Nat × Nat)) (k : Nat) : Flight :=
  let place := fun (m : Nat) => ((at'.find? (fun e => e.1 == m)).map (fun e => e.2.1)).getD m
  let gen := fun (m g : Nat) => ((at'.find? (fun e => e.1 == m)).map (fun e => e.2.2)).getD g
  { f with
    party := f.party.moved k
    die := dieOf k
    parts := f.parts.map (fun e => (e.1, { e.2 with place := match e.2.place with
      | .scratch m => .scratch (place m)
      | p => p }))
    job := match f.job with
      | .cpl b dst => .cpl b (dst.map (fun e => (e.1, place e.2.1, gen e.2.1 e.2.2.1, e.2.2.2)))
      | .copy c => .copy { c with gens := c.gens.map (fun e => (e.1, e.2.map (fun g => (place g.1, gen g.1 g.2)))) }
      | j => j }

/-- Has the quad stopped in a halt of another's? -/
def Quad.isSibling (q : Quad) : Bool := q.trap.cause == BitVec.ofNat 32 cHALT_SIBLING

/-- A sibling with the record of its stop; one that has restarted at its region's entry has issued nothing since (R124). -/
def Quad.recorded (q : Quad) : Quad := if q.isSibling then q else q.siblingRecord 127

/-- A sibling whose halt is over: it stands in no trap (R103). -/
def Quad.resumes (q : Quad) : Quad := if q.isSibling then { q with trap := { q.trap with cause := 0 } } else q

/-- Enters the handler of the lowest live quad with cause PREEMPT; TPC is its resume point, TLANES its lane mask (R122). -/
def State.notify (s : State) (k : Nat) : State :=
  match s.wg? k with
  | none => s
  | some w =>
    match w.quads.find? (fun q => q.2.live) with
    | none => s
    | some (q, x) =>
      let p := x.pendingRedo.2
      let f := whole cPREEMPT p.1.pc p.2
      let tvec := (s.csr (dieOf k) w.tenant).tvec
      if tvec == 0 then s.endUnit w.unit k q f p.1 false false
      else if 448 < x.depth + 64 then s.endUnit w.unit k q ⟨cWIN_SPILL, 7, cPREEMPT, 0, 0, p.2, p.1.pc, false⟩ p.1 true false
      else
        (s.updWg k (fun w => { w with
          halt := some ⟨q, f, p.1, false, false, .handler, 0, none, 0⟩
          gangs := Tab.set ⟨false, [], 0⟩ w.gangs (q / 8) ⟨true, [], 0⟩
          quads := w.quads.map (fun e => if e.2.live && e.1 != q then (e.1, e.2.recorded) else e) })).updQuad k q
            (fun x => x.enterHandler q f p.1 0 [] tvec false)

/-- Do the members of a saved unit fit the cores named: a single workgroup any core of its cluster, the members of a cluster group that
are left each its own (R100)? -/
def State.canReturn (s : State) (u : Saved) (cores : List Nat) : Bool :=
  cores.length == u.wgs.length && cores.Nodup &&
    (List.range cores.length).all (fun i =>
      match u.wgs[i]? with
      | none => false
      | some v =>
        let c := u.cluster * 24 + cores.getD i 0
        cores.getD i 0 < 24 && s.isReady c && s.fits c v.wg.nquads v.wg.slines && (v.wg.members == 1 || c == coreIx v.place))

/-- The copies of a readmitted workgroup start anew in their order (R122, 14_copy R293). A copy into a tile clears its full bits as at
its issue (R288), when the copies out of that tile before it have read the lines that the save has given back to it. -/
def State.restartCopies (s : State) (k : Nat) : State :=
  match s.wg? k with
  | none => s
  | some w =>
    let cs := s.copies w.uid
    let into := cs.filter (fun e => e.2.kind == .cpt)
    let read := fun (c : Copy) => c.todo.foldl (fun b l => b.setBytes ((l - c.base) * 128) 128 (w.scratch.bytes (l * 128) 128)) c.buf
    let out := cs.filter (fun e => e.2.kind != .cpt && into.any (fun t => e.1 < t.1 && t.2.tile == e.2.tile))
    let t := out.foldl (fun s e => s.updFlight e.1 (fun f => { f with job := .copy { e.2 with buf := read e.2, todo := [] } })) s
    t.updWg k (fun w => into.foldl (fun w e => w.clearFull ((List.range e.2.nl).map (fun i => e.2.base + i))) w)

/-- Readmits a saved unit on the cores named. -/
def State.readmit (s : State) (u : Saved) (cores : List Nat) : State :=
  let s0 := { s with sched := { s.sched with saved := s.sched.saved.filter (fun v => v.unit != u.unit) } }
  let put := fun (a : State × List (Nat × Nat × Nat × Nat)) (i : Nat) =>
    match u.wgs[i]? with
    | none => a
    | some v =>
      let c := u.cluster * 24 + cores.getD i 0
      match a.1.freeSlot c with
      | none => a
      | some k => (a.1.seat c (s.revived v), a.2 ++ [(v.wg.uid, v.place, k, a.1.nextGen c)])
  let r := (List.range u.wgs.length).foldl put (s0, [])
  let moves := r.2.map (fun e => e.2)
  let t := { r.1 with flights := r.1.flights.map (fun f =>
    match r.2.find? (fun e => e.1 == f.2.uid) with
    | some e => (f.1, f.2.moved moves e.2.2.1)
    | none => f) }
  let t1 := match (u.wgs.head?).bind (fun v => v.wg.entry) with
    | some e => t.updTask e (fun x => { x with phase := 2 })
    | none => t
  r.2.foldl (fun s e =>
    let w := (s.wg? e.2.2.1)
    let cfg := w.map (fun w => (s.csr (dieOf e.2.2.1) w.tenant).preemptcfg.getLsbD 0)
    let k := e.2.2.1
    let t := s.restartCopies k
    if u.cause == cPREEMPT && cfg.getD false then t.notify k
    else t.updWg k (fun w => { w with quads := w.quads.map (fun q => (q.1, q.2.resumes)) })) t1

/-! ### Admission (R86, R87, R91, R92) -/

/-- A refused card leaves its queue: a card-error record goes to the host; an itinerary entry fails its engine (R351). -/
def State.refuseCard (s : State) (e : Queued) (case die : Nat) : State :=
  let r := s.cardError e.route e.tenant case die TrapRec.zero
  match e.entry with
  | some i => if i.1 == s.itin.serial then r.itinFail cIT_TABLE_BAD else r
  | none => r

/-- Admits a card on the cores named, members in ascending core number (R82, R92). -/
def State.admitCard (s : State) (cluster : Nat) (e : Queued) (c : Card) (cores : List Nat) : State :=
  let unit := s.nextId
  let n := cardMembers c
  let place := fun (s : State) (i : Nat) =>
    s.seat (cluster * 24 + cores.getD i 0) (Wg.fresh e.route c e.tenant unit (unit + 1 + i) i 0 e.entry)
  let t := (List.range n).foldl place { s with nextId := s.nextId + n + 1 }
  match e.entry with
  | some i => t.updTask i (fun r => { r with phase := 2 })
  | none => t

/-- Do the cores fit a card? -/
def State.canHost (s : State) (cluster : Nat) (c : Card) (cores : List Nat) : Bool :=
  cores.length == cardMembers c && cores.Pairwise (· < ·) &&
    cores.all (fun x => x < 24 && s.isReady (cluster * 24 + x) && s.fits (cluster * 24 + x) (cardQuads c) (bits (cd c 4) 20 7))

/-- The highest-priority queue of a cluster that holds a card. -/
def State.headCard (s : State) (cluster : Nat) : Option (Nat × Queued × List Queued) :=
  [3, 2, 1, 0].findSome? (fun p =>
    match s.queue (cluster * 4 + p) with
    | e :: rest => some (p, s.headRead e, rest)
    | [] => none)

/-- CARD_ADMISSION: a saved unit whose wake test has passed goes before every card; then the head card alone is
considered, as it was read when it reached the head, and refused or admitted, on cores that are ready and a die whose bridges
are (21_host_security R376). No card of a tenant that is not in RUN is admitted (R367); it is refused as R372 discards it. Which
fitting cores receive the card the event names. -/
def execCardAdmission (cluster : Nat) (cores : List Nat) (s : State) : Result :=
  match s.sched.saved.find? (fun u => u.cluster == cluster && u.passed) with
  | some u => .next (if s.canReturn u cores then s.readmit u cores else s)
  | none =>
    if !s.isReady (18 * 32 + 16 + cluster / 6) then .next s
    else
    match s.headCard cluster with
    | none => .next s
    | some (p, e, rest) =>
      let pop := s.setQueue (cluster * 4 + p) rest
      match e.card with
      | none | some .unreadable => .next (pop.refuseCard e 1 (cluster / 6))
      | some (.card c) =>
        let case := s.cardCase e.tenant c
        if s.tdi e.tenant != .run then .next (pop.refuseCard e 1 (cluster / 6))
        else if case != 0 then .next (pop.refuseCard e case (cluster / 6))
        else if s.canHost cluster c cores then .next (pop.admitCard cluster e c cores)
        else .next s

/-! ### Joins (R90) -/

/-- JOIN_DECREMENT: an atomic decrement-if-nonzero of the successor's JOIN word, under the completing task's tenant. CARD of an
error record is the completed task's (log entry 53). A successor of a tenant that is no longer in RUN is refused (R367). -/
def execJoinDecrement (n : Nat) (s : State) : Result :=
  match s.sched.joins[n]? with
  | none => .next s
  | some j =>
    let r := j.succ + 0x18
    let pop := { s with sched := { s.sched with joins := s.sched.joins.eraseIdx n } }
    match s.lineAccess j.tenant .atomic .decnz [⟨0, r, 4, 0, 0, 0⟩] with
    | .error x => .next (pop.cardError j.card j.tenant 10 j.die ⟨BitVec.ofNat 32 x.cause, BitVec.ofNat 32 x.level, BitVec.ofNat 32 x.label, 0, r, 0, 0⟩)
    | .ok (t, as) =>
      let old := (as.headD ⟨0, 0, 0, 0, 0, 0⟩).got
      let done := { t with sched := pop.sched }
      if old = 0 then .next (done.cardError j.card j.tenant 9 j.die TrapRec.zero)
      else if old = 1 then
        match s.readDwords j.tenant (j.succ + 0x20) 1 with
        | .ok d =>
          let prio := bits (d.headD 0) 31 30
          let cl := j.die * 6 + j.cluster
          if s.tdi j.tenant != .run then .next (done.cardError j.succ j.tenant 1 j.die TrapRec.zero)
          else if s.ringRoom cl prio then .next (done.enqueue cl prio j.succ j.tenant none)
          else .next s
        | .error _ => .next done
      else .next done

end Sys2Proof.Machine
end

