-- ==== Sys2Proof/Machine/Seqs.lean ====
section
/-!
DEFINITION. The sequencer scalar forms and TDEF, which both sequencer contexts run (14_copy R276 to R280, 15_matrix R298).
-/
namespace Sys2Proof.Machine

open Sys2Proof

/-- What a sequencer context is about to issue: its slot, number (64 matrix, 65 copy), workgroup and shared part. -/
structure SeqIssue where
  k : Nat
  p : Nat
  w : Wg
  x : Seq
  deriving Repr

/-- The sequencer context whose turn it is. -/
def State.seqIssuer (s : State) : Option SeqIssue :=
  match s.focus with
  | some (.mtx k) => (s.wg? k).map (fun w => ⟨k, 64, w, w.mtx.seq⟩)
  | some (.cpy k) => (s.wg? k).map (fun w => ⟨k, 65, w, w.cpy.seq⟩)
  | _ => none

/-- The party of a context. -/
def SeqIssue.party (i : SeqIssue) : Party := if i.p = 64 then .mtx i.k else .cpy i.k

/-- The queue of a context: Q1 of the matrix sequencer, Q0 of the copy sequencer (R18). -/
def SeqIssue.queue (i : SeqIssue) : Nat := if i.p = 64 then 1 else 0

/-- The classes the context runs (R46). -/
def SeqIssue.runs (i : SeqIssue) : List Nat := if i.p = 64 then [4] else [5]

/-- Changes the shared part of a context. -/
def State.updSeq (s : State) (i : SeqIssue) (f : Seq → Seq) : State :=
  s.updWg i.k (fun w => if i.p = 64 then { w with mtx := { w.mtx with seq := f w.mtx.seq } }
    else { w with cpy := { w.cpy with seq := f w.cpy.seq } })

/-- A fault of the context that belongs to no level (R275, R389). -/
def State.seqFault (s : State) (i : SeqIssue) (cause : Nat) : State :=
  s.raise i.k i.p (whole cause i.x.cl.pc 0) i.x.cl false false

/-- A fault that an address decides. -/
def State.seqFaultAt (s : State) (i : SeqIssue) (r : Refuse) (route : W64) : State :=
  s.raise i.k i.p ⟨r.cause, r.level, 0, r.label, route, 0, i.x.cl.pc, false⟩ i.x.cl false false

/-- Leaves the context at its instruction, in a wait. -/
def State.seqWait (s : State) (i : SeqIssue) (what : Wait) : State :=
  s.updSeq i (fun x => { x with
    cl := x.cl.waiting what
    await := match x.await with
      | some a => if a.what == what then some a else some ⟨what, 0, (s.csr (dieOf i.k) i.w.tenant).waitcap.toNat⟩
      | none => some ⟨what, 0, (s.csr (dieOf i.k) i.w.tenant).waitcap.toNat⟩ })

/-- Every operation that the context has entered into its queue is performed. -/
def State.seqDrained (s : State) (i : SeqIssue) : Bool := (s.opsOf i.w.uid i.party).all (fun e => 7 ≤ e.2.queue || e.2.performed)

/-! ### Scalar forms (R276) -/

/-- A form that writes `f a b` to k[KD]. -/
def scalarK (s : State) (a : KArgs) (f : W64 → W64 → W64) : Result :=
  match s.seqIssuer with
  | none => .next s
  | some i => .next (s.updSeq i (fun x =>
      (x.setReg a.kd.toNat (f (x.reg a.ka.toNat) (x.src a.kb))).advance a.kb.size))

/-- 0xE0 KMOV. -/
def execKmov (a : KArgs) (s : State) : Result := scalarK s a (fun _ b => b)
/-- 0xE1 KADD. -/
def execKadd (a : KArgs) (s : State) : Result := scalarK s a (fun x y => x + y)
/-- 0xE2 KSUB. -/
def execKsub (a : KArgs) (s : State) : Result := scalarK s a (fun x y => x - y)
/-- 0xE3 KMUL. -/
def execKmul (a : KArgs) (s : State) : Result := scalarK s a (fun x y => x * y)
/-- 0xE4 KAND. -/
def execKand (a : KArgs) (s : State) : Result := scalarK s a (fun x y => x &&& y)
/-- 0xE5 KOR. -/
def execKor (a : KArgs) (s : State) : Result := scalarK s a (fun x y => x ||| y)
/-- 0xE6 KSHL. -/
def execKshl (a : KArgs) (s : State) : Result := scalarK s a (fun x y => x <<< (y.toNat % 64))
/-- 0xE7 KSHR. -/
def execKshr (a : KArgs) (s : State) : Result := scalarK s a (fun x y => x >>> (y.toNat % 64))

/-- kp[n]. -/
def Seq.pred (x : Seq) (n : Nat) : Bool := Tab.get false x.kp n

/-- 0xE8 KCMP: as ICMP64, with CC in IMM8[2:0] and CMB in IMM8[4:3] (R277). -/
def execKcmp (a : KArgs) (s : State) : Result :=
  match s.seqIssuer with
  | none => .next s
  | some i => .next (s.updSeq i (fun x =>
      let c := ccHolds (a.imm.setWidth 3) (x.reg a.ka.toNat) (x.src a.kb)
      let n := a.kd.toNat % 8
      { x with kp := Tab.set false x.kp n (combine (a.imm.extractLsb' 3 2) (x.pred n) c) }.advance a.kb.size))

/-- 0xE9 KBR: a transfer of control when kp[KP] XOR NEG is 1 (R277, R50). -/
def execKbr (a : KbrArgs) (s : State) : Result :=
  match s.seqIssuer with
  | none => .next s
  | some i =>
    if i.x.pred a.kp.toNat ^^ a.neg then
      let target := i.x.cl.target a.off
      match s.targetAt i.w.tenant i.x.got i.runs target with
      | .ask => .next (s.askFor i.party .fetch target 4 i.x.cl false 0)
      | .refused r => .next (s.raise i.k i.p ⟨r.cause, r.level, 0, r.label, target, 0, i.x.cl.pc, true⟩ i.x.cl false false)
      | .bad => .next (s.seqFault i cBR_TARGET)
      | .header h => .next (s.updSeq i (fun x => { x with cl := Cl.enter target h, await := none, got := [] }))
    else .next (s.updSeq i (·.advance 1))

/-! ### KLD and KST (R278) -/

/-- The operation of a context: its flight. -/
def SeqIssue.flight (i : SeqIssue) (job : Job) (ps : Tab Part) : Flight :=
  ⟨i.w.uid, i.party, i.queue, job, i.w.tenant, dieOf i.k, i.x.cl, false, 0, 0, 0, ps, [], false⟩

/-- The access of 8 bytes at k[KA] + SignExt(IMM8) × 8: ALIGN, then level 0, at issue; `go` enters it. -/
def seqAccess (s : State) (i : SeqIssue) (a : KArgs) (k : AccKind) (data : Nat) (go : Tab Part → State) : State :=
  let r := i.x.reg a.ka.toNat + BitVec.ofInt 64 (a.imm.toInt * 8)
  if r.toNat % 8 != 0 then s.seqFaultAt i ⟨cALIGN, 15, 0⟩ r
  else if hostBad r then s.seqFaultAt i ⟨cHOST_XLATE, 5, 0⟩ r
  else
    match s.level0 i.w.tenant k none r with
    | .error e => s.seqFaultAt i e r
    | .ok _ => go [(0, s.partOf i.w.tenant (dieOf i.k) ⟨0, r, 8, data, 0, 0⟩)]

/-- 0xEA KLD: the next instruction waits until k[KD] is written, at LOAD_DATA_RETURN. -/
def execKld (a : KArgs) (s : State) : Result :=
  match s.seqIssuer with
  | none => .next s
  | some i =>
    let running := (s.opsOf i.w.uid i.party).any (fun e => match e.2.job with
      | .kld _ => true
      | _ => false)
    if running then .next s
    else .next (seqAccess s i a .load 0 (fun ps => (s.launch (i.flight (.kld a.kd.toNat) ps)).seqWait i .other))

/-- 0xEB KST: it completes on entering the queue. -/
def execKst (a : KArgs) (s : State) : Result :=
  match s.seqIssuer with
  | none => .next s
  | some i => .next (seqAccess s i a .store (i.x.src a.kb).toNat (fun ps =>
      (s.launch (i.flight .kst ps)).updSeq i (·.advance a.kb.size)))

/-! ### Barriers and the end (R279, R280) -/

/-- 0xEC KBARA: after every operation of its queue. -/
def execKbara (a : KArgs) (s : State) : Result :=
  match s.seqIssuer with
  | none => .next s
  | some i =>
    let b := a.imm.toNat % 16
    if !i.w.barSeq b i.p || i.w.flag b i.p then .next (s.seqFault i cBAR_MISUSE)
    else if !s.seqDrained i then .next (s.seqWait i .stall)
    else .next ((s.updWg i.k (fun w => w.arrive b i.p)).updSeq i (·.advance 1))

/-- 0xED KBARW: until the phase of the context's last arrival completes. -/
def execKbarw (a : KArgs) (s : State) : Result :=
  match s.seqIssuer with
  | none => .next s
  | some i =>
    let b := a.imm.toNat % 16
    if !i.w.barSeq b i.p then .next (s.seqFault i cBAR_MISUSE)
    else if i.w.flag b i.p then .next (s.seqWait i .stall)
    else .next (s.updSeq i (·.advance 1))

/-- 0xEE KEND: once every operation of its queue is performed, the context ends (R280). -/
def execKend (_a : KArgs) (s : State) : Result :=
  match s.seqIssuer with
  | none => .next s
  | some i =>
    if !s.seqDrained i then .next (s.seqWait i .stall)
    else .next ((s.updSeq i (fun x => { x with mode := .ended, await := none })).checkComplete i.k)

/-! ### TDEF (R298) -/

/-- Does an engine other than the context's hold the tile? -/
def State.heldByOther (s : State) (i : SeqIssue) (n : Nat) : Bool :=
  if i.p = 64 then s.heldByCopy i.w n else s.heldByMatrix i.w n

/-- Is the tile filling or draining? -/
def TileState.moving (t : TileState) : Bool := t == .filling || t == .draining

/-- 0xEF TDEF. -/
def execTdef (a : KArgs) (s : State) : Result :=
  match s.seqIssuer with
  | none => .next s
  | some i =>
    let v := (i.x.reg a.ka.toNat).toNat
    let n := a.imm.toNat % 64
    let base := v % 2 ^ 14
    let nl := bits v 27 14
    let put := fun (w : Wg) => { w with tiles := if nl = 0 then w.tiles.del n else w.tiles.put n ⟨base, nl⟩ }
    if v / 2 ^ 28 != 0 then .next (s.seqFault i cILL_FIELD)
    else if nl != 0 && i.w.slines < base + nl then .next (s.seqFaultAt i ⟨cSCRATCH_BOUND, 6, 31⟩ 0)
    else
      match i.w.tiles.find n with
      | none => .next ((s.updWg i.k put).updSeq i (·.advance 1))
      | some t =>
        if (s.tileState i.w n t).moving || s.heldByOther i n then .next (s.seqWait i .stall)
        else .next ((s.updWg i.k (fun w => put (w.clearFull t.lines))).updSeq i (·.advance 1))

end Sys2Proof.Machine
end

