-- ==== Sys2Proof/Machine/Copy.lean ====
section
/-!
DEFINITION. The copy engine: layout records, the copy-only forms, and what becomes of a copy in Q0 (14_copy R284 to R294,
10_memory_ops R248).
-/
namespace Sys2Proof
namespace Machine

/-! ### Layout records (Table 14-3) -/

/-- V. -/
def Layout.v (l : Layout) : Bool := l.d2.getLsbD 63
/-- S0, in bytes. -/
def Layout.s0 (l : Layout) : Int := signed 32 (bits l.d0.toNat 31 0)
/-- S1. -/
def Layout.s1 (l : Layout) : Int := signed 32 (bits l.d0.toNat 63 32)
/-- PITCH. -/
def Layout.pitch (l : Layout) : Int := signed 32 (bits l.d1.toNat 31 0)
/-- SHIFT. -/
def Layout.shift (l : Layout) : Nat := bits l.d2.toNat 54 51
/-- MASK. -/
def Layout.mask (l : Layout) : Nat := bits l.d2.toNat 50 45
/-- ORD. -/
def Layout.ord (l : Layout) : Bool := l.d2.getLsbD 44
/-- BYTES. -/
def Layout.bytes (l : Layout) : Nat := 16 * (bits l.d2.toNat 43 36 + 1)
/-- ROWS. -/
def Layout.rows (l : Layout) : Nat := bits l.d2.toNat 35 24 + 1
/-- N1. -/
def Layout.n1 (l : Layout) : Nat := bits l.d2.toNat 23 12 + 1
/-- N0. -/
def Layout.n0 (l : Layout) : Nat := bits l.d2.toNat 11 0 + 1

/-- Does LRDEF refuse the record (R284)? -/
def Layout.bad (l : Layout) : Bool :=
  bits l.d1.toNat 63 32 != 0 || bits l.d2.toNat 62 55 != 0 || l.d3 != 0 || l.s0 % 16 != 0 || l.s1 % 16 != 0 ||
    l.pitch % 16 != 0 || (l.mask != 0 && l.shift < 3)

/-- Does the record, with a base, fit a tile of `nl` lines (R285)? -/
def Layout.fits (l : Layout) (b : W64) (nl : Nat) : Bool :=
  l.v && l.n0 * l.n1 * l.rows * l.bytes == nl * 128 && (l.mask == 0 || nl % 8 == 0) && b.toNat % 16 == 0

/-- The bank swizzle of a packed tile byte: t' (R285). -/
def Layout.swizzle (l : Layout) (t : Nat) : Nat :=
  let sel := (t / 2 ^ (7 + l.shift)) % 64 &&& l.mask
  t / 2 ^ 10 * 2 ^ 10 + (bits t 9 4 ^^^ sel) * 2 ^ 4 + t % 16

/-- The block (i, j) that is the `k`-th in traversal order. -/
def Layout.block (l : Layout) (k : Nat) : Nat × Nat := if l.ord then (k % l.n0, k / l.n0) else (k / l.n1, k % l.n1)

/-- The accesses of row `row` of block `k`, in pieces of `size` bytes, keyed by scratchpad byte t' of the tile (R285). -/
def Layout.row (l : Layout) (b : W64) (k row size : Nat) : List Access :=
  let ij := l.block k
  let start := b + BitVec.ofInt 64 (ij.1 * l.s0 + ij.2 * l.s1 + row * l.pitch)
  (List.range (l.bytes / size)).map (fun c =>
    ⟨l.swizzle ((k * l.rows + row) * l.bytes + c * size), start + BitVec.ofNat 64 (c * size), size, 0, 0, 0⟩)

/-- The line accesses of a copy: each part of a row that falls in one memory line (R285, R222). -/
def State.copyParts (s : State) (tenant die : Nat) (l : Layout) (b : W64) (size : Nat) : Tab Part :=
  let rows := ((List.range (l.n0 * l.n1)).map (fun k => (List.range l.rows).map (fun r => l.row b k r size))).flatten
  let mk := fun (a : Access) => { s.partOf tenant die a with range := none }
  ((rows.map (fun as => (linesOf mk as).map (·.2))).flatten.zipIdx).map (fun e =>
    (e.2, { e.1 with joint := (s.nextId, e.2) }))

/-- 0xF8 LRDEF: from k[KA] to k[KA+3], or from the scratchpad, whose full bits it does not wait on (R286). -/
def execLrdef (a : KArgs) (s : State) : Result :=
  match s.seqIssuer with
  | none => .next s
  | some i =>
    let put := fun (l : Layout) => if l.bad then s.seqFault i cLAYOUT_BAD
      else (s.updWg i.k (fun w => { w with cpy := { w.cpy with ly := w.cpy.ly.put (a.kd.toNat % 8) l } })).updSeq i (·.advance 1)
    let ka := a.ka.toNat
    if a.imm.toNat % 2 = 0 then .next (put ⟨i.x.reg ka, i.x.reg (ka + 1), i.x.reg (ka + 2), i.x.reg (ka + 3)⟩)
    else
      let addr := (i.x.reg ka).toNat % 2 ^ 32
      if addr % 32 != 0 then .next (s.seqFaultAt i ⟨cALIGN, 15, 0⟩ (BitVec.ofNat 64 addr))
      else
        match s.scratchCheck i.k i.w addr with
        | .error c => .next (s.seqFaultAt i ⟨c, 6, bits addr 25 21⟩ (BitVec.ofNat 64 addr))
        | .ok (m, off) =>
          let d := fun n => BitVec.ofNat 64 (((s.wg? m).map (fun w => w.scratch.bytes (off + 8 * n) 8)).getD 0)
          .next (put ⟨d 0, d 1, d 2, d 3⟩)

/-! ### The copies (R287 to R292) -/

/-- A layout record of a context; invalid until LRDEF (R274). -/
def Cpy.layout (c : Cpy) (n : Nat) : Layout := (c.ly.find n).getD ⟨0, 0, 0, 0⟩

/-- A copy enters Q0 and completes. -/
def State.enterCopy (s : State) (i : SeqIssue) (c : Copy) (ps : Tab Part) : State :=
  (s.launch (i.flight (.copy c) ps)).updSeq i (·.advance 1)

/-- The copy of an instruction with tile `n`, record and base. -/
def copyOf (kind : CopyKind) (n : Nat) (t : Tile) (keep bf16 : Bool) (l : Layout) (route : W64) (ka : Nat)
    (gens : List (Nat × Option (Nat × Nat))) : Copy :=
  ⟨kind, n, t.base, t.nl, keep, bf16, l, route, t.lines, [], gens, [], 0, ka⟩

/-- 0xF9 CPT: waits while the tile is filling or draining or the matrix engine holds it; clears its full bits (R288). -/
def execCpt (a : KArgs) (s : State) : Result :=
  match s.seqIssuer with
  | none => .next s
  | some i =>
    let n := a.imm.toNat % 64
    let b := i.x.reg a.ka.toNat
    let l := i.w.cpy.layout (a.kd.toNat % 8)
    match i.w.tiles.find n with
    | none => .next (s.seqFault i cTILE_UNDEF)
    | some t =>
      if !l.fits b t.nl then .next (s.seqFault i cLAYOUT_BAD)
      else if (s.tileState i.w n t).moving || s.heldByMatrix i.w n then .next (s.seqWait i .stall)
      else .next ((s.updWg i.k (fun w => w.clearFull t.lines)).enterCopy i (copyOf .cpt n t false false l b a.ka.toNat [])
        (s.copyParts i.w.tenant (dieOf i.k) l b 16))

/-- A copy out of a ready tile to memory (R289, R290). -/
def copyOut (a : KArgs) (kind : CopyKind) (keep bf16 : Bool) (size : Nat) (s : State) : Result :=
  match s.seqIssuer with
  | none => .next s
  | some i =>
    let n := a.imm.toNat % 64
    let b := i.x.reg a.ka.toNat
    let l := i.w.cpy.layout (a.kd.toNat % 8)
    match i.w.tiles.find n with
    | none => .next (s.seqFault i cTILE_UNDEF)
    | some t =>
      if s.tileState i.w n t != .ready then .next (s.seqWait i .stall)
      else if !l.fits b t.nl then .next (s.seqFault i cLAYOUT_BAD)
      else if kind == .cpr && i.w.pe then .next (s.seqFault i cILLEGAL_IN_PREEMPTIBLE)
      else .next (s.enterCopy i (copyOf kind n t keep bf16 l b a.ka.toNat []) (s.copyParts i.w.tenant (dieOf i.k) l b size))

/-- 0xFA CPTO, with KEEP in IMM8[6]. -/
def execCpto (a : KArgs) (s : State) : Result := copyOut a .cpto (a.imm.getLsbD 6) false 16 s
/-- 0xFB CPR: adds of single elements, BF16 when IMM8[6] is 1. -/
def execCpr (a : KArgs) (s : State) : Result := copyOut a .cpr true (a.imm.getLsbD 6) (if a.imm.getLsbD 6 then 2 else 4) s

/-- The members that a core mask names, but for the issuer's own core, with slot and generation; none where the core holds
no member (R291). -/
def State.receivers (s : State) (k : Nat) (w : Wg) (mask : Nat) : List (Nat × Option (Nat × Nat)) :=
  ((List.range 24).filter (fun c => bit mask c && c != coreOf k)).map (fun c =>
    (c, ((s.unitWgs w.unit).find? (fun e => coreOf e.1 == c)).map (fun e => (e.1, e.2.gen))))

/-- 0xFC CPMC (R291). -/
def execCpmc (a : KArgs) (s : State) : Result :=
  match s.seqIssuer with
  | none => .next s
  | some i =>
    let n := a.imm.toNat % 64
    let m := (i.x.reg a.ka.toNat).toNat
    if m / 2 ^ 24 != 0 then .next (s.seqFault i cILL_FIELD)
    else
      match i.w.tiles.find n with
      | none => .next (s.seqFault i cTILE_UNDEF)
      | some t =>
        if s.tileState i.w n t != .ready then .next (s.seqWait i .stall)
        else .next (s.enterCopy i (copyOf .cpmc n t true false ⟨0, 0, 0, 0⟩ 0 a.ka.toNat (s.receivers i.k i.w m)) [])

/-- 0xFD CPWT: until at most IMM8 operations of Q0 are not performed; the drop count is handed over and restarts (R292). -/
def execCpwt (a : KArgs) (s : State) : Result :=
  match s.seqIssuer with
  | none => .next s
  | some i =>
    let open' := (s.opsOf i.w.uid i.party).filter (fun e => !e.2.performed)
    if a.imm.toNat < open'.length then .next (s.seqWait i .cpwt)
    else .next (s.updWg i.k (fun w => { w with cpy := { w.cpy with
      drops := 0, seq := (w.cpy.seq.setReg a.kd.toNat (w.cpy.drops.setWidth 64)).advance 1 } }))

/-! ### Copies in Q0 -/

/-- Where a copy in Q0 stands, when its workgroup is resident and the copy has not been stopped. -/
def State.copyAt (s : State) (op : Nat) : Option (Flight × Copy × Nat × Wg) :=
  match s.flights.find op with
  | none => none
  | some f =>
    match f.job, s.resident f.uid with
    | .copy c, some (k, w) => if w.stopped f.job then none else some (f, c, k, w)
    | _, _ => none

/-- The bytes of a line of a tile that a copy into it has read; nothing while one is missing (R288). -/
def Flight.lineRead (f : Flight) (off : Nat) : Option (List Access) :=
  let parts := (f.parts.map (·.2)).filter (fun p => p.accs.any (fun a => a.key / 128 == off))
  if parts.all (fun p => p.st == .performed && (p.place != .dev || p.back)) then
    some ((parts.map (fun p => p.accs.filter (fun a => a.key / 128 == off))).flatten)
  else none

/-- TILE_LINE_WRITE: a line of CPT's tile is written whole, and its full bit set, once its 128 bytes have been read. -/
def execTileLineWrite (op line : Nat) (s : State) : Result :=
  match s.copyAt op with
  | some (f, c, k, _) =>
    if c.kind != .cpt || !c.todo.contains line || s.lineBusy op f line then .next s
    else
      match f.lineRead (line - c.base) with
      | none => .next s
      | some as =>
        let put := fun (t : Tab Byte) (a : Access) => t.setBytes (c.base * 128 + a.key) a.size a.got
        .next ((s.updWg k (fun w => ({ w with scratch := as.foldl put w.scratch }).setFull line true)).updFlight op
          (fun f => { f with job := .copy { c with todo := c.todo.filter (fun l => l != line) } }))
  | none => .next s

/-- A copy out of a tile that gives it up with its last line: its full bits are cleared (R289). -/
def State.giveUp (s : State) (k : Nat) (c : Copy) : State :=
  if c.kind == .cpto && !c.keep then s.updWg k (fun w => w.clearFull ((List.range c.nl).map (fun i => c.base + i))) else s

/-- Must a copy out of a tile leave its last line, because the matrix engine still holds the tile it will empty (R289)? -/
def State.lastWaits (s : State) (w : Wg) (c : Copy) : Bool := c.kind == .cpto && !c.keep && s.heldByMatrix w c.tile

/-- TILE_READ_COMPLETE: a copy out of a tile has read every line of it. -/
def execTileReadComplete (op : Nat) (s : State) : Result :=
  match s.copyAt op with
  | some (f, c, k, w) =>
    if c.kind == .cpt || c.todo.isEmpty || c.todo.any (fun l => s.lineBusy op f l) || s.lastWaits w c then .next s
    else
      let rd := fun (b : Tab Byte) (l : Nat) => b.setBytes ((l - c.base) * 128) 128 (w.scratch.bytes (l * 128) 128)
      .next ((s.updFlight op (fun f => { f with job := .copy { c with buf := c.todo.foldl rd c.buf, todo := [] } })).giveUp k c)
  | none => .next s

/-- HOME_ACCESS_PERFORM: a line access reaches its home or ordering point. A copy out of a tile reads the tile lines it
needs then, if it has not read them; with the last one it gives its tile up. -/
def execHomeAccessPerform (op part : Nat) (s : State) : Result :=
  let t := s.perform op part
  match s.copyAt op, t.copyAt op with
  | some (_, c, k, w), some (_, d, _, _) =>
    if !c.todo.isEmpty && d.todo.isEmpty && c.kind != .cpt then
      if s.lastWaits w c then .next s else .next (t.giveUp k c)
    else .next t
  | _, _ => .next t

/-- MULTICAST_DELIVERY: a line reaches a core of the mask: written with its full bit, or discarded and counted (R291). -/
def execMulticastDelivery (op core line : Nat) (s : State) : Result :=
  match s.copyAt op with
  | some (f, c, _, w) =>
    match Tab.find c.gens core with
    | none => .next s
    | some dest =>
      if c.kind != .cpmc || c.wrote.contains (core, line) || line < c.base || c.base + c.nl ≤ line || s.lineBusy op f line ||
          s.sendBusy op f core line then .next s
      else
        let v := if c.todo.contains line then w.scratch.bytes (line * 128) 128 else c.buf.bytes ((line - c.base) * 128) 128
        let d : Copy := { c with
          buf := c.buf.setBytes ((line - c.base) * 128) 128 v
          todo := c.todo.filter (fun l => l != line)
          wrote := c.wrote ++ [(core, line)] }
        let lands := dest.any (fun m => (s.wg? m.1).any (fun x => x.gen == m.2))
        let t := s.updFlight op (fun f => { f with job := .copy { d with lost := if lands then d.lost else d.lost + 1 } })
        if lands then .next (t.updWg ((dest.map (·.1)).getD 0) (fun x =>
            ({ x with scratch := x.scratch.setBytes (line * 128) 128 v }).setFull line true))
        else .next t
  | none => .next s

/-- COPY_PERFORMED: every tile line and memory access of a copy is done, and the copies before it are performed (R288 to
R291, R294); the lines that it lost count from now on (R292). -/
def execCopyPerformed (op : Nat) (s : State) : Result :=
  match s.copyAt op with
  | some (f, c, k, _) =>
    let sent := c.gens.all (fun g => (List.range c.nl).all (fun i => c.wrote.contains (g.1, c.base + i)))
    let first := s.flights.all (fun e => e.1 ≥ op || e.2.uid != f.uid || e.2.party != f.party || e.2.performed)
    if c.todo.isEmpty && f.done && sent && first then
      .next ((s.updWg k (fun w => { w with cpy := { w.cpy with drops := w.cpy.drops + BitVec.ofNat 32 c.lost } })).retire op)
    else .next s
  | none => .next s

/-! ### Lane copies (10_memory_ops R248) -/

/-- What a lane copy of a batch delivers, in lane order: the slot and generation it goes to, the offset, size and bytes. -/
def Flight.delivers (f : Flight) : List (Nat × Nat × Nat × Nat × Nat) :=
  match f.job with
  | .cpl _ dst =>
    let vals := (f.parts.map (fun p => p.2.accs.map (fun a => (a.key, a.size, a.got)))).flatten
    dst.filterMap (fun d => (vals.find? (fun v => v.1 == d.1)).map (fun v => (d.2.1, d.2.2.1, d.2.2.2, v.2.1, v.2.2)))
  | _ => []

/-- Does the slot still have the generation that a delivery carries (04_execution R99)? -/
def State.lands (s : State) (slot gen : Nat) : Bool := (s.wg? slot).any (fun w => w.gen == gen)

/-- The deliveries of a batch: each is written, with the full bit of its line, where its slot still has its generation; the line
writes that no slot takes are counted DROPPED at their sender, the core that has issued them (10_memory_ops R248, 05_traps R125). -/
def State.deliverBatch (s : State) (core : Nat) (ds : List (Nat × Nat × Nat × Nat × Nat)) : State :=
  let put := fun (s : State) (d : Nat × Nat × Nat × Nat × Nat) =>
    if s.lands d.1 d.2.1 then
      s.updWg d.1 (fun w => ({ w with scratch := w.scratch.setBytes d.2.2.1 d.2.2.2.1 d.2.2.2.2 }).setFull (d.2.2.1 / 128) true)
    else s
  let lost := ((ds.filter (fun d => !s.lands d.1 d.2.1)).map (fun d => (d.1, d.2.1, d.2.2.1 / 128))).eraseDups
  let t := ds.foldl put s
  { t with host := { t.host with dropped := t.host.dropped.bump core lost.length } }

/-- Is the issue of a batch over: its gang has issued the instruction whole, or its workgroup has completed (R248)? A saved
workgroup's batch waits for its return. -/
def State.batchClosed (s : State) (f : Flight) : Bool :=
  match s.resident f.uid, f.party with
  | some (_, w), .quad _ q => (w.gang q).parted || (w.gang q).issued.isEmpty
  | some _, _ => true
  | none, _ => !s.isSaved f.uid

/-- LANE_COPY_BATCH_COMPLETE: every source of the batch has been read; in lane order each 4, 8 or 16 bytes are written where
the slot still has its generation, else counted DROPPED, and the lines' full bits set, in one step. -/
def execLaneCopyBatchComplete (op : Nat) (s : State) : Result :=
  match s.flights.find op with
  | none => .next s
  | some f =>
  match f.job with
  | .cpl batch _ =>
    let mates := s.flights.filter (fun e => e.2.uid == f.uid && (match e.2.job with
      | .cpl b _ => b == batch
      | _ => false))
    let members := mates.map (fun e => e.2.party)
    let first := s.flights.all (fun e => batch ≤ e.1 || e.2.uid != f.uid || !members.contains e.2.party || e.2.queue != 2)
    if !mates.all (fun e => e.2.done && e.2.back && e.2.faults.isEmpty) || !first || !s.batchClosed f || s.stoppedOp f then .next s
    else
      let t := s.deliverBatch (coreIx f.party.wg) ((mates.map (fun e => e.2.delivers)).flatten)
      .next { t with flights := t.flights.filter (fun e => !mates.any (fun m => m.1 == e.1)) }
  | _ => .next s

end Machine
end Sys2Proof
end

