-- ==== Sys2Proof/Machine/Matrix.lean ====
section
/-!
DEFINITION. The matrix engine: formats, scales, products, accumulators (15_matrix R299 to R316).
-/
namespace Sys2Proof
namespace Machine

/-! ### Operands (R299, R300, Table 15-4) -/

/-- Element width in bits and native K of an element format of MMA and MMAG. -/
def elemFmt (code : Nat) : Option (Nat × Nat) :=
  match code with
  | 3 | 4 => some (16, 32)
  | 5 | 6 | 10 | 11 => some (8, 64)
  | 7 | 8 => some (6, 128)
  | 9 => some (4, 128)
  | 15 => some (2, 128)
  | _ => none

/-- RB: bytes of K packed elements of `w` bits. -/
def rowBytes (w k : Nat) : Nat := k * w / 8

/-- Lines of an operand of `r` rows. -/
def operandLines (r rb : Nat) : Nat := (r * rb + 127) / 128

/-- Fields of the format descriptor (Table 15-3). -/
def dK (d : W64) : Nat := bits d.toNat 31 16
def dMode (d : W64) : Nat := bits d.toNat 15 14
def dScf (d : W64) : Nat := bits d.toNat 13 12
def dBlb (d : W64) : Nat := bits d.toNat 11 10
def dBla (d : W64) : Nat := bits d.toNat 9 8
def dFb (d : W64) : Nat := bits d.toNat 7 4
def dFa (d : W64) : Nat := bits d.toNat 3 0

/-- The length of a block code: none, 16, 32, 64. -/
def blockLen (code : Nat) : Nat :=
  match code with
  | 0 => 0
  | c => 8 * 2 ^ c

/-- Does a block length leave K undivided? -/
def blockOdd (code k : Nat) : Bool := code != 0 && k % blockLen code != 0

/-- The descriptor cases of R301 for MMA and MMAG; the tile sizes apart. -/
def descBad (d : W64) : Bool :=
  match elemFmt (dFa d), elemFmt (dFb d) with
  | some (_, n), some (_, m) =>
    let k := dK d
    bits d.toNat 63 32 != 0 || n != m || !(k == n || 2 * k == n || 4 * k == n) || 2 ≤ dScf d ||
      (dScf d == 1 && (dBla d != 0 || dBlb d != 0)) || blockOdd (dBla d) k || blockOdd (dBlb d) k ||
      (dMode d == 2 && (!(dFa d == 10 || dFa d == 11) || !(dFb d == 10 || dFb d == 11) || dScf d != 1)) || dMode d == 3
  | _, _ => true

/-- The descriptor cases of R301 for MMAM. -/
def descBadM (d : W64) : Bool :=
  bits d.toNat 63 32 != 0 || bits d.toNat 11 0 != 0 || dScf d != 1 || dMode d != 3 ||
    !(dK d == 16 || dK d == 8 || dK d == 4)

/-- Element `k` of a packed row (R127, R129, R131, R133); +0 in the row of index 0xFFFF (R307). -/
def element (book : Tab Word) (fmt : Nat) (row : Option Nat) (k : Nat) : Num :=
  match row with
  | none => .fin false 0 0
  | some row =>
  match fmt with
  | 15 =>
    let code := row / 2 ^ (16 * (k / 8)) % 2 ^ 16
    vqNum (Tab.get 0 book (code % 256)).toNat code (k % 8)
  | 10 => let z := signed 8 (row / 2 ^ (8 * k)); .fin (z < 0) z.natAbs 0
  | 11 => .fin false (row / 2 ^ (8 * k) % 256) 0
  | c =>
    match fmtOf c with
    | some f => f.value (row / 2 ^ (f.width * k) % 2 ^ f.width)
    | none => .fin false 0 0

/-- The signed integer of an S8 or U8 element. -/
def elementInt (fmt : Nat) (row : Option Nat) (k : Nat) : Int :=
  let r := row.getD 0
  if fmt = 10 then signed 8 (r / 2 ^ (8 * k)) else (r / 2 ^ (8 * k) % 256 : Nat)

/-! ### Scales (R302) -/

/-- The scale byte of a lane for K index `k`: byte `(first + d × b) mod 4`, b the block of `k`. -/
def scaleByte (sx : Tab Word) (vec lane first d code k : Nat) : Nat :=
  bits (Tab.get 0 sx (vec * 32 + lane)).toNat (8 * ((first + d * (k / blockLen code)) % 4) + 7) (8 * ((first + d * (k / blockLen code)) % 4))

/-- The scale exponent of A or B for `k`: none when the scale is NaN, 0 when there is no scale. -/
def scaleExp (sx : Tab Word) (scf vec lane first d code k : Nat) : Option Int :=
  if scf != 0 || code = 0 then some 0
  else
    let e := scaleByte sx vec lane first d code k
    if e = 255 then none else some ((e : Int) - 127)

/-! ### The sum of an element (R304) -/

/-- What has been gathered of an element's terms: NaN, infinities, and the nonzero finite terms. -/
structure Terms where
  nan : Bool
  pos : Bool
  neg : Bool
  ts : List (Bool × Nat × Int)
  deriving DecidableEq, Repr

/-- Adds a term. -/
def Terms.add (t : Terms) (x : Num) : Terms :=
  match x with
  | .nan _ => { t with nan := true }
  | .inf s => if s then { t with neg := true } else { t with pos := true }
  | .fin s m e => if m = 0 then t else { t with ts := (s, m, e) :: t.ts }

/-- Adds the scaled product of two elements; no exponent is a NaN scale. -/
def Terms.product (t : Terms) (a b : Num) (ea eb : Option Int) : Terms :=
  match ea, eb with
  | some x, some y =>
    match (a.mul b).1 with
    | .fin s m e => t.add (.fin s m (e + x + y))
    | r => t.add r
  | _, _ => { t with nan := true }

/-- TruncMag of a term to a multiple of 2^g, in units of 2^g. -/
def truncMag (g : Int) (t : Bool × Nat × Int) : Int :=
  let v : Nat := if t.2.2 ≥ g then t.2.1 * 2 ^ (t.2.2 - g).toNat else t.2.1 / 2 ^ (g - t.2.2).toNat
  if t.1 then -(v : Int) else v

/-- The F32 pattern of the sum (R304). -/
def Terms.sum (t : Terms) : Nat :=
  if t.nan || (t.pos && t.neg) then 0x7FC00000
  else if t.pos then 0x7F800000
  else if t.neg then 0xFF800000
  else
    match t.ts with
    | [] => 0
    | x :: rest =>
      let top := fun (t : Bool × Nat × Int) => (t.2.1.log2 : Int) + t.2.2
      let g := rest.foldl (fun m t => max m (top t)) (top x) - 38
      let z := (t.ts.map (truncMag g)).foldl (· + ·) 0
      if z = 0 then 0 else (F32.round 0 false (z < 0) z.natAbs g).1

/-! ### Products -/

/-- The lists of an accumulator's elements, from a function of row and column. -/
def grid (n : Nat) (f : Nat → Nat → Nat) : Tab Nat :=
  (List.range (n * n)).filterMap (fun x => let v := f (x / n) (x % n); if v = 0 then none else some (x, v))

/-- The rows of an operand of a tile with first line `base`. -/
def operand (scratch : Tab Byte) (base r rb : Nat) : List Nat :=
  (List.range r).map (fun i => scratch.bytes (base * 128 + i * rb) rb)

/-- An accumulator of a context. -/
def Mtx.get (m : Mtx) (n : Nat) : Acc := Tab.get ⟨.f, []⟩ m.acc n

/-- Writes an accumulator. -/
def Mtx.set (m : Mtx) (n : Nat) (a : Acc) : Mtx := { m with acc := Tab.set ⟨.f, []⟩ m.acc n a }

/-- MMA and MMAG in modes 00, 01 and 10 (R304, R305), from the rows of A and the columns of B. -/
def product (book : Tab Word) (m : MatMul) (old : Acc) (rowsA colsB : List (Option Nat)) : Acc :=
  let d := m.desc
  let k := dK d
  let x := m.x
  if dMode d = 2 then
    ⟨.i, grid 32 (fun i j =>
      let s := ((List.range k).map (fun n => elementInt (dFa d) (rowsA.getD i none) n * elementInt (dFb d) (colsB.getD j none) n)).foldl (· + ·) 0
      wrap 32 ((Tab.get 0 old.el (i * 32 + j) : Nat) + s))⟩
  else
    ⟨.f, grid 32 (fun i j =>
      let c := F32.value (Tab.get 0 old.el (i * 32 + j))
      let t0 : Terms := ⟨false, false, false, []⟩
      let t1 := if dMode d = 0 then t0.add c else t0
      let t := (List.range k).foldl (fun t n => t.product (element book (dFa d) (rowsA.getD i none) n) (element book (dFb d) (colsB.getD j none) n)
        (scaleExp m.sx (dScf d) x.sa.toNat i x.ba.toNat x.sstep.toNat (dBla d) n)
        (scaleExp m.sx (dScf d) x.sb.toNat j x.bb.toNat x.sstep.toNat (dBlb d) n)) t1
      t.sum)⟩

/-- MMAM (R308). -/
def productM (m : MatMul) (old : Acc) (rowsA colsB : List Nat) : Acc :=
  let q := m.q.toNat
  let el := fun (row n : Nat) => row / 2 ^ (64 * n) % 2 ^ 64 % q
  ⟨.m, grid 16 (fun i j =>
    ((List.range (dK m.desc)).map (fun n => el (rowsA.getD i 0) n * el (colsB.getD j 0) n)).foldl (· + ·)
      (Tab.get 0 old.el (i * 16 + j) % q) % q)⟩

/-- The bytes of rows of `rb` bytes each, one row after another. -/
def bytesOf (rb : Nat) (rows : List Nat) : Tab Byte :=
  ((rows.zipIdx).map (fun e => (List.range rb).filterMap (fun b =>
    let v := BitVec.ofNat 8 (e.1 / 256 ^ b); if v = 0 then none else some (e.2 * rb + b, v)))).flatten

/-! ### Issue -/

/-- An operation enters Q1; its accumulators are pending under a window of `la` (R296). -/
def State.enterQ1 (s : State) (i : SeqIssue) (job : Job) (dst : List Nat) (la words : Nat) : State :=
  (s.launch (i.flight job [])).updWg i.k (fun w => { w with mtx := { w.mtx with
    seq := w.mtx.seq.advance words, wins := w.mtx.wins ++ [⟨s.nextId, dst, la⟩] } })

/-- Is a tile of too few lines for `r` rows of K elements of a format (R301)? -/
def small (t : Tile) (r w k : Nat) : Bool := t.nl < operandLines r (rowBytes w k)

/-- The width of an element format. -/
def widthOf (code : Nat) : Nat := ((elemFmt code).map (·.1)).getD 0

/-- The checks of MMA and MMAG that follow the tiles: FMT_BAD, ACC_BAD, CODEBOOK_UNSET (R301, R304, R305, R388). -/
def mmaFault (m : Mtx) (x : XArgs) (d : W64) (ta tb : Tile) (sizeA : Bool) : Option Nat :=
  let tag := (m.get x.acc.toNat).tag
  if descBad d || (sizeA && small ta 32 (widthOf (dFa d)) (dK d)) || small tb 32 (widthOf (dFb d)) (dK d) then some cFMT_BAD
  else if (dMode d = 0 && tag != .f) || (dMode d = 2 && tag != .i) then some cACC_BAD
  else if (dFa d = 15 || dFb d = 15) && !m.bookSet then some cCODEBOOK_UNSET
  else none

/-- 0xF0 MMA: it issues while its tiles are ready (R303). -/
def execMma (a : XArgs) (s : State) : Result :=
  match s.seqIssuer with
  | none => .next s
  | some i =>
    let d := i.x.reg a.kf.toNat
    match i.w.tiles.find a.ta.toNat, i.w.tiles.find a.tb.toNat with
    | some ta, some tb =>
      if s.tileState i.w a.ta.toNat ta != .ready || s.tileState i.w a.tb.toNat tb != .ready then .next (s.seqWait i .stall)
      else
        match mmaFault i.w.mtx a d ta tb true with
        | some c => .next (s.seqFault i c)
        | none => .next (s.enterQ1 i (.matmul ⟨0, a, d, 0, i.w.mtx.sx, ta.base, tb.base, [], []⟩) [a.acc.toNat] a.la.toNat 2)
    | _, _ => .next (s.seqFault i cTILE_UNDEF)

/-- The gather unit begins on an MMAG, which has not issued yet: its clause's header is still waited on (R307, 03_encoding R47). -/
def State.beginGather (s : State) (i : SeqIssue) (a : XArgs) : State :=
  s.updWg i.k (fun w => { w with mtx := { w.mtx with
    gather := some a, latch := none, seq := { w.mtx.seq with await := some ⟨.other, 0, (s.csr (dieOf i.k) i.w.tenant).waitcap.toNat⟩ } } })

/-- 0xF1 MMAG: once its checks pass, the gather unit begins (R307); with its rows in the latch it issues, while TB is ready and of
the size it needs still and no index is out of range (R303, R388). -/
def execMmag (a : XArgs) (s : State) : Result :=
  match s.seqIssuer with
  | none => .next s
  | some i =>
    let d := i.x.reg a.kf.toNat
    match i.w.tiles.find a.ta.toNat, i.w.tiles.find a.tb.toNat, i.w.tiles.find a.ti.toNat with
    | some ta, some tb, some ti =>
      if s.tileState i.w a.tb.toNat tb != .ready then .next (s.seqWait i .stall)
      else
        match (if i.w.mtx.gather == some a then i.w.mtx.latch else none) with
        | some l =>
          match mmaFault i.w.mtx a d ta tb false with
          | some c => .next (s.seqFault i c)
          | none =>
            if l.bad then .next (s.seqFault i cGATHER_INDEX)
            else .next ((s.updWg i.k (fun w => { w with mtx := { w.mtx with gather := none, latch := none } })).enterQ1 i
              (.matmul ⟨1, a, d, 0, i.w.mtx.sx, ta.base, tb.base, l.rows, l.zeros⟩) [a.acc.toNat] a.la.toNat 2)
        | none =>
          if s.tileState i.w a.ta.toNat ta != .ready || s.tileState i.w a.ti.toNat ti != .ready then .next (s.seqWait i .stall)
          else
            match mmaFault i.w.mtx a d ta tb false with
            | some c => .next (s.seqFault i c)
            | none => .next (s.beginGather i a)
    | _, _, _ => .next (s.seqFault i cTILE_UNDEF)

/-- 0xF2 MMAM: the modulus is k[KF + 1] (R308). -/
def execMmam (a : XArgs) (s : State) : Result :=
  match s.seqIssuer with
  | none => .next s
  | some i =>
    let d := i.x.reg a.kf.toNat
    let q := i.x.reg (a.kf.toNat + 1)
    match i.w.tiles.find a.ta.toNat, i.w.tiles.find a.tb.toNat with
    | some ta, some tb =>
      if s.tileState i.w a.ta.toNat ta != .ready || s.tileState i.w a.tb.toNat tb != .ready then .next (s.seqWait i .stall)
      else if descBadM d || small ta 16 64 (dK d) || small tb 16 64 (dK d) then .next (s.seqFault i cFMT_BAD)
      else if (i.w.mtx.get a.acc.toNat).tag != .m then .next (s.seqFault i cACC_BAD)
      else if q.toNat < 2 || 2 ^ 62 ≤ q.toNat then .next (s.seqFault i cMOD_BAD)
      else .next (s.enterQ1 i (.matmul ⟨2, a, d, q, [], ta.base, tb.base, [], []⟩) [a.acc.toNat] a.la.toNat 2)
    | _, _ => .next (s.seqFault i cTILE_UNDEF)

/-- The tag of a code: 0 F, 1 I, 2 M. -/
def tagOf (n : Nat) : Tag :=
  match n with
  | 0 => .f
  | 1 => .i
  | _ => .m

/-- 0xF3 ACLR (R310). -/
def execAclr (a : KArgs) (s : State) : Result :=
  match s.seqIssuer with
  | none => .next s
  | some i => .next ((s.updWg i.k (fun w => { w with mtx := w.mtx.set (a.kd.toNat % 8) ⟨tagOf (a.imm.toNat % 4), []⟩ })).updSeq i (·.advance 1))

/-- An accumulator element multiplied by 2^n and converted (R311, R138). -/
def storeElem (f : Fmt) (sat : Bool) (n : Int) (v : Nat) : Nat :=
  match F32.value v with
  | .fin s m e => (f.round 0 sat s m (e + n)).1
  | x => (f.convert 0 sat x).1

/-- The rows that ACST writes, and the bytes of a row; a fault's cause when the descriptor does not fit (R311). -/
def storeRows (acc : Acc) (d : Nat) (nl : Nat) : Except Nat (Nat × List Nat) :=
  let fmt := bits d 3 0
  let tr := bit d 5
  let pack := fun (w n : Nat) (el : Nat → Nat → Nat) =>
    (List.range n).map (fun i => ((List.range n).map (fun j => el i j * 2 ^ (w * j))).foldl (· + ·) 0)
  if d / 2 ^ 16 != 0 || bits d 7 6 != 0 then .error cFMT_BAD
  else
    match acc.tag with
    | .f =>
      if fmt = 1 || 10 ≤ fmt then .error cFMT_BAD
      else
        match fmtOf fmt with
        | none => .error cACC_BAD
        | some f =>
          if nl < operandLines 32 (rowBytes f.width 32) then .error cFMT_BAD
          else .ok (rowBytes f.width 32, pack f.width 32 (fun i j =>
            storeElem f (bit d 4) (signed 8 (bits d 15 8)) (Tab.get 0 acc.el (if tr then j * 32 + i else i * 32 + j))))
    | .i => if nl < 32 then .error cFMT_BAD else if d != 0 then .error cACC_BAD
        else .ok (128, pack 32 32 (fun i j => Tab.get 0 acc.el (i * 32 + j)))
    | .m => if nl < 16 then .error cFMT_BAD else if d != 0 then .error cACC_BAD
        else .ok (128, pack 64 16 (fun i j => Tab.get 0 acc.el (i * 16 + j)))

/-- 0xF4 ACST: the accumulator is read at issue; the lines follow as ACST_LINE_WRITE (R311). -/
def execAcst (a : KArgs) (s : State) : Result :=
  match s.seqIssuer with
  | none => .next s
  | some i =>
    let n := a.imm.toNat % 64
    match i.w.tiles.find n with
    | none => .next (s.seqFault i cTILE_UNDEF)
    | some t =>
      match storeRows (i.w.mtx.get (a.kd.toNat % 8)) (i.x.src a.kb).toNat t.nl with
      | .error c => .next (s.seqFault i c)
      | .ok (rb, rows) =>
        if (s.tileState i.w n t).moving || s.heldByCopy i.w n then .next (s.seqWait i .stall)
        else
          let lines := (List.range (rb * rows.length / 128)).map (fun x => t.base + x)
          .next ((s.launch (i.flight (.acst n t.base lines (bytesOf rb rows)) [])).updSeq i (·.advance 1))

/-- 0xF5 ACLD (R312). -/
def execAcld (a : KArgs) (s : State) : Result :=
  match s.seqIssuer with
  | none => .next s
  | some i =>
    let n := a.imm.toNat % 64
    let d := (i.x.src a.kb).toNat
    match i.w.tiles.find n with
    | none => .next (s.seqFault i cTILE_UNDEF)
    | some t =>
      if s.tileState i.w n t != .ready then .next (s.seqWait i .stall)
      else if bits d 4 2 != 0 || d / 2 ^ 6 != 0 || d % 4 = 3 || t.nl < (if d % 4 = 2 then 16 else 32) then .next (s.seqFault i cFMT_BAD)
      else .next (s.enterQ1 i (.acld (a.kd.toNat % 8) n t.base (tagOf (d % 4)) (bit d 5)) [a.kd.toNat % 8] (bits a.imm.toNat 7 6) 1)

/-- 0xF6 SXLD: line n of the tile, n from k[KB] or the literal (R313). -/
def execSxld (a : KArgs) (s : State) : Result :=
  match s.seqIssuer with
  | none => .next s
  | some i =>
    let n := a.imm.toNat % 64
    let line := (i.x.src a.kb).toNat
    match i.w.tiles.find n with
    | none => .next (s.seqFault i cTILE_UNDEF)
    | some t =>
      if s.tileState i.w n t != .ready then .next (s.seqWait i .stall)
      else if t.nl ≤ line then .next (s.seqFault i cFMT_BAD)
      else .next (s.enterQ1 i (.sxld (a.kd.toNat % 8) n (t.base + line)) [] 0 a.kb.size)

/-- 0xF7 CBLD: the first 8 lines of the tile (R313). -/
def execCbld (a : KArgs) (s : State) : Result :=
  match s.seqIssuer with
  | none => .next s
  | some i =>
    let n := a.imm.toNat % 64
    match i.w.tiles.find n with
    | none => .next (s.seqFault i cTILE_UNDEF)
    | some t =>
      if s.tileState i.w n t != .ready then .next (s.seqWait i .stall)
      else if t.nl < 8 then .next (s.seqFault i cFMT_BAD)
      else .next (s.enterQ1 i (.cbld n t.base) [] 0 1)

/-! ### Operations in Q1 -/

/-- The operation of a resident workgroup in Q1, when those before it are performed (R316). -/
def State.q1At (s : State) (op : Nat) : Option (Flight × Nat × Wg) :=
  match s.flights.find op with
  | none => none
  | some f =>
    if s.flights.all (fun e => e.1 ≥ op || e.2.uid != f.uid || e.2.party != f.party || e.2.performed) then
      (s.resident f.uid).map (fun e => (f, e.1, e.2))
    else none

/-- Writes `n` words of 4 bytes from scratchpad byte `a` up to a table at `k` up. -/
def wordsFrom (scratch : Tab Byte) (t : Tab Word) (k a n : Nat) : Tab Word :=
  (List.range n).foldl (fun t i => Tab.set 0 t (k + i) (BitVec.ofNat 32 (scratch.bytes (a + 4 * i) 4))) t

/-- What a matrix operation writes when it completes. -/
def Job.finish (j : Job) (w : Wg) : Mtx :=
  let m := w.mtx
  match j with
  | .matmul p =>
    let n := p.x.acc.toNat
    let d := p.desc
    if p.form = 2 then
      m.set n (productM p (m.get n) (operand w.scratch p.baseA 16 (8 * dK d)) (operand w.scratch p.baseB 16 (8 * dK d)))
    else
      let ra := rowBytes (widthOf (dFa d)) (dK d)
      let rows := if p.form = 1 then
          (List.range 32).map (fun i => if p.zeros.contains i then none else some (p.rows.bytes (i * ra) ra))
        else (operand w.scratch p.baseA 32 ra).map some
      m.set n (product m.book p (m.get n) rows ((operand w.scratch p.baseB 32 (rowBytes (widthOf (dFb d)) (dK d))).map some))
  | .acld n _ base tag tr =>
    let side := if tag == .m then 16 else 32
    let size := if tag == .m then 8 else 4
    m.set n ⟨tag, grid side (fun i j => w.scratch.bytes (base * 128 + size * (if tr then j * side + i else i * side + j)) size)⟩
  | .sxld n _ line => { m with sx := wordsFrom w.scratch m.sx (n * 32) (line * 128) 32 }
  | .cbld _ base => { m with book := wordsFrom w.scratch m.book 0 (base * 128) 256, bookSet := true }
  | _ => m

/-- Is it an operation that MATRIX_OP_COMPLETE ends? -/
def Job.isMatrix (j : Job) : Bool :=
  match j with
  | .matmul _ | .acld _ _ _ _ _ | .sxld _ _ _ | .cbld _ _ => true
  | _ => false

/-- MATRIX_OP_COMPLETE: the operation reads its tiles, writes its destination and closes its window (R296, R299). -/
def execMatrixOpComplete (op : Nat) (s : State) : Result :=
  match s.q1At op with
  | none => .next s
  | some (f, k, w) =>
    if !f.job.isMatrix then .next s
    else
      let m := f.job.finish w
      .next ((s.updWg k (fun w => { w with mtx := { m with wins := m.wins.filter (fun x => x.op != op) } })).retire op)

/-- ACST_LINE_WRITE: a line of an ACST, whole, with its full bit (R311). -/
def execAcstLineWrite (op line : Nat) (s : State) : Result :=
  match s.q1At op with
  | none => .next s
  | some (f, k, _) =>
    match f.job with
    | .acst tile base todo data =>
      if !todo.contains line then .next s
      else
        let left := todo.filter (fun l => l != line)
        let t := s.updWg k (fun w =>
          ({ w with scratch := w.scratch.setBytes (line * 128) 128 (data.bytes ((line - base) * 128) 128) }).setFull line true)
        .next (if left.isEmpty then t.retire op else t.updFlight op (fun f => { f with job := .acst tile base left data }))
    | _ => .next s

/-- The rows of A that an MMAG gathers and the rows of +0, or none when an index is out of range (R307). -/
def gatherRows (scratch : Tab Byte) (ta ti : Tile) (rb : Nat) : Option (List Nat × List Nat) :=
  let n := if rb = 0 then 0 else ta.nl * 128 / rb
  let ix := (List.range 32).map (fun i => scratch.bytes (ti.base * 128 + 2 * i) 2)
  if ix.any (fun x => x != 0xFFFF && n ≤ x) then none
  else some (ix.map (fun x => if x = 0xFFFF then 0 else scratch.bytes (ta.base * 128 + x * rb) rb),
    (List.range 32).filter (fun i => ix.getD i 0 == 0xFFFF))

/-- A core's matrix engine (R297). -/
def EngineTurns.init : EngineTurns := ⟨[0, 1, 2, 3], 0⟩

/-- The turns of a core's matrix engine. -/
def State.engineAt (s : State) (core : Nat) : EngineTurns := Tab.get EngineTurns.init s.sched.matrix core

/-- A context of slot `j` has issued on a core's matrix engine, which it holds for `n` cycles. -/
def State.engineTaken (s : State) (core j n : Nat) : State :=
  let e := s.engineAt core
  let m := Tab.set EngineTurns.init s.sched.matrix core ⟨e.order.filter (· != j) ++ [j], s.cycle (core / 144) + n⟩
  { s with sched := { s.sched with matrix := m } }

/-- Does an earlier ACST of the context still write a line of a tile (R316)? -/
def State.written1 (s : State) (w : Wg) (t : Tile) : Bool :=
  s.flights.any (fun e => e.2.uid == w.uid && (match e.2.job with
    | .acst _ _ todo _ => t.lines.any (fun l => todo.contains l)
    | _ => false))

/-- What the gather unit reads for an MMAG. -/
def Wg.latched (w : Wg) (a : XArgs) (ta ti : Tile) : Latch :=
  let d := w.mtx.seq.reg a.kf.toNat
  let rb := rowBytes (widthOf (dFa d)) (dK d)
  match gatherRows w.scratch ta ti rb with
  | some rows => ⟨bytesOf rb rows.1, rows.2, false⟩
  | none => ⟨[], [], true⟩

/-- MMAG_GATHER_END: the rows are in the A latch, the earlier ACSTs to TA and TI having written them; the MMAG then issues when the
engine takes it (R297, R307, R316). A gather of a halted workgroup has not issued: it is made again (R315). -/
def execMmagGatherEnd (wg : Nat) (s : State) : Result :=
  match s.wg? wg with
  | none => .next s
  | some w =>
    match w.mtx.gather with
    | none => .next s
    | some a =>
      if w.mtx.latch.isSome then .next s
      else if w.halt.isSome then .next (s.updWg wg (fun w => { w with mtx := w.mtx.giveUp }))
      else
        match w.tiles.find a.ta.toNat, w.tiles.find a.ti.toNat with
        | some ta, some ti =>
          if s.written1 w ta || s.written1 w ti then .next s
          else .next (s.updWg wg (fun v => { v with mtx := { v.mtx with latch := some (w.latched a ta ti) } }))
        | _, _ => .next (s.updWg wg (fun w => { w with mtx := w.mtx.giveUp }))

end Machine
end Sys2Proof
end

