-- ==== Sys2Proof/Machine/Events.lean ====
section
/-!
DEFINITION. What comes to a quad or a sequencer from outside its instruction stream: clause headers, returning data,
acknowledgements, imprecise reports, the end of an EXIT, the entry of a handler (03_encoding R47, 05_traps R104 to R112,
08_quad_control R186, 10_memory_ops R232, R251, 13_hamper R264).
-/
namespace Sys2Proof.Machine

open Sys2Proof

/-- The place of the party whose turn it is becomes the first instruction of a clause. -/
def State.openClause (s : State) (h : Word) : State :=
  (s.onQuad (fun q => { q with cl := q.cl.opened h })).onSeq (fun x => { x with cl := x.cl.opened h, await := none })

/-- CLAUSE_HEADER_ISSUE: every condition of the header holds, and the party goes on to the clause's first instruction
(03_encoding R47). -/
def execClauseHeaderIssue (s : State) : Result :=
  match s.gate, s.focus with
  | .header h, some p => .next ((s.openClause h).settle s p true)
  | _, _ => .next s

/-- LOAD_DATA_RETURN: the data of a load, an atomic or a KLD arrives and is written. -/
def execLoadDataReturn (op : Nat) (s : State) : Result :=
  match s.flights.find op with
  | none => .next s
  | some f =>
    let t := s.loadReturn op
    match f.party with
    | .quad _ _ => .next t
    | p => .next (t.settleSeq s p false)

/-- STORE_ACKNOWLEDGEMENT: an ordering point's acknowledgement reaches the quad, or its saved record. -/
def execStoreAcknowledgement (op part : Nat) (s : State) : Result := .next (s.acknowledge op part)

/-- WAITV_READ_RETURN. -/
def execWaitvReadReturn (op : Nat) (s : State) : Result :=
  match s.flights.find op with
  | none => .next s
  | some f =>
    match f.party with
    | .quad k q => .next ((s.waitvReturn op).settleQuad s k q false)
    | _ => .next s

/-- STN_NAME_WRITE: the name reaches its pair. -/
def execStnNameWrite (op : Nat) (s : State) : Result := .next (s.nameWrite op)

/-- IMPRECISE_REPORT_DELIVERY: the oldest report that waits in a quad is delivered at an instruction boundary, and starts a
halt with its store's place (05_traps R104, R110). -/
def execImpreciseReportDelivery (wg quad : Nat) (s : State) : Result :=
  match s.wg? wg, s.quad? wg quad with
  | some w, some x =>
    match x.reports with
    | [] => .next s
    | (f, pos) :: rest =>
      if !x.live || x.sup || w.halt.isSome || !w.gangWhole (quad / 8) then .next s
      else .next ((s.updQuad wg quad (fun q => { q with reports := rest })).raise wg quad f pos false true)
  | _, _ => .next s

/-- EXIT_COMPLETE: the counters are zero and the store buffer is empty: the quad stops being live (R186). -/
def execExitComplete (wg quad : Nat) (s : State) : Result :=
  match s.wg? wg, s.quad? wg quad with
  | some w, some x =>
    if !x.live || !x.await.any (fun a => a.what == .exit) || !w.goesOn quad ||
        !x.reports.isEmpty || x.uad != 0 || x.uap != 0 || s.entriesUsed w.uid (.quad wg quad) != 0 then .next s
    else
      let t := (s.updQuad wg quad (fun q => { q with live := false, idem := none, await := none })).settleQuad s wg quad false
      .next ((t.cbarCheck w.unit).checkComplete wg)
  | _, _ => .next s

/-- May the origin of a halt enter its handler now: every gang at an instruction boundary, the matrix sequencer's products
written, every STN's name written, and no operation of the origin in Q5 or an HFREE under way (R109, R111, 13_hamper R273)? -/
def State.stoppedFor (s : State) (k : Nat) (w : Wg) (h : Halt) (x : Quad) : Bool :=
  (List.range 8).all (fun g => w.gangWhole g) &&
    s.flights.all (fun f => f.2.uid != w.uid || ((f.2.queue != 1 || f.2.performed) && (match f.2.job with
      | .stn _ => false
      | _ => true))) &&
    x.await.all (fun a => match a.what with
      | .q5 _ => false
      | _ => true) &&
    (s.opsOf w.uid (.quad k h.origin)).all (fun f => match f.2.job with
      | .hfree _ _ => false
      | _ => true)

/-- HANDLER_ENTRY: once the workgroup has stopped, the loads that wait behind held stores are withdrawn and every other
pending destination of the origin is written, the origin enters the handler at TVEC (R105, R109, R111, R112). -/
def execHandlerEntry (wg : Nat) (s : State) : Result :=
  match s.wg? wg with
  | none => .next s
  | some w =>
    match w.halt with
    | none => .next s
    | some h =>
      match w.quads.find h.origin with
      | none => .next s
      | some x =>
        if h.stage != .stopping || !s.stoppedFor wg w h x then .next s
        else
          let tvec := (s.csr (dieOf wg) w.tenant).tvec
          let l := s.withdrawn w.uid (.quad wg h.origin) false
          let t := l.foldl (fun s e => s.withdraw e) s
          let redo := (l.filter (fun e => match e.2.job with
            | .waitv _ _ => false
            | _ => true)).map (fun e => (⟨e.2.pos, e.2.lanes, e.1, false⟩ : Redo))
          if !((t.quad? wg h.origin).any (fun q => q.wins.isEmpty)) then .next s
          else if tvec == 0 then .next (t.endUnit w.unit wg h.origin h.fault h.pos false h.imprecise)
          else if 448 < x.depth + 64 then
            .next (t.endUnit w.unit wg h.origin { h.fault with cause := cWIN_SPILL, level := 7, inner := h.fault.cause, label := 0, route := 0 }
              h.pos true h.imprecise)
          else
            let blocked := w.quads.filter (fun e => e.1 != h.origin && e.2.live && e.2.await.isSome)
            let u := blocked.foldl (fun s e => (s.stopQuad w.uid wg e.1).updQuad wg e.1 (·.rewoken)) t
            let v := u.updWg wg (fun w => { w with
              halt := some { h with stage := .handler }
              gangs := Tab.set ⟨false, [], 0⟩ w.gangs (h.origin / 8) ⟨true, [], 0⟩
              quads := w.quads.map (fun e => if e.2.live && e.1 != h.origin then (e.1, { e.2.siblingRecord h.origin with skid := 0 }) else e)
              mtx := { w.mtx.giveUp with seq := { w.mtx.giveUp.seq with skid := 0 } }
              cpy := { w.cpy with seq := { w.cpy.seq with skid := 0 } } })
            .next (v.updQuad wg h.origin (fun q => q.enterHandler h.origin h.fault h.pos h.ord redo tvec true))

end Sys2Proof.Machine
end

