-- ==== Sys2Proof/Machine/Fabric.lean ====
section
/-!
DEFINITION. The fabric and the host link: flits and replay, hops, answers, the hold store, counts and skips, timeouts,
lost peers, address translation (17_fabric R321 to R337, 09_routes R194).
-/
namespace Sys2Proof
namespace Machine

/-! ### Flits (R321 to R323) -/

end Machine

/-- KIND. -/
def Flit.kind (f : Flit) : Nat := bits f.hdr.toNat 25 24
/-- ACK. -/
def Flit.ack (f : Flit) : BitVec 12 := f.hdr.extractLsb' 12 12
/-- SEQ. -/
def Flit.seq (f : Flit) : BitVec 12 := f.hdr.extractLsb' 0 12

/-- Is the flit bad (Table 17-1)? -/
def Flit.bad (f : Flit) : Bool := bits f.hdr.toNat 63 26 != 0 || f.kind == 3 || f.crcOf != f.crc

namespace Machine

/-- Frees the flits that an ACK reaches. -/
def Link.freed (l : Link) (ack : BitVec 12) : Link := { l with retry := l.retry.filter (fun e => 2048 ≤ (ack - e.1).toNat) }

/-- A discard: one NAK, until the expected flit is accepted. -/
def Link.discard (l : Link) : Link :=
  if l.nakSent then l else { l with nakSent := true, wire := l.wire ++ [flitOf 2 (l.expect - 1) 0 []] }

/-- A NAK: every held flit from the one after its ACK on is sent again, in order. -/
def Link.replay (l : Link) (ack : BitVec 12) : Link :=
  { l with
    lastNak := some ack
    naks := if l.lastNak == some ack then l.naks + 1 else 1
    wire := l.wire ++ l.retry.map (fun e => flitOf 0 (l.expect - 1) e.1 e.2) }

/-- What a link end does with a flit that completes the messages `ms`: one that is accepted brings them, after those before it
(R322). -/
def Link.receive (l : Link) (f : Flit) (ms : List FabricMsg) : Link :=
  if f.bad then l.discard
  else
    let a := l.freed f.ack
    match f.kind with
    | 0 => if f.seq == a.expect then { a with expect := a.expect + 1, nakSent := false, inbox := a.inbox ++ ms } else a.discard
    | 2 => a.replay f.ack
    | _ => a

/-- A readiness bit set or cleared. -/
def State.setReady (s : State) (n : Nat) (b : Bool) : State :=
  let m : BitVec 672 := BitVec.ofNat 672 (2 ^ n)
  { s with host := { s.host with ready := if b then s.host.ready ||| m else s.host.ready &&& ~~~m } }

/-- A link goes down: its buffers are discarded, a record of KIND 3 goes to the host, its readiness bit clears (R323). -/
def State.linkDown (s : State) (n : Nat) : State :=
  ((s.setLink n { s.link n with up := false, retry := [], beats := [], pending := [], inbox := [], lastNak := none, naks := 0 }).setReady
    (19 * 32 + n) false).report ⟨3, 0, TrapRec.zero, 0, 0, 0, 0, n / 8 * 2 ^ 12 + n * 2 ^ 14, []⟩

/-- FLIT_RECEIVED: go-back-N at one link end; a SEQ named by 16 consecutive NAKs takes the link down (R322, R323). The messages
whose last beat the flit carries come with it, since the manual does not lay out their beats (log entry 20). -/
def execFlitReceived (link : Nat) (flit : FlitIn) (s : State) : Result :=
  if !(s.link link).up then .next s
  else
    let l := (s.link link).receive flit.flit flit.msgs
    if 16 ≤ l.naks then .next (s.linkDown link)
    else .next ((s.setLink link l).pumped link)

/-- LINK_DOWN_ACK_TIMEOUT: data flits are held, and their ACK has not advanced for 65,536 flit times, here or, for `far`, at the
other end, with which this end goes down (R323). -/
def execLinkDownAckTimeout (link : LinkEnd) (s : State) : Result :=
  let l := s.link link.link
  if l.up && (link.far || !l.retry.isEmpty) then .next (s.linkDown link.link) else .next s

/-- LINK_READY: the link, one of the 32, has trained; its sequence starts over (log entry 11). -/
def execLinkReady (link : Nat) (s : State) : Result :=
  if (s.link link).up || Config.links ≤ link then .next s
  else .next ((s.setLink link { Link.idle with up := true, eq := (s.link link).eq, wire := (s.link link).wire }).setReady (19 * 32 + link) true)

/-! ### Counts (R330, R331) -/

/-- The key of RCV: source module and die, tenant, slot. -/
def rcvKey (pl die tenant slot : Nat) : Nat := ((pl * 4 + die) * 16 + tenant) * 8 + slot

/-- RCV. -/
def State.rcv (s : State) (pl die tenant slot : Nat) : Nat := Tab.get 0 s.fab.rcv (rcvKey pl die tenant slot)

/-- A packet of a slot has been accepted. -/
def State.accepted (s : State) (pl die tenant slot : Nat) : State :=
  { s with fab := { s.fab with rcv := Tab.set 0 s.fab.rcv (rcvKey pl die tenant slot) ((s.rcv pl die tenant slot + 1) % 2 ^ 32) } }

/-- Has RCV reached a carried value (R331)? -/
def reached (rcv sent : Nat) : Bool := (rcv + 2 ^ 32 - sent) % 2 ^ 32 < 2 ^ 31

/-- The number up to which packets of a slot have been performed, and the earlier ones that have not. -/
def State.met (s : State) (pl die tenant slot : Nat) : Nat × List Nat := Tab.get (0, []) s.fab.met (rcvKey pl die tenant slot)

/-- Packet `n` of a slot has been performed at its owning die. -/
def State.packetDone (s : State) (pl die tenant slot n : Nat) : State :=
  let m := s.met pl die tenant slot
  let d := (n + 2 ^ 32 - m.1) % 2 ^ 32
  let v := if d < 2 ^ 31 then ((n + 1) % 2 ^ 32, m.2 ++ (List.range d).map (fun i => (m.1 + i) % 2 ^ 32)) else (m.1, m.2.erase n)
  { s with fab := { s.fab with met := Tab.set (0, []) s.fab.met (rcvKey pl die tenant slot) v } }

/-- Has RCV of a slot reached a carried value, and has each of the packets that it counts been performed (R330)? -/
def State.slotMet (s : State) (pl die tenant slot sent : Nat) : Bool :=
  let m := s.met pl die tenant slot
  reached (s.rcv pl die tenant slot) sent && reached m.1 sent && m.2.all (fun n => reached n sent)

/-- Does every slot of a packet's side meet the counts it carries? -/
def State.countsMet (s : State) (pl die tenant slot : Nat) (counts : List Nat) : Bool :=
  (List.range counts.length).all (fun i => s.slotMet pl die tenant (slot / 4 * 4 + i) (counts.getD i 0))

/-- A skip: RCV counts the lost packet as accepted and performed (R331). -/
def State.skipped (s : State) (pl die tenant slot n : Nat) : State := (s.accepted pl die tenant slot).packetDone pl die tenant slot n

/-! ### Answers (R326, R333, R334) -/

/-- Counts a late answer at a die. -/
def State.lateAnswer (s : State) (die : Nat) : State := { s with fab := { s.fab with late := s.fab.late.bump die 1 } }

end Machine

/-- Is a message the request of an operation's line access? -/
def FabricMsg.of (m : FabricMsg) (op part : Nat) : Bool :=
  match m.body with
  | .request r => r.op == op && r.part == part
  | .seatFull _ _ _ _ _ o _ _ _ => o == op
  | .seatReturn _ _ _ o _ => o == op
  | _ => false

/-- The die and tag that an answer to a request names. -/
def MsgBody.tag (b : MsgBody) : Option (Nat × Nat × Nat) :=
  match b with
  | .request r => some (r.srcDie, r.op, r.part)
  | .seatFull _ _ _ _ die op _ _ _ => some (die, op, 0)
  | .seatReturn _ _ die op _ => some (die, op, 0)
  | _ => none

/-- The path slot of a request. -/
def MsgBody.slot (b : MsgBody) : Nat :=
  match b with
  | .request r => r.slot
  | .seatFull _ _ _ _ _ _ c _ _ => c
  | .seatReturn _ _ _ _ c => c
  | _ => 0

namespace Machine

/-- The requests of a line access have been answered. -/
def State.pruned (s : State) (op part : Nat) : State :=
  { s with fab := { s.fab with
    outbox := s.fab.outbox.filter (fun m => !m.2.of op part)
    resend := s.fab.resend.filter (fun h => !h.msg.of op part) } }

/-- The request of a line access on one side has been answered, or given up. -/
def State.prunedSide (s : State) (op part slot : Nat) : State :=
  { s with fab := { s.fab with
    outbox := s.fab.outbox.filter (fun m => !(m.2.of op part && m.2.body.slot == slot))
    resend := s.fab.resend.filter (fun h => !(h.msg.of op part && h.msg.body.slot == slot)) } }

/-- The path slot of a line access is answered. -/
def Part.cleared (p : Part) (c : Nat) : Part := if c < 4 then { p with slot := none } else { p with mslot := none }

/-- The path slots of a line access that nothing has answered. -/
def Part.open (p : Part) : List Nat := p.slot.toList ++ p.mslot.toList

/-- One side of a store's line access has answered: the path count drops, and with the last side the counter; a counted
line access is then done with, any other is performed (R232, R336). -/
def State.sideAnswered (s : State) (id j : Nat) (f : Flight) (p : Part) (c : Option Nat) : State :=
  let last := p.twin ≤ 1
  let t := if f.job.counted then s.uncountPart f p.onDie c.toList last else s
  if !last then ((match c with
    | some n => t.prunedSide id j n
    | none => t)).updPart id j (fun x => { (match c with
    | some n => x.cleared n
    | none => x) with twin := x.twin - 1 })
  else if f.job.counted || f.job == .kst || s.gone f then (t.pruned id j).dropPart id j
  else (t.pruned id j).updPart id j (fun x => { x with st := .performed, twin := 0, slot := none, mslot := none })

/-- One side of every part of a packet has answered. -/
def State.sidesAnswered (s : State) (ms : List (Nat × Nat)) (c : Option Nat) : State :=
  ms.foldl (fun s m => match s.part? m.1 m.2 with
    | some (f, p) => s.sideAnswered m.1 m.2 f p c
    | none => s) s

/-- Gives the values read to the accesses of a line access. -/
def withValues (as : List Access) (vals : List (Nat × Nat)) : List Access :=
  (as.zipIdx).map (fun e => { e.1 with got := (vals.getD e.2 (0, 0)).2 })

/-- Changes an operation of the itinerary engine, wherever it is kept; one that answers nothing is no longer waited for. -/
def State.updEngineOp (s : State) (op : Nat) (g : EngineOp → Option EngineOp) : State :=
  let l := fun (os : List EngineOp) => os.filterMap (fun o => if o.op == op then g o else some o)
  { s with itin := { s.itin with
    strays := l s.itin.strays
    runs := s.itin.runs.map (fun e => (e.1, { e.2 with copies := l e.2.copies, notes := l e.2.notes, rets := l e.2.rets })) } }

/-- An operation of the engine is answered, or given up: it is no longer waited for. -/
def State.dropEngineOp (s : State) (op : Nat) : State := (s.updEngineOp op (fun _ => none)).pruned op 0

/-- An operation of the engine, with the entry that sent it where its run of the table is the present one. -/
def State.engineOp? (s : State) (op : Nat) : Option (Option Nat × EngineOp) :=
  let inRun := s.itin.runs.findSome? (fun e => ((e.2.copies ++ e.2.notes ++ e.2.rets).find? (fun o => o.op == op)).map (fun o => (some e.1, o)))
  match inRun with
  | some x => some x
  | none => (s.itin.strays.find? (fun o => o.op == op)).map (fun o => (none, o))

/-- A failure that an operation of the engine brings: the entry that sent it does not close (19_itinerary R354, R359). -/
def State.engineBreak (s : State) (e : Option Nat) (o : EngineOp) (cause : Nat) : State :=
  match e with
  | some n => s.itinBreak n cause
  | none => if s.itin.owner == some o.tenant then s.itinFail cause else s

/-- A refused packet waits to be sent again (R330). -/
def State.toResend (s : State) (op part slot : Nat) : State :=
  match s.fab.outbox.find? (fun m => m.2.of op part && m.2.body.slot == slot) with
  | some (some port, m) => { s with fab := { s.fab with resend := s.fab.resend ++ [⟨port, 0, m⟩] } }
  | _ => s

/-- RCV of a slot as an acknowledgement reports it (R331). -/
def State.reportedRcv (s : State) (die tenant pl slot rcv : Nat) : State :=
  { s with fab := { s.fab with acked := Tab.set 0 s.fab.acked (sentKey die tenant pl slot) rcv } }

/-- An answer for the itinerary engine's operation, if it is one (19_itinerary R354, R359). -/
def State.engineAnswer (s : State) (die op : Nat) (a : Answer) : State :=
  match s.engineOp? op with
  | none => s.lateAnswer die
  | some (e, o) =>
    if !o.slots.contains a.slot then s.lateAnswer die
    else
      let got := (s.updEngineOp op (fun o =>
        let l := o.slots.filter (· != a.slot)
        if l.isEmpty then none else some { o with slots := l })).prunedSide op 0 a.slot
      match a with
      | .error _ _ _ cause => (s.dropEngineOp op).engineBreak e o (if cause == cPEER_DISABLED && s.itin.gone then cIT_PEER_LOST else cREMOTE_ERROR)
      | .holdFull c => s.toResend op 0 c
      | .ack c rcv => if o.counted then got.reportedRcv 0 o.tenant (plOf o.route) c rcv else got
      | .data _ _ _ => got

/-- A release of this die has been applied, or is lost: the modules to which a later release of the die is on its way are told
how far the die's releases have been applied (R332). -/
def State.tell (s : State) (f : Flight) (stamp : Option Stamp) : State :=
  match stamp with
  | none => s
  | some st =>
    let waits := (s.flights.map (fun e => if e.2.die == f.die && e.2.tenant == f.tenant then
        (e.2.parts.filter (fun p => p.2.st == .away && p.2.stamp.any (fun t => t.key == st.key && st.n < t.n))).map (fun p => p.2)
      else [])).flatten
    let upTo := (s.unanswered st.key).foldl min (st.n + 2 ^ 64) - 1
    waits.foldl (fun s p =>
      match (s.firstHop f.tenant (if p.slot.isSome then p.label else p.mlabel)).toOption with
      | none => s
      | some (out, port) => s.send f.die (some port) ⟨f.tenant, BitVec.ofNat 12 out, 0, .note [(st.key, upTo)]⟩) s

/-- What an answer says of its side's RCV (R331). -/
def State.answeredRcv (s : State) (f : Flight) (p : Part) (a : Answer) : State :=
  match a with
  | .ack c rcv => if p.place == .host then s else s.reportedRcv f.die f.tenant (plOf p.route) c rcv
  | _ => s

/-- An answer that comes after its context has ended: it is counted, and its side waits no more; a release that it answers has been
applied all the same (R332, R334). -/
def State.answerGone (s : State) (f : Flight) (p : Part) (ms : List (Nat × Nat)) (a : Answer) : State :=
  let t := ((s.answeredRcv f p a).sidesAnswered ms (if p.place == .host then none else some a.slot)).lateAnswer f.die
  if p.twin ≤ 1 then t.tell f p.stamp else t

/-- An answer reaches its issuing die: the accesses take their values, a store's side is acknowledged, an error ends the
unit, a refusal by a full hold store waits to be sent again; an answer to nothing, of a side that no longer waits, or for a context
that has ended, is discarded and counted (R330, R333, R334, R337). -/
def State.answer (s : State) (die op j : Nat) (a : Answer) : State :=
  match s.flights.find op with
  | none => s.engineAnswer die op a
  | some f =>
    match f.parts.find j with
    | none => s.lateAnswer die
    | some p =>
      if p.st != .away || (p.place != .host && !p.open.contains a.slot) then s.lateAnswer die
      else
        let ms := if p.place == .host then [(op, j)] else s.membersOf f p
        match a, s.gone f with
        | .holdFull c, _ => s.toResend op j c
        | a, true => s.answerGone f p ms a
        | .data _ vals clock, false =>
          let xs := s.laneAccs ms
          (((s.pruned op j).acquired f.tenant f.die clock).share ms (xs.map (·.1)) (withValues (xs.map (·.2)) vals)).tell f p.stamp
        | .ack c rcv, false =>
          if p.place == .host then s.sideAnswered op j f p none
          else
            let t := (s.answeredRcv f p (.ack c rcv)).sidesAnswered ms (some c)
            if p.twin ≤ 1 then t.tell f p.stamp else t
        | .error c level label cause, false =>
          if p.place == .host then s.refused op j f p ⟨cause, level, label⟩
          else
            let code := match f.job with
              | .copy _ | .cpl _ _ => cCOPY_FAULT
              | _ => cREMOTE_ERROR
            ((s.sidesAnswered ms (some c)).tell f p.stamp).endOf f (f.info ⟨code, level, label⟩ cause p.route (f.lanesOf p))

/-- REMOTE_ANSWER_ARRIVAL. -/
def execRemoteAnswerArrival (die op part : Nat) (answer : Answer) (s : State) : Result := .next (s.answer die op part answer)

/-- The path label of a request that has left. -/
def State.labelOf (s : State) (op part slot : Nat) : Nat :=
  match s.part? op part, s.engineOp? op with
  | some (_, p), _ => if slot < 4 then p.label else p.mlabel
  | none, some (_, o) => bits (o.range.2.path slot) 11 0
  | none, none => 0

/-- HOLD_RESEND: a refused packet is sent again, with the same slot and counts, no sooner than 256 cycles later (R330). Its path label
is looked up again, and a refusal is answered as R325 states. -/
def execHoldResend (n : Nat) (s : State) : Result :=
  match s.fab.resend[n]? with
  | none => .next s
  | some h =>
    if h.age < 256 then .next s
    else
      let t : State := { s with fab := { s.fab with resend := s.fab.resend.eraseIdx n } }
      match h.msg.body.tag with
      | none => .next t
      | some (d, op, part) =>
        let c := h.msg.body.slot
        match s.firstHop h.msg.tenant (s.labelOf op part c) with
        | .error r => .next (t.answer d op part (.error c r.level r.label r.cause))
        | .ok (out, port) =>
          let m := { h.msg with label := BitVec.ofNat 12 out }
          .next (({ t with fab := { t.fab with
            outbox := t.fab.outbox.map (fun x => if x.2.of op part && x.2.body.slot == c then (some port, m) else x) } } : State).depart d (some port) m)

/-! ### Requests of other modules (R325, R326, R330) -/

/-- Sends an answer from die `at'` on the way back that starts at label `back`; one that is refused is lost (R326). -/
def State.reply (s : State) (at' tenant : Nat) (back : BitVec 12) (die op part : Nat) (a : Answer) : State :=
  match s.firstHop tenant back.toNat with
  | .error _ => s
  | .ok (out, port) => s.send at' (some port) ⟨tenant, BitVec.ofNat 12 out, 0, .answer die op part a⟩

/-- The accesses that a message carries. -/
def fromMsg (as : List MsgAcc) : List Access := (as.zipIdx).map (fun e => ⟨e.2, e.1.addr, e.1.size, e.1.data, e.1.cmp, 0⟩)

/-- Performs the line accesses of a request, one after the other: a gather packet is expanded here (R243, R333). -/
def State.serveLines (s : State) (tenant : Nat) (r : Request) (ls : List (List Access)) : Except Refuse (State × List Access × Tab Nat) :=
  match ls with
  | [] => .ok (s, [], [])
  | l :: rest =>
    match s.orderedAccess tenant r.kind r.aop l r.stamp r.acq with
    | .error e => .error e
    | .ok (t, as, c) => (t.serveLines tenant r rest).map (fun x => (x.1, as ++ x.2.1, clockJoin c x.2.2))

/-- The values of a request's accesses, with their sizes, in the order in which it names them. -/
def valuesOf (as : List Access) : List (Nat × Nat) :=
  (List.range as.length).map (fun k => ((as.find? (fun a => a.key == k)).map (fun a => (a.size, a.got))).getD (0, 0))

/-- A popped request is performed at its home, on its owning die, under this module's levels, and answered (R333). A release that has
been applied is known to be (R332). -/
def State.serve (s : State) (die : Nat) (m : FabricMsg) : State :=
  match m.body with
  | .request r =>
    let count := fun (s : State) => if r.counted then s.packetDone r.srcPl r.srcDie m.tenant r.slot r.ord else s
    match s.serveLines m.tenant r (splitLines (fromMsg r.accs)) with
    | .error e => (count s).reply die m.tenant m.label r.srcDie r.op r.part (.error r.slot e.level e.label e.cause)
    | .ok (t, as, clock) =>
      let u := count (match r.stamp with
        | some st => t.noted st.after
        | none => t)
      u.reply die m.tenant m.label r.srcDie r.op r.part
        (if r.kind == .store || r.kind == .relinquish then .ack r.slot (u.rcv r.srcPl r.srcDie m.tenant r.slot)
         else .data r.slot (valuesOf as) clock)
  | .seatFull gradient seat count pl src id c n _ =>
    let t := (s.seatNotice m.tenant pl gradient seat count).packetDone pl src m.tenant c n
    t.reply die m.tenant m.label src id 0 (.ack c (t.rcv pl src m.tenant c))
  | .seatReturn gradient pl src id c => (s.seatBack m.tenant pl gradient).reply die m.tenant m.label src id 0 (.ack c 0)
  | .skip pl src c n => s.skipped pl src m.tenant c n
  | .note clock => s.noted clock
  | .answer _ _ _ _ => s

end Machine

/-- What a packet that is held until it may be forwarded carries: its source, slot and counts, and the releases that its clock
counts; an STO, a release, a notice (R330, R332). -/
def MsgBody.ordered (b : MsgBody) : Option (Nat × Nat × Nat × List Nat × List (Nat × Nat)) :=
  match b with
  | .request r => if r.counts.isEmpty then none else some (r.srcPl, r.srcDie, r.slot, r.counts, (r.stamp.map (·.vc)).getD [])
  | .seatFull _ _ _ pl die _ c _ (n :: ns) => some (pl, die, c, n :: ns, [])
  | _ => none

/-- The source and slot of a packet that is counted (R330). -/
def MsgBody.countedFrom (b : MsgBody) : Option (Nat × Nat × Nat) :=
  match b with
  | .request r => if r.counted then some (r.srcPl, r.srcDie, r.slot) else none
  | .seatFull _ _ _ pl die _ c _ _ => some (pl, die, c)
  | _ => none

namespace Machine

/-- May an ordered packet be forwarded: its counts are reached, and what causally precedes it has been applied (R330, R332)? -/
def State.forwards (s : State) (tenant : Nat) (o : Nat × Nat × Nat × List Nat × List (Nat × Nat)) : Bool :=
  s.countsMet o.1 o.2.1 tenant o.2.2.1 o.2.2.2.1 && s.causal tenant o.2.2.2.2

/-- The die that a popped message goes to: the owning die of a request, the issuing die of an answer, die 0 for the itinerary engine. -/
def State.owningDie (s : State) (die : Nat) (m : FabricMsg) : Nat :=
  match m.body with
  | .request r => s.homeDie m.tenant die ((r.accs.map (·.addr)).headD 0)
  | .answer d _ _ _ => d
  | .seatFull _ _ _ _ _ _ _ _ _ | .seatReturn _ _ _ _ _ => 0
  | .skip _ _ _ _ | .note _ => die

/-- The receiving die keeps a message, or forwards it over a bridge (01_device R15). -/
def State.forward (s : State) (die : Nat) (m : FabricMsg) : State :=
  let to' := s.owningDie die m
  if to' != die then s.transit die to' (.reach m)
  else
    match m.body with
    | .answer d op part a => s.answer d op part a
    | _ => s.serve die m

/-- A counted packet is accepted by its receiving die. -/
def State.take (s : State) (m : FabricMsg) : State :=
  match m.body.countedFrom with
  | some (pl, die, c) => s.accepted pl die m.tenant c
  | none => s

/-- A message whose label this module pops, at the die of its link: it is forwarded, or held, or refused for want of room in the hold
store, and counted unless it is refused (R325, R330, R332). -/
def State.popped (s : State) (die : Nat) (m : FabricMsg) : State :=
  match m.body.ordered with
  | none => (s.take m).forward die m
  | some o =>
    if s.forwards m.tenant o then (s.take m).forward die m
    else if (s.fab.hold.filter (fun h => h.die == die && h.msg.tenant == m.tenant)).length < 64 then
      let t := s.take m
      { t with fab := { t.fab with hold := t.fab.hold ++ [⟨die, 0, m⟩] } }
    else
      match m.body.tag with
        | some (d, op, part) => s.reply die m.tenant m.label d op part (.holdFull m.body.slot)
        | none => s

/-- A refused message: a request is answered with an error on the link it came by, an answer is lost (R325, R326; log
entry 16). -/
def State.hopRefused (s : State) (link : Nat) (m : FabricMsg) (cause : Nat) : State :=
  match m.body.tag with
  | none => s
  | some (d, op, part) => s.send (link / 8) (some link) ⟨m.tenant, m.label, 0, .answer d op part (.error m.body.slot 1 m.label.toNat cause)⟩

/-- A message that has arrived on a link: the first failing step of R325 decides. -/
def State.hop (s : State) (link : Nat) (msg : FabricMsg) : State :=
  let e := s.swapEntry msg.label.toNat
  let port := bits e.toNat 16 12
  let out := BitVec.ofNat 12 (bits e.toNat 11 0)
  if !e.getLsbD 18 || !e.getLsbD (32 + msg.tenant) || bits e.toNat 63 48 != 0 || bits e.toNat 31 19 != 0 then
    s.hopRefused link msg cRANGE_MISS
  else if e.getLsbD 17 then s.popped (link / 8) { msg with label := out }
  else if 7 ≤ msg.hop then s.hopRefused link msg cRANGE_MISS
  else if !s.linkUp port then s.hopRefused link msg cPEER_DISABLED
  else s.depart (link / 8) (some port) { msg with label := out, hop := msg.hop + 1 }

/-- FABRIC_HOP: the next message that a link has received on a virtual channel is handled, in sequence order (R322, R325,
R327; log entry 67). -/
def execFabricHop (link channel : Nat) (s : State) : Result :=
  let l := s.link link
  match l.inbox.find? (fun m => m.channel == channel) with
  | none => .next s
  | some m => .next ((s.setLink link { l with inbox := l.inbox.erase m }).hop link m)

/-- ORDERED_PACKET_FORWARD: a held packet's counts have been reached, and its causal order is met (R330, R332). -/
def execOrderedPacketForward (n : Nat) (s : State) : Result :=
  match s.fab.hold[n]? with
  | none => .next s
  | some h =>
    match h.msg.body.ordered with
    | some o =>
      if s.forwards h.msg.tenant o then
        .next (({ s with fab := { s.fab with hold := s.fab.hold.eraseIdx n } } : State).forward h.die h.msg)
      else .next s
    | none => .next s

/-- SKIP_RECEIVE: RCV counts a lost packet as accepted and performed (R331): of those of the slot that have not been, the oldest (log
entry 27). -/
def execSkipReceive (source die tenant slot : Nat) (s : State) : Result :=
  if 4096 ≤ source || Config.dies ≤ die || Config.tenants ≤ tenant || 8 ≤ slot then .next s
  else
    let m := s.met source die tenant slot
    .next (s.skipped source die tenant slot (m.2.headD m.1))

/-- SWAP_TABLE_LOAD: the fabric manager loads an entry (R324). -/
def execSwapTableLoad (label : Nat) (entry : BitVec 64) (s : State) : Result :=
  .next { s with tab := { s.tab with swap := Tab.set 0 s.tab.swap (label % 4096) entry } }

/-! ### Timeouts (R331, R334) -/

/-- FTIMEOUT of a tenant. -/
def State.ftimeout (s : State) (tenant : Nat) : Nat := Tab.get (2 ^ 24) s.fab.ftimeout tenant

/-- Sends a skip for a lost packet, whose numbers on its slots are `ords`, on another valid path of its side, where there is one. -/
def State.sendSkip (s : State) (tenant die : Nat) (route : W64) (ords : List (Nat × Nat)) (c : Nat) : State :=
  match s.rangeOf tenant (plOf route) with
  | none => s
  | some (_, e) =>
    match ((e.paths (4 ≤ c)).filter (fun n => n != c)).findSome? (fun n => (s.firstHop tenant (bits (e.path n) 11 0)).toOption) with
    | none => s
    | some (out, port) => s.send die (some port) ⟨tenant, BitVec.ofNat 12 out, 0,
        .skip (s.selfpl tenant).toNat die c (((ords.find? (fun o => o.1 == c)).map (·.2)).getD 0)⟩

/-- The path label of the side of a line access that has not answered. -/
def Part.openLabel (p : Part) : Nat := if p.slot.isSome then p.label else p.mlabel

/-- An operation of the itinerary engine has not been answered for FTIMEOUT cycles: the engine fails (19_itinerary R359). -/
def State.engineTimeout (s : State) (op : Nat) : State :=
  match s.engineOp? op with
  | none => s
  | some (e, o) =>
    if o.age < s.ftimeout o.tenant then s
    else
      let t := if o.counted then o.slots.foldl (fun s c => s.sendSkip o.tenant 0 o.route o.ords c) s else s
      let u := t.dropEngineOp op
      let v := match e with
        | some n => u.unclose n
        | none => u
      if v.itin.owner == some o.tenant then v.itinCut cREMOTE_TIMEOUT false else v

/-- REMOTE_TIMEOUT_EXPIRY: a remote operation unanswered for FTIMEOUT cycles ends its unit; a lost store-class packet is
skipped. An operation of the itinerary engine puts the engine into FAILED (R334, 19_itinerary R359). -/
def execRemoteTimeoutExpiry (op part : Nat) (s : State) : Result :=
  match s.flights.find op with
  | none => .next (s.engineTimeout op)
  | some f =>
    match f.parts.find part with
    | none => .next s
    | some p =>
      if p.st != .away || p.place != .remote || p.age < s.ftimeout f.tenant then .next s
      else
        let lost := p.open
        let ms := s.membersOf f p
        let t := if f.job.storeClass then lost.foldl (fun s c => s.sendSkip f.tenant f.die p.route p.ords c) s else s
        let u := ms.foldl (fun s m => match s.part? m.1 m.2 with
          | some (g, q) => ((if g.job.counted then s.uncountPart g q.onDie lost true else s).pruned m.1 m.2).dropPart m.1 m.2
          | none => s) t
        .next ((u.tell f p.stamp).endOf f (f.info ⟨cREMOTE_TIMEOUT, 1, p.openLabel⟩ 0 p.route (f.lanesOf p)))

/-! ### Lost peers (R337) -/

/-- Sets or clears DIS, or MDIS, of a range entry. -/
def State.setDisabled (s : State) (tenant index : Nat) (mirror b : Bool) : State :=
  let e := s.range tenant index
  let m : W64 := if mirror then 0x80000000 else 0x40000000
  let n : RangeImage := { e with d0 := if b then e.d0 ||| m else e.d0 &&& ~~~m }
  { s with tab := { s.tab with ranges := Tab.set ⟨0, 0, 0, 0⟩ s.tab.ranges (tenant * 32 + index) n } }

/-- What becomes of a line access in flight to a lost side. -/
def State.lostPart (s : State) (id j : Nat) (mirror survives : Bool) : State :=
  match s.part? id j with
  | none => s
  | some (f, p) =>
    match (if mirror then p.mslot else p.slot) with
    | none => s
    | some c =>
      if p.st != .away then s
      else if !survives then
        ((s.sideAnswered id j f p (some c)).tell f p.stamp).endOf f (f.info ⟨cREMOTE_ERROR, 1, if mirror then p.mlabel else p.label⟩ cPEER_DISABLED p.route (f.lanesOf p))
      else if f.job.storeClass || s.gone f then (s.sideAnswered id j f p (some c)).tell f p.stamp
      else (s.pruned id j).updPart id j (fun x => { x with st := .flying, slot := none, mslot := none, twin := 0 })

/-- The operations of the engine to a lost side count as answered there; with no side left each fails the engine (R337,
19_itinerary R358). -/
def State.lostEngineOps (s : State) (tenant index : Nat) (mirror survives : Bool) : State :=
  (s.itin.unanswered.filter (fun o => o.tenant == tenant && o.range.1 == index && o.slots.any (fun c => (4 ≤ c) == mirror))).foldl (fun s o =>
    let c := (o.slots.find? (fun c => (4 ≤ c) == mirror)).getD 0
    if survives then s.engineAnswer 0 o.op (.data c [] []) else s.engineAnswer 0 o.op (.error c 1 0 cPEER_DISABLED)) s

/-- PEER_LOST: the fabric manager sets DIS or MDIS in an entry that names the peer; a record of KIND 4 goes to the host, and
the itinerary engine fails when the peer is its neighbour (R337, 19_itinerary R358). -/
def execPeerLost (tenant index : Nat) (mirror : Bool) (s : State) : Result :=
  let e := s.range tenant index
  if Config.tenants ≤ tenant || 32 ≤ index || !e.v || (if mirror then e.mdis else e.dis) then .next s
  else
    let t := (s.setDisabled tenant index mirror true).report ⟨4, tenant, TrapRec.zero, 0, 0, 0, 0, s.placeOf tenant 0 0, []⟩
    let survives := if mirror then !e.dis else e.mir && !e.mdis
    let hit := (s.flights.map (fun f => (f.2.parts.filter (fun p => f.2.tenant == tenant && p.2.place == .remote &&
      p.2.range.any (fun r => r.1 == index))).map (fun p => (f.1, p.1)))).flatten
    let v := hit.foldl (fun s h => s.lostPart h.1 h.2 mirror survives) t
    let it := v.itin
    let near := (bit it.h0 24 && e.lo ≤ it.uppl && it.uppl ≤ e.hi) || (bit it.h0 25 && e.lo ≤ it.dnpl && it.dnpl ≤ e.hi)
    let u := if it.owner == some tenant && near && !survives then v.itinCut cIT_PEER_LOST true else v
    .next (u.lostEngineOps tenant index mirror survives)

/-- PEER_RETURN: the host has brought the peer's data level, and the bit is cleared; nothing is copied. -/
def execPeerReturn (tenant index : Nat) (mirror : Bool) (s : State) : Result :=
  if Config.tenants ≤ tenant || 32 ≤ index then .next s else .next (s.setDisabled tenant index mirror false)

/-- SET_CAUSAL_GROUPS: the group and the index in it of each die named, and the pod labels of the group's other modules: at most
64 modules, and indices from 0 to 255 (R328). Group numbers are those below 2^16 (log entry 82). -/
def execSetCausalGroups (tenant : Nat) (groups : CausalGroups) (s : State) : Result :=
  if Config.tenants ≤ tenant || 64 ≤ groups.peers.length || groups.dies.any (fun g => Config.dies ≤ g.1 || 2 ^ 16 ≤ g.2.1 || 256 ≤ g.2.2) then .next s
  else .next { s with tab := { s.tab with
    groups := groups.dies.foldl (fun t g => t.put (tenant * 4 + g.1) (g.2.1, g.2.2)) s.tab.groups
    peers := Tab.set [] s.tab.peers tenant groups.peers } }

/-! ### Crossing a bridge (01_device R6, R15) -/

/-- What has crossed a bridge goes on: out on its link, unless that has gone down, to its owning or issuing die, or to the ATS queue of
die 0. -/
def State.landed (s : State) (x : Transit) : State :=
  match x.what with
  | .leave none _ => s
  | .leave (some n) m => if s.linkUp n then s.onLink n m else s
  | .reach m =>
    match m.body with
    | .answer d op part a => s.answer d op part a
    | _ => s.serve x.dst m
  | .translate _ op part => s.updPart op part (fun p => if p.st == .bridged then { p with st := .xlating } else p)

/-- A bridge takes each message for which the network has a free slot at its far end (R6; log entry 60). -/
def State.bridgeCross (s : State) (die : Nat) : State :=
  let present := s.tenantsPresent
  let ms := slotted present (s.bridgeMessages die)
  (ms.foldl (fun (p : State × Tab Nat) m =>
    if slotFree present p.2 m.output m.tenant m.cls then
      match m.other with
      | some t => (({ p.1 with fab := { p.1.fab with transit := p.1.fab.transit.erase t } } : State).landed t, p.2)
      | none => (p.1.crossedBridge m, if m.answer then p.2 else p.2.bump (vnKey m.output m.tenant m.cls) 1)
    else p) (s, s.bridgedAt)).1

/-- CROSSBAR_CYCLE of a die: each output grants up to four of the crosspoints that request it (R8, R9), and the die's bridges take
what waits (R6). Of two outputs that ask for an input's last move the one that `first` puts first has it (log entry 36). -/
def execCrossbarCycle (die first choice : Nat) (s : State) : Result :=
  let present := s.tenantsPresent
  let ms := slotted present (s.xbarMessages die)
  let outs := ((ms.map (·.output)).eraseDups).rotateLeft first
  let c0 : XCycle := ⟨s, choice, s.arrivedAt die, ms, [], []⟩
  let round := fun (c : XCycle) => outs.foldl (fun c o => c.grant present die o) c
  .next ((round (round (round (round c0)))).s.bridgeCross die)

/-! ### Address translation (R194) -/

/-- The key of a cached translation. -/
def pageKey (die tenant page : Nat) : Nat := (die * 16 + tenant) * 2 ^ 45 + page

/-- ATS_TRANSLATION_COMPLETION: a translation that grants some access is cached, and the access goes on; else a page request
holds it. -/
def execAtsTranslationCompletion (op part : Nat) (answer : Translation) (s : State) : Result :=
  match s.flights.find op with
  | none => .next s
  | some f =>
    match f.parts.find part with
    | none => .next s
    | some p =>
      if p.st != .xlating then .next s
      else if answer.read || answer.write then
        .next (({ s with tab := { s.tab with atc := s.tab.atc.put (pageKey f.die f.tenant (bits p.route.toNat 56 12)) answer } } : State).updPart
          op part (fun p => { p with st := .flying }))
      else .next (s.updPart op part (fun p => { p with st := .asking }))

/-- PRI_PAGE_RESPONSE: the access is translated again, or raises HOST_XLATE. -/
def execPriPageResponse (op part : Nat) (ok : Bool) (s : State) : Result :=
  match s.flights.find op with
  | none => .next s
  | some f =>
    match f.parts.find part with
    | none => .next s
    | some p =>
      if p.st != .asking || p.place != .host then .next s
      else if ok then .next (s.updPart op part (fun p => { p with st := .flying }))
      else .next (s.refused op part f p ⟨cHOST_XLATE, 5, 0⟩)

/-- ATS_INVALIDATION of pages `first` to `last`: it completes only when no access that used one of them is unperformed. -/
def execAtsInvalidation (die tenant first last : Nat) (s : State) : Result :=
  let using' := s.flights.any (fun f => f.2.die == die && f.2.tenant == tenant && f.2.parts.any (fun p =>
    p.2.place == .host && p.2.st == .away && first ≤ bits p.2.route.toNat 56 12 && bits p.2.route.toNat 56 12 ≤ last))
  if using' then .next s
  else .next { s with tab := { s.tab with atc := s.tab.atc.filter (fun e =>
    !(pageKey die tenant first ≤ e.1 && e.1 ≤ pageKey die tenant last)) } }

end Machine
end Sys2Proof
end

