-- ==== Sys2Proof/Machine/System.lean ====
section
/-!
DEFINITION. SYS class: the return from the handler, supervisor CSRs, pre-emption, contexts, and the tables of the levels
with the base dies' work (05_traps R115 to R119, 09_routes R202 to R223).
-/
namespace Sys2Proof.Machine

open Sys2Proof

/-! ### RETT (R116) -/

/-- The words that an instruction at a place takes, as they stand in memory, whether or not its fields are right; 1 when its
first word cannot be read. -/
def State.lengthAt (s : State) (tenant : Nat) (got : List (W64 × Word)) (c : Cl) : Nat :=
  match s.fetch tenant got c.pc with
  | .word w => if decErr (decode [w]) == some .short && 2 ≤ c.rem then 2 else 1
  | _ => 1

/-- The place after the instruction, or the header, at a place. After a header that has faulted, the word that follows it is
taken as a header (log entry 57). -/
def State.after (s : State) (tenant : Nat) (got : List (W64 × Word)) (c : Cl) : Cl :=
  if c.rem = 0 then Cl.start (c.pc + 4) else c.next (s.lengthAt tenant got c)

/-- What the quad executes again, in program order, and where it goes on, for a return with `skip` from a fault of its own
(R116). A fault of the quad as a whole, or one of an instruction executed again, stands at the quad's own place; a header there is taken
anew. -/
def State.returnPlan (s : State) (tenant : Nat) (got : List (W64 × Word)) (sh : Shadow) (skip : Bool) : List Redo × Cl :=
  let place := match sh.rest with
    | r :: _ => r.pos
    | [] => sh.resume
  let own : Redo := ⟨sh.pos, sh.fault.lanes, sh.ord, true⟩
  if sh.pos == place.issued then
    match skip, sh.rest with
    | false, [] => (Redo.sort (sh.withdrawn ++ (if sh.pos.rem = 0 then [] else [own])), sh.resume)
    | false, _ => (Redo.sort (sh.withdrawn ++ sh.rest), sh.resume)
    | true, r :: rest => (Redo.sort (sh.withdrawn ++ rest), if r.here then s.after tenant got sh.resume else sh.resume)
    | true, [] => (Redo.sort sh.withdrawn, s.after tenant got sh.resume)
  else (Redo.sort (sh.withdrawn ++ (if skip then [] else [⟨sh.pos, sh.fault.lanes, sh.ord, false⟩]) ++ sh.rest), sh.resume)

/-- The halt of a workgroup is over: every part resumes; a pre-emption that waited for the handler begins. -/
def State.resumeWg (s : State) (k : Nat) : State :=
  match s.wg? k with
  | none => s
  | some w =>
    (s.updWg k (fun w => { w with
      halt := none
      quads := w.quads.map (fun e => (e.1, e.2.resumes))
      mtx := { w.mtx with seq := { w.mtx.seq with skid := 0 } }
      cpy := { w.cpy with seq := { w.cpy.seq with skid := 0 } } })).startSaving w.unit

/-- 0xD0 RETT. -/
def execRett (mode : BitVec 2) (s : State) : Result :=
  match s.issuer with
  | none => .next s
  | some i =>
    match i.x.shadow, i.w.halt with
    | some sh, some h =>
      if mode.toNat = 2 then .next (s.endUnit i.w.unit i.k i.q sh.fault sh.pos false false)
      else
        let skip := mode.toNat = 1 && !sh.fault.fetch
        if h.imprecise || sh.fault.cause == cPREEMPT then
          let t := s.updQuad i.k i.q (fun x => x.leaveHandler sh (Redo.sort (sh.withdrawn ++ sh.rest)) sh.resume)
          let u := if mode.toNat = 0 then t.replayHeld i.w.uid (.quad i.k i.q)
            else t.discardHeld i.w.uid (.quad i.k i.q)
          .next (u.resumeWg i.k)
        else
          let far := skip && sh.resume.rem != 0 && s.fetch i.w.tenant i.x.got sh.resume.pc == .ask
          let p := s.returnPlan i.w.tenant i.x.got sh skip
          if far then .next (s.askFor (.quad i.k i.q) .fetch sh.resume.pc 4 i.x.cl true i.x.mask)
          else .next ((s.updQuad i.k i.q (fun x => x.leaveHandler sh p.1 p.2)).resumeWg i.k)
    | _, _ => .next s

/-! ### Supervisor CSRs (R107, R117) -/

/-- The value of a supervisor CSR, or none for another id. -/
def State.superCsr (s : State) (i : Issue) (id : Nat) : Option W64 :=
  let c := s.csr (dieOf i.k) i.w.tenant
  let w := fun (x : Word) => some (x.setWidth 64)
  match id with
  | 0x800 => some c.tvec
  | 0x801 => w i.x.trap.cause
  | 0x802 => w i.x.trap.level
  | 0x803 => w i.x.trap.label
  | 0x804 => some i.x.trap.pc
  | 0x805 => some i.x.trap.route
  | 0x806 => w i.x.trap.lanes
  | 0x807 => w i.x.trap.skid
  | 0x808 => w c.waitcap
  | 0x809 => w c.weight
  | 0x80A => some c.ctxbase
  | 0x80B => w c.preemptcfg
  | _ => none

/-- 0xD1 SCSRR. -/
def execScsrr (a : IArgs) (s : State) : Result :=
  match s.issuer with
  | none => .next s
  | some i =>
    let id := a.imm.toNat
    match s.superCsr i id with
    | none => .next (s.precise i cILL_FIELD)
    | some v =>
      if csrWide id && a.d.toNat % 2 == 1 then .next (s.precise i cILL_FIELD)
      else .next (s.updQuad i.k i.q (fun x => (x.csrTo a.d.toNat id (fun _ => v)).advance 1))

/-- Writes a tenant's supervisor CSRs on a die. -/
def State.setCsr (s : State) (die tenant : Nat) (f : SupCsr → SupCsr) : State :=
  { s with sched := { s.sched with csrs := Tab.set SupCsr.init s.sched.csrs (die * 16 + tenant) (f (s.csr die tenant)) } }

/-- A route that can be the base of save slots or a save record (R107, R119). -/
def slotRoute (r : W64) : Bool := isDev r && offOf r == 0 && xlOf r % 2 == 0

/-- 0xD2 SCSRW: ILL_FIELD, then PRIV for a CSR that no instruction writes. -/
def execScsrw (a : IArgs) (s : State) : Result :=
  match s.issuer with
  | none => .next s
  | some i =>
    let id := a.imm.toNat
    let v := i.x.reg i.x.lowest a.a.toNat
    let p := i.x.pair i.x.lowest a.a.toNat
    let put := fun (f : SupCsr → SupCsr) => Host.Outcome.next ((s.setCsr (dieOf i.k) i.w.tenant f).updQuad i.k i.q (·.advance 1))
    if (s.superCsr i id).isNone || (csrWide id && a.a.toNat % 2 == 1) then .next (s.precise i cILL_FIELD)
    else
      match id with
      | 0x800 => put (fun c => { c with tvec := p })
      | 0x808 => put (fun c => { c with waitcap := v })
      | 0x80A => if slotRoute p then put (fun c => { c with ctxbase := p }) else .next (s.precise i cILL_FIELD)
      | 0x80B => if bits v.toNat 7 1 = 0 then put (fun c => { c with preemptcfg := v }) else .next (s.precise i cILL_FIELD)
      | _ => .next (s.precise i cPRIV)

/-! ### Status results -/

/-- Writes a status to v[D] of every active lane and completes. -/
def State.status (s : State) (i : Issue) (d : BitVec 6) (v : Nat) : State :=
  s.updQuad i.k i.q (fun x => (x.writeLanes x.active d.toNat (fun _ => BitVec.ofNat 32 v)).advance 1)

/-- 0xD9 PREEMPT (R118). -/
def execPreempt (a : LArgs) (s : State) : Result :=
  match s.issuer with
  | none => .next s
  | some i =>
    let v := (i.x.reg i.x.lowest a.a.toNat).toNat
    if 2 ^ 12 ≤ v || 24 ≤ bits v 6 2 || 6 ≤ bits v 9 7 then .next (s.precise i cILL_FIELD)
    else
      let k := ((bits v 11 10 * 6 + bits v 9 7) * 24 + bits v 6 2) * 4 + bits v 1 0
      .next ((s.requestSave k i.w.tenant (some i.k)).status i a.d (s.preemptStatus k i.w.tenant (some i.k)))

/-! ### CTXSV and CTXLD (R119) -/

/-- The origin quad as it stood at handler entry. -/
def Quad.trapped (q : Quad) : Quad :=
  match q.shadow with
  | none => q
  | some sh => { q.pop (q.depth - sh.depth) with
      cl := sh.resume, mask := sh.mask, preds := sh.preds, fpstat := sh.fpstat, recon := sh.recon, frames := sh.frames, depth := sh.depth,
      sup := false }

/-- The workgroup of the issuing handler as it stood at handler entry. -/
def Issue.image (i : Issue) : Wg := i.w.updQuad i.q (·.trapped)

/-- Have the workgroup's operations of Q0 and Q2 been performed? -/
def State.copiesDone (s : State) (uid : Nat) : Bool :=
  s.flights.all (fun e => e.2.uid != uid || (match e.2.job with
    | .copy _ | .cpl _ _ | .kld _ => false
    | .kst => e.2.done
    | _ => true))

/-- The route of a record must be a device-half route with offset 0 and an even XL; its accesses are checked at level 0 here, at the
other levels line by line. -/
def recordAt (a : LArgs) (k : AccKind) (f : Issue → W64 → Result) (s : State) : Result :=
  match s.issuer with
  | none => .next s
  | some i =>
    let r := i.x.pair i.x.lowest a.a.toNat
    if !slotRoute r then .next (s.precise i cILL_FIELD)
    else
      match s.level0 i.w.tenant k none r with
      | .error e => .next (s.preciseAt i e r)
      | .ok _ => f i r

/-- Have the record's accesses of this instruction been made? -/
def Quad.reached (q : Quad) (r : W64) : Bool := q.got.any (fun e => e.1 == r)

/-- 0xDA CTXSV: waits for Q0 and Q2 of the workgroup, then writes the record, a line at a time, and completes when all of it is
written. The save cause is that of the trap that the handler handles (log entry 64). -/
def execCtxsv (a : LArgs) (s : State) : Result :=
  recordAt a .store (fun i r =>
    if i.x.reached r then .next (s.status i a.d 0)
    else if !s.copiesDone i.w.uid then .next (s.waitAt i .other)
    else
      let cause := (i.w.halt.map (fun h => h.fault.cause)).getD 0
      let bytes := s.recordOf i.k cause i.image (s.sched.images.length + 1)
      .next ((s.newImage ⟨i.image, s.buffers i.k i.w⟩).askAll (.quad i.k i.q) .store (recordWrites r i.w.sections bytes) i.x.cl i.x.sup
        i.x.mask |>.issuedAt (.quad i.k i.q))) s

/-- The reports of a loaded context: those of the record, and those that have come since the image `base` of it was made. -/
def Quad.reportsUnder (q base loaded : Quad) : List (FaultInfo × Cl) :=
  loaded.reports ++ q.reports.filter (fun r => !base.reports.contains r)

/-- A quad with a loaded context under its handler: the handler keeps its window frame, predicates, mask and place. Counters and pending
destinations are those of the operations that are in flight now. -/
def Quad.loadUnder (q base loaded : Quad) : Quad :=
  match q.shadow with
  | none => { loaded.rewoken with
      uad := q.uad, uap := q.uap, path := q.path, wins := q.wins, reports := q.reportsUnder base loaded }
  | some sh =>
    let sh' : Shadow := { (loaded.shadow.getD sh) with
      mask := loaded.mask, preds := loaded.preds, fpstat := loaded.fpstat, recon := loaded.recon, frames := loaded.frames,
      depth := loaded.depth, resume := loaded.cl, fault := sh.fault }
    let b := loaded.push 64
    let ks := (lanes.map (fun l => (List.range 64).map (fun n => (l, n)))).flatten
    let r := ks.foldl (fun (x : Quad) e => x.setReg e.1 e.2 (q.reg e.1 e.2)) b
    { q with regs := r.regs, priv := r.priv, depth := b.depth, shadow := some sh', modq := loaded.modq, modb := loaded.modb,
             idem := loaded.idem, reports := q.reportsUnder base loaded }

/-- The workgroup with a loaded context: it keeps its generation, its place in its unit, its halt, its counters and what its operations
in flight will write; operand latches are never saved (R120). `base` gives the images that the record was made of. -/
def Wg.loadFrom (w : Wg) (base : Nat → Wg) (loaded : Wg) : Wg :=
  { w with
    quads := w.quads.map (fun e => (e.1, match loaded.quads.find e.1 with
      | some q => e.2.loadUnder (((base e.1).quads.find e.1).getD e.2) q
      | none => e.2))
    gangs := loaded.gangs
    mtx := { loaded.mtx.giveUp with wins := w.mtx.wins }
    cpy := loaded.cpy
    scratch := loaded.scratch
    full := loaded.full
    bars := loaded.bars
    tiles := loaded.tiles }

/-- The bytes that a record's accesses have read. -/
def recordRead (r : W64) (got : List (W64 × Word)) : Memory := got.foldl (fun m e => m.writeN (e.1 - r).toNat 4 e.2.toNat) []

/-- A record replaces the context of the workgroup of a handler: its state, then its store buffers. -/
def State.loadRecord (s : State) (i : Issue) (m : Memory) : State :=
  i.w.quads.foldl (fun s e => s.loadStores i.k e.1 i.w m) 
    (s.updWg i.k (fun w => w.loadFrom (fun n => s.imageAt m (oQuads + 512 * n + 80) i.image) (s.fromRecord i.image m false)))

/-- 0xDB CTXLD: reads the record; one whose card route or SHAPE differs changes nothing and gives status 1. -/
def execCtxld (a : LArgs) (s : State) : Result :=
  recordAt a .load (fun i r =>
    if !i.x.reached r then
      .next ((s.askAll (.quad i.k i.q) .load (recordReads r i.w.sections) i.x.cl i.x.sup i.x.mask).issuedAt (.quad i.k i.q))
    else
      let m := recordRead r i.x.got
      if m.readN 0 8 != i.w.card.toNat || m.readN 208 8 != i.w.shape.toNat then .next (s.status i a.d 1)
      else .next ((s.loadRecord i m).status i a.d 0)) s

/-! ### Images (R203, R211) -/

/-- Reads an image of `n` dwords, a load of the lowest active lane, and goes on with it: ALIGN, then the levels; a level-0 fault
is precise (R389). The image is asked for, and the instruction executed again once it has come. -/
def withImage (i : Issue) (r : W64) (n : Nat) (f : List Nat → State → Result) (s : State) : Result :=
  let lane := fun (s : State) (e : Refuse) =>
    let ls := if e.level = 0 then i.x.mask else maskOf [i.x.lowest]
    s.raise i.k i.q ⟨e.cause, e.level, 0, e.label, r, ls, i.x.cl.pc, false⟩ i.x.cl i.x.sup false
  let word := fun (a : W64) => (i.x.got.find? (fun e => e.1 == a)).map (fun e => e.2.toNat)
  let got := (List.range n).map (fun j => do
    let lo ← word (r + BitVec.ofNat 64 (8 * j))
    let hi ← word (r + BitVec.ofNat 64 (8 * j + 4))
    pure (lo + 2 ^ 32 * hi))
  if r.toNat % (8 * n) != 0 then .next (lane s ⟨cALIGN, 15, 0⟩)
  else if got.all (·.isSome) then f (got.map (·.getD 0)) s
  else if hostBad r then .next (lane s ⟨cHOST_XLATE, 5, 0⟩)
  else
    match s.level0 i.w.tenant .load none r with
    | .error e => .next (lane s e)
    | .ok _ => .next (s.askFor (.quad i.k i.q) .load r (8 * n) i.x.cl i.x.sup (maskOf [i.x.lowest]))

/-- The range image of four dwords. -/
def rangeOfDwords (ds : List Nat) : RangeImage :=
  ⟨BitVec.ofNat 64 (ds.getD 0 0), BitVec.ofNat 64 (ds.getD 1 0), BitVec.ofNat 64 (ds.getD 2 0), BitVec.ofNat 64 (ds.getD 3 0)⟩

/-- Does an image break the rules of code 8 (R203)? -/
def rangeBad (e : RangeImage) : Bool :=
  bits e.d0.toNat 63 38 != 0 || e.d3 != 0 || (List.range 8).any (fun i => bits (e.path i) 14 12 != 0) || e.hi < e.lo ||
    (e.v && (e.paths false).isEmpty) || (e.mir && (e.paths true).isEmpty) || (e.mir && e.d0.getLsbD 28)

/-- The refusal of a range image for a tenant's entry, 8 or 9; 0 when there is none (R203). An entry is written only while the
TDI is in CONFIG_UNLOCKED (Table 21-1). -/
def State.rangeCode (s : State) (target idx : Nat) (e : RangeImage) : Nat :=
  if s.tdi target != .unlocked then 8
  else if rangeBad e then 8
  else if (List.range 32).any (fun j => j != idx && (s.range target j).v && e.lo ≤ (s.range target j).hi && (s.range target j).lo ≤ e.hi) ||
      e.lo = 0 || (e.lo ≤ (s.selfpl target).toNat && (s.selfpl target).toNat ≤ e.hi) then 9
  else 0

/-- Writes a range entry, keeping DIS and MDIS. -/
def State.setRange (s : State) (target idx : Nat) (e : RangeImage) : State :=
  let keep := (s.range target idx).d0 &&& 0xC0000000
  let n : RangeImage := { e with d0 := (e.d0 &&& 0xFFFFFFFF3FFFFFFF) ||| keep }
  { s with tab := { s.tab with ranges := Tab.set ⟨0, 0, 0, 0⟩ s.tab.ranges (target * 32 + idx) n } }

/-- Clears V of a range entry. -/
def State.clearRange (s : State) (target idx : Nat) : State :=
  let n : RangeImage := { s.range target idx with d0 := (s.range target idx).d0 &&& 0xFFFFFFFFFEFFFFFF }
  { s with tab := { s.tab with ranges := Tab.set ⟨0, 0, 0, 0⟩ s.tab.ranges (target * 32 + idx) n } }

/-- Does a change of an entry revoke anything: V, a right, a scope, a path, a label of its range (R203, R223)? -/
def narrows (o e : RangeImage) : Bool :=
  o.v && (!e.v || (o.d0 &&& ~~~e.d0 &&& 0x3F1E000000) != 0 || o.lo < e.lo || e.hi < o.hi ||
    (List.range 8).any (fun i => bit (o.path i) 15 && o.path i != e.path i))

/-- The operations that passed the entry and are not yet performed or answered, those of the itinerary engine among them. -/
def State.passed (s : State) (target idx : Nat) : List Nat :=
  (s.flights.filter (fun e => e.2.tenant == target && e.2.parts.any (fun p =>
    p.2.st != .performed && p.2.range.any (fun r => r.1 == idx)))).map (·.1) ++
  (s.itin.unanswered.filter (fun o => o.tenant == target && o.range.1 == idx)).map (·.op)

/-- 0xD3 RTSET. -/
def execRtset (a : LArgs) (s : State) : Result :=
  match s.issuer with
  | none => .next s
  | some i =>
    let v := (i.x.reg i.x.lowest a.b.toNat).toNat
    let idx := bits v 4 0
    let target := bits v 11 8
    let clr := bit v 12
    let write := fun (new : State → State) (e : RangeImage) (s : State) =>
      let old := s.range target idx
      let ops := if narrows old e then s.passed target idx else []
      let t := new s
      if ops.isEmpty then .next (t.status i a.d 0) else .next (t.waitAt i (.drain ops a.d.toNat))
    if i.x.await.any (fun w => match w.what with
        | .drain _ _ => true
        | _ => false) then .next s
    else if bits v 7 5 != 0 || 2 ^ 13 ≤ v then .next (s.precise i cILL_FIELD)
    else if s.tab.hypervisor != some i.w.tenant then .next (s.precise i cPRIV)
    else if clr then
      if s.tdi target != .unlocked then .next (s.status i a.d 8)
      else write (fun s => s.clearRange target idx) ⟨0, 0, 0, 0⟩ s
    else withImage i (i.x.pair i.x.lowest a.a.toNat) 4 (fun ds s =>
      let e := rangeOfDwords ds
      match s.rangeCode target idx e with
      | 0 => write (fun s => s.setRange target idx e) e s
      | c => .next (s.status i a.d c)) s

/-- TABLE_CHANGE_DRAINED: every access that passed the old entry is performed or answered; 0 goes to v[D] (R203, R223). -/
def execTableChangeDrained (wg quad : Nat) (s : State) : Result :=
  match s.quad? wg quad with
  | none => .next s
  | some x =>
    match x.await with
    | some ⟨.drain ops d, _, _⟩ =>
      if s.flights.any (fun e => ops.contains e.1 && !e.2.done) || s.itin.unanswered.any (fun o => ops.contains o.op) then .next s
      else .next ((s.updQuad wg quad (fun x => (x.writeLanes x.active d (fun _ => 0)).advance 1)).settleQuad s wg quad false)
    | _ => .next s

/-- 0xD4 DMSET (R207; 21_host_security R376 for a stack that is not ready). No access of this module is between its lookup and its performance, so the change has drained when
it is made. -/
def execDmset (a : LArgs) (s : State) : Result :=
  match s.issuer with
  | none => .next s
  | some i =>
    let v := (i.x.reg i.x.lowest a.b.toNat).toNat
    let e := i.x.pair i.x.lowest a.a.toNat
    let n := e.toNat
    let stack := stackOfDomain e
    let pool := e.getLsbD 5
    let named := 0xC0 ≤ v && v ≤ 0xCF
    if 256 ≤ v then .next (s.precise i cILL_FIELD)
    else if bits n 63 21 != 0 || bits n 15 12 != 0 || bits n 11 10 != stack / 4 || (e.getLsbD 20 && bits n 19 16 != i.w.tenant) ||
        (e.getLsbD 0 && pool && v != 0xC0 + stack) || (e.getLsbD 0 && !pool && named) || !s.isReady (18 * 32 + stack) then .next (s.status i a.d 8)
    else if pool && s.poolSize i.w.tenant stack = 0 then .next (s.status i a.d 11)
    else .next (({ s with tab := { s.tab with domains := Tab.set 0 s.tab.domains (i.w.tenant * 256 + v) e } } : State).status i a.d 0)

/-! ### Regions (R211) -/

/-- A tenant's grant on a stack. -/
def State.grant (s : State) (tenant stack : Nat) : Grant := Tab.get ⟨0, 0, 0, 0⟩ s.tab.grants (tenant * 16 + stack)

/-- The XLs of a region whose extents are present. -/
def State.presentIn (s : State) (stack : Nat) (g : W64 × W64) : List Nat :=
  if rgV g then (List.range (rgLimit g)).filter (fun x => xtP (s.extent stack (rgXbase g + x))) else []

/-- The status that RGSET returns (R211). -/
def State.regionCode (s : State) (tenant stack sl : Nat) (e : W64 × W64) : Nat :=
  let o := s.region stack sl
  let gr := s.grant tenant stack
  let lo := rgXbase e
  let hi := rgXbase e + rgLimit e
  let here := s.presentIn stack o
  let moved := here.any (fun x => xtMig (s.extent stack (rgXbase o + x)))
  if sl < gr.sl || gr.sl + gr.slN ≤ sl || lo < gr.x || gr.x + gr.xN < hi || (rgV o && rgOwner o != tenant) then 7
  else if bits e.1.toNat 63 43 != 0 || bits e.1.toNat 31 30 != 0 || bits e.2.toNat 63 17 != 0 || rgOwner e != tenant || rgLimit e = 0 ||
      1024 < rgLimit e || (rgEnc e && (s.keySlot stack (rgKey e)).tdi != some tenant) then 8
  else if rgV e && s.tab.regions.any (fun x => x.1 / Config.regions == stack && x.1 % Config.regions != sl && rgV x.2 &&
      lo < rgXbase x.2 + rgLimit x.2 && rgXbase x.2 < hi) then 9
  else if !here.isEmpty && (!rgV e || rgXbase e != rgXbase o || here.any (fun x => rgLimit e ≤ x) || rgHmask e != rgHmask o) then 10
  else if moved && ((o.1 ^^^ e.1) &&& ~~~(0x1E0 : W64) != 0 || o.2 != e.2) then 5
  else 0

/-- Writes a region entry; one that clears V, or removes a right or the key, writes back and drops the home-slice lines that the
old one covered (R211, 01_device R12). -/
def State.setRegion (s : State) (stack sl : Nat) (e : W64 × W64) : State :=
  let o := s.region stack sl
  let narrow := rgV o && (!rgV e || (o.1 &&& ~~~e.1 &&& 0x1E0) != 0 || rgLimit e < rgLimit o || rgEnc o != rgEnc e || rgKey o != rgKey e)
  let t := if narrow then s.flush stack sl none else s
  { t with tab := { t.tab with regions := Tab.set (0, 0) t.tab.regions (stack * Config.regions + sl) e } }

/-- 0xD5 RGSET. -/
def execRgset (a : LArgs) (s : State) : Result :=
  match s.issuer with
  | none => .next s
  | some i =>
    let v := (i.x.reg i.x.lowest a.b.toNat).toNat
    let sl := bits v 11 0
    let stack := bits v 15 12
    if 2 ^ 16 ≤ v then .next (s.precise i cILL_FIELD)
    else withImage i (i.x.pair i.x.lowest a.a.toNat) 2 (fun ds s =>
      let e := (BitVec.ofNat 64 (ds.getD 0 0), BitVec.ofNat 64 (ds.getD 1 0))
      match s.regionCode i.w.tenant stack sl e with
      | 0 => .next ((s.setRegion stack sl e).status i a.d 0)
      | c => .next (s.status i a.d c)) s

/-! ### Extents (R215, R217, R218) -/

/-- A request to a base die: the completion word is a counted store that the base die will make (R215). -/
def toBase (a : LArgs) (migrate : Bool) (s : State) : Result :=
  match s.issuer with
  | none => .next s
  | some i =>
    let l := i.x.lowest
    let r := i.x.pair l a.a.toNat
    let v := i.x.reg l a.b.toNat
    let f := i.x.reg l (a.b.toNat + 1)
    if bits v.toNat 31 28 != 0 || (migrate && v.getLsbD 26) || 2 ^ 17 ≤ f.toNat || !s.isLocal i.w.tenant r || r.toNat % 8 != 0 then
      .next (s.precise i cILL_FIELD)
    else
      let ps : Tab Part := [(0, { s.partOf i.w.tenant (dieOf i.k) ⟨l, r, 8, 0, 0, 0⟩ with st := .asking })]
      if !s.room i .word ps then .next (s.waitAt i .stall)
      else
      let stack := bits v.toNat 25 22
      let t := s.enter i .word 0 0 0 1 6 [l] ps false
      .next { t with tab := { t.tab with
        reqs := t.tab.reqs.put stack (Tab.get [] t.tab.reqs stack ++ [⟨migrate, i.w.tenant, v, f, s.nextId⟩]) } }

/-- 0xD6 MAPX. -/
def execMapx (a : LArgs) (s : State) : Result := toBase a false s

/-- 0xD8 MIGX. -/
def execMigx (a : LArgs) (s : State) : Result := toBase a true s

/-- Writes an extent entry. -/
def State.setExtent (s : State) (stack x : Nat) (e : Word) : State :=
  { s with tab := { s.tab with extents := Tab.set 0 s.tab.extents (stack * Config.extents + x) e } }

/-- Marks a frame mapped or not, and reserved for the pool or not. -/
def State.markFrame (s : State) (stack f : Nat) (mapped pool : Bool) : State :=
  let n : Frame := { s.frame stack f with mapped := mapped, pool := pool }
  { s with tab := { s.tab with frames := Tab.set ⟨none, false, false⟩ s.tab.frames (stack * Config.frames + f) n } }

/-- A frame is written with zeros, and none of its lines is poisoned. -/
def State.zeroFrame (s : State) (stack f : Nat) : State :=
  let key := Memory.key stack (f * 2 ^ 21)
  { s with
    mem := s.mem.zero key (2 ^ 21)
    poison := s.poison.clear (key / 128) 16384
    tab := { s.tab with
      seals := s.tab.seals.clear (key / 16) (2 ^ 17)
      fills := s.tab.fills.del (stack * 2 ^ 17 + f)
      forms := s.tab.forms.clear (key / 128) 16384 } }

/-- The base die writes zeros to every line of a frame that it maps to an extent: under the region's key, and recoded where the
region recodes (R215, 21_host_security R370, R378). -/
def State.zeroExtent (s : State) (stack f : Nat) (g : W64 × W64) (home : Nat) : State :=
  let key := Memory.key stack (f * 2 ^ 21)
  let t := s.zeroFrame stack f
  let u := match s.sealFor stack g home with
    | none => t
    | some x => { t with tab := { t.tab with fills := t.tab.fills.put (stack * 2 ^ 17 + f) x } }
  if rgRec g then (List.range 16384).foldl (fun s i => s.stored (key / 128 + i) true) u else u

/-- The cells of a pool extent leave their state: they are free, with generation 0 (13_hamper R261). -/
def State.clearCells (s : State) (tenant stack sl xl : Nat) : State :=
  match s.pool tenant stack with
  | none => s
  | some p =>
    if s.isPoolRegion tenant stack sl then
      { s with tab := { s.tab with cells := s.tab.cells.clear ((tenant * 16 + stack) * 2 ^ 28 + (sl - p) * 2 ^ 24 + xl * 2 ^ 14) (2 ^ 14) } }
    else s

/-- 0xD7 UNMAPX: codes 2, 1, 5. -/
def execUnmapx (a : LArgs) (s : State) : Result :=
  match s.issuer with
  | none => .next s
  | some i =>
    let v := (i.x.reg i.x.lowest a.b.toNat).toNat
    let sl := bits v 11 0
    let xl := bits v 21 12
    let stack := bits v 25 22
    let g := s.region stack sl
    let x := rgXbase g + xl
    let e := s.extent stack x
    if 2 ^ 26 ≤ v then .next (s.precise i cILL_FIELD)
    else if !rgV g || rgOwner g != i.w.tenant || rgLimit g ≤ xl then .next (s.status i a.d 2)
    else if !xtP e then .next (s.status i a.d 1)
    else if xtMig e then .next (s.status i a.d 5)
    else
      let t := s.flush stack sl (some xl)
      .next ((((t.setExtent stack x 0).markFrame stack (xtFrame e) false false).clearCells i.w.tenant stack sl xl).status i a.d 0)

/-- The base die finishes: the completion word goes to its route (R215). -/
def State.finishWord (s : State) (op code frame : Nat) : State :=
  s.updFlight op (fun f => { f with parts := f.parts.map (fun p => (p.1, { p.2 with
    st := .flying, accs := p.2.accs.map (fun a => { a with data := 2 ^ 31 + code * 2 ^ 20 + frame }) })) })

/-- Frames granted to a tenant on a stack that are unmapped and not reserved for the pool. -/
def State.freeFrames (s : State) (tenant stack : Nat) : List Nat :=
  (s.tab.frames.filter (fun e => e.1 / Config.frames == stack && e.2.owner == some tenant && !e.2.mapped && !e.2.pool)).map
    (fun e => e.1 % Config.frames)

/-- The frame that a request gets: the one named, or with ANY a free one that `choice` picks; or code 3 or 4. -/
def State.frameFor (s : State) (r : BaseReq) (stack choice : Nat) : Except Nat Nat :=
  let free := s.freeFrames r.tenant stack
  if r.arg.getLsbD 27 then
    if free.isEmpty then .error 4 else .ok (free.getD (choice % free.length) 0)
  else
    let f := r.frame.toNat % 2 ^ 17
    if f < Config.frames && free.contains f then .ok f else .error 3

/-- The request at the head of a base die, with the others. -/
def State.baseHead (s : State) (stack : Nat) : Option (BaseReq × State) :=
  match Tab.get [] s.tab.reqs stack with
  | [] => none
  | r :: rest => some (r, { s with tab := { s.tab with reqs := Tab.set [] s.tab.reqs stack rest } })

/-- MAPX_AT_BASE_DIE. -/
def execMapxAtBaseDie (stack choice : Nat) (s : State) : Result :=
  match s.baseHead stack with
  | none => .next s
  | some (r, t) =>
    if r.migrate then .next s
    else
      let sl := bits r.arg.toNat 11 0
      let xl := bits r.arg.toNat 21 12
      let g := t.region stack sl
      let x := rgXbase g + xl
      if !rgV g || rgOwner g != r.tenant || rgLimit g ≤ xl then .next (t.finishWord r.op 2 0)
      else if xtP (t.extent stack x) then .next (t.finishWord r.op 1 0)
      else
        match t.frameFor r stack choice with
        | .error c => .next (t.finishWord r.op c 0)
        | .ok f =>
          let home := match t.pool r.tenant stack with
            | some p => if t.isPoolRegion r.tenant stack sl then cellNo ((sl - p) * 2 ^ 24 + xl * 2 ^ 14) else lineNo sl xl 0
            | none => lineNo sl xl 0
          let z := if r.arg.getLsbD 26 then t.zeroExtent stack f g home else t
          let u := (z.markFrame stack f true (z.isPoolRegion r.tenant stack sl)).setExtent stack x (mkExtent f)
          .next ((u.clearCells r.tenant stack sl xl).finishWord r.op 0 f)

/-- MIGX_AT_BASE_DIE: the conditions of codes 2, 1, 5, 6, then 3 or 4; an accepted one takes a migration slot, and the home slices
write back the extent's dirty lines (R218, R219). -/
def execMigxAtBaseDie (stack choice : Nat) (s : State) : Result :=
  match s.baseHead stack with
  | none => .next s
  | some (r, t) =>
    if !r.migrate then .next s
    else
      let sl := bits r.arg.toNat 11 0
      let xl := bits r.arg.toNat 21 12
      let g := t.region stack sl
      let x := rgXbase g + xl
      let e := t.extent stack x
      if !rgV g || rgOwner g != r.tenant || rgLimit g ≤ xl then .next (t.finishWord r.op 2 0)
      else if !xtP e then .next (t.finishWord r.op 1 0)
      else if xtMig e then .next (t.finishWord r.op 5 0)
      else
        match (List.range 4).find? (fun j => (t.tab.migs.find (stack * 4 + j)).isNone) with
        | none => .next (t.finishWord r.op 6 0)
        | some j =>
          match t.frameFor r stack choice with
          | .error c => .next (t.finishWord r.op c 0)
          | .ok f =>
            let pool := t.isPoolRegion r.tenant stack sl
            let back := (t.linesUnder stack sl (some xl)).foldl (fun s n => s.writeBack n) t
            let u := (back.markFrame stack f true pool).setExtent stack x
              (BitVec.ofNat 32 (2 ^ 31 + 2 ^ 30 + j * 2 ^ 28 + xtFrame e))
            .next { u with tab := { u.tab with migs := u.tab.migs.put (stack * 4 + j) ⟨x, xtFrame e, f, 0, r.op, pool, sl⟩ } }

/-- MIGRATION_LINE_COPY: the next line, in ascending offset, as one step; its poison mark goes with it (R219, R379). -/
def execMigrationLineCopy (stack slot : Nat) (s : State) : Result :=
  match s.tab.migs.find (stack * 4 + slot) with
  | none => .next s
  | some m =>
    if 16384 ≤ m.lines then .next s
    else
      let src := Memory.key stack (m.old * 2 ^ 21 + m.lines * 128)
      let dst := Memory.key stack (m.new * 2 ^ 21 + m.lines * 128)
      let t : State := { s with
        mem := s.mem.copy dst src 128
        poison := if s.poisoned src then s.poison.put (dst / 128) () else s.poison.del (dst / 128)
        tab := { s.tab with
          migs := s.tab.migs.put (stack * 4 + slot) { m with lines := m.lines + 1 }
          seals := (List.range 8).foldl (fun x i => x.put (dst / 16 + i) (s.sealOf (src / 16 + i))) s.tab.seals } }
      .next (t.stored (dst / 128) (rgRec (s.region stack m.sl)))

/-- MIGRATION_SWITCH: after the last line; the old frame is unmapped with its contents kept. -/
def execMigrationSwitch (stack slot : Nat) (s : State) : Result :=
  match s.tab.migs.find (stack * 4 + slot) with
  | none => .next s
  | some m =>
    if m.lines < 16384 then .next s
    else
      let old := Memory.key stack (m.old * 2 ^ 21) / 128
      let clean := { s with cache := s.cache.clear old 16384 }
      let t := ((clean.setExtent stack m.ext (mkExtent m.new)).markFrame stack m.old false false).markFrame stack m.new true m.pool
      .next (({ t with tab := { t.tab with migs := t.tab.migs.del (stack * 4 + slot) } } : State).finishWord m.op 0 m.new)

end Sys2Proof.Machine
end

