-- ==== Sys2Proof/Machine/HostSide.lean ====
section
/-!
DEFINITION. The host, security, bring-up and power: launches, host-set values, TDISP states, keys, attestation, wiping,
readiness, control loops, base-die housekeeping (21_host_security R366 to R381, 04_execution R87, R95, 09_routes R201, R203,
R209, R212, 13_hamper R260, 17_fabric R334, R338).
-/
namespace Sys2Proof.Machine

open Sys2Proof

/-! ### Leaving RUN or CONFIG_LOCKED (R372) -/

/-- The cause of a unit that loses its TDI (R103: KEY_REVOKED has TLEVEL 3). -/
def keyGone : FaultInfo := ⟨cKEY_REVOKED, 3, 0, 0, 0, 0, 0, false⟩

/-- Steps 2 and 3: every key slot bound to a TDI is destroyed, and the home-slice lines of the regions that use it are dropped. -/
def State.destroyKeys (s : State) (t : Nat) : State :=
  let gone := s.tab.regions.filter (fun e => rgV e.2 && rgEnc e.2 && (s.keySlot (e.1 / Config.regions) (rgKey e.2)).tdi == some t)
  let u := gone.foldl (fun s e => s.lose (e.1 / Config.regions) (e.1 % Config.regions)) s
  { u with tab := { u.tab with keys := u.tab.keys.filter (fun e => e.2.tdi != some t) } }

/-- The saved units of a tenant end. -/
def State.endAllSaved (s : State) (t : Nat) : State :=
  (s.sched.saved.filter (fun u => u.wgs.any (fun v => v.wg.tenant == t))).foldl (fun s u => s.endSaved u.unit ⟨keyGone, 0, 127⟩) s

/-- Step 4: every unit of a tenant ends by R113, and its itinerary table is cleared. -/
def State.endTenant (s : State) (t : Nat) : State :=
  let units := s.wgs.filter (fun e => e.2.tenant == t)
  let s1 := units.foldl (fun s e => s.endUnit e.2.unit e.1 127 keyGone (Cl.start 0) false false) s
  let s2 := s1.endAllSaved t
  if s2.itin.owner == some t then { s2 with itin := { s2.itin.empty with hostMark := false } } else s2

/-- Step 5: a tenant's queued cards are discarded, each with a card-error record of case 1. -/
def State.discardCards (s : State) (t : Nat) : State :=
  let cards := (s.sched.queues.map (fun e => (e.2.filter (fun c => c.tenant == t)).map (fun c => (e.1 / 24, c.route)))).flatten
  let kept := s.sched.queues.foldl (fun s e => s.setQueue e.1 (e.2.filter (fun c => c.tenant != t))) s
  cards.foldl (fun s c => s.cardError c.2 t 1 c.1 TrapRec.zero) kept

/-- R372. Step 1 is the state itself, which a bound domain asks for (R206). -/
def State.teardown (s : State) (t : Nat) : State := ((s.destroyKeys t).endTenant t).discardCards t

/-- Does the tenant exist (R367)? -/
def State.present (s : State) (t : Nat) : Bool := s.tdi t == .locked || s.tdi t == .run

/-- Sets a TDI's state, with R372 when it leaves RUN or CONFIG_LOCKED. -/
def State.setTdi (s : State) (t : Nat) (x : TdiState) : State :=
  let n := { s with host := { s.host with tdi := Tab.set .unlocked s.host.tdi t x } }
  if s.present t && x != .locked && x != .run then n.teardown t else n

/-- A host request to change a value that is frozen, outside CONFIG_UNLOCKED, moves the TDI to ERROR instead of taking effect
(R368, Table 21-1). -/
def State.frozenOr (s : State) (ts : List Nat) (f : State → State) : State :=
  let bad := ts.filter (fun t => s.tdi t != .unlocked)
  if bad.isEmpty then f s else bad.foldl (fun s t => s.setTdi t .error) s

/-! ### Launches and host-set values -/

/-- HOST_LAUNCH: entered at the priority named, or refused with an error status (R87, R367). A full ring refuses it too (log entry
7). -/
def execHostLaunch (tenant : Nat) (route : BitVec 64) (queue : BitVec 32) (prio : Nat) (s : State) : Result :=
  let q := queue.toNat
  let cl := q / 8 * 6 + q % 8
  if s.tdi tenant != .run || !s.isLocal tenant route || route.toNat % 64 != 0 || 32 ≤ q || 6 ≤ q % 8 || 4 ≤ prio ||
      !s.ringRoom cl prio then .next (s.answerHost (.launch tenant false))
  else .next ((s.enqueue cl prio route tenant none).answerHost (.launch tenant true))

/-- HOST_RANGE_WRITE: under RTSET's checks, whose code the host receives (R203, R368; log entry 72). -/
def execHostRangeWrite (tenant index : Nat) (clear : Bool) (image : RangeImage) (s : State) : Result :=
  if 32 ≤ index || Config.tenants ≤ tenant then .next s
  else
    let code := if s.tdi tenant != .unlocked then 8 else if clear then 0 else s.rangeCode tenant index image
    .next ((s.frozenOr [tenant] (fun s =>
      if code != 0 then s else if clear then s.clearRange tenant index else s.setRange tenant index image)).answerHost (.table tenant code))

/-- SET_HYPERVISOR_TENANT (R203). -/
def execSetHypervisorTenant (tenant : Option Nat) (s : State) : Result :=
  .next { s with tab := { s.tab with hypervisor := tenant } }

/-- The counts of a tenant start at 0: what this module has sent for it, and what it has accepted for it from the modules of
`from'` (17_fabric R331). -/
def State.zeroCounts (s : State) (tenant : Nat) (from' : Nat → Bool) : State :=
  let mine := fun (e : Nat × Nat) => e.1 / (8 * 4096) % 16 == tenant
  let acc := fun (e : Nat × Nat) => e.1 / 8 % 16 == tenant && from' (e.1 / (8 * 16 * 4))
  { s with fab := { s.fab with
    sent := s.fab.sent.filter (fun e => !mine e)
    acked := s.fab.acked.filter (fun e => !mine e)
    rcv := s.fab.rcv.filter (fun e => !acc e)
    met := s.fab.met.filter (fun e => !acc (e.1, 0)) } }

/-- What this module has accepted from the module of pod label `pl` counts from 0 again (17_fabric R331). -/
def State.peerRestart (s : State) (tenant pl : Nat) : State :=
  let acc := fun (k : Nat) => k / 8 % 16 == tenant && k / (8 * 16 * 4) == pl
  { s with fab := { s.fab with
    rcv := s.fab.rcv.filter (fun e => !acc e.1)
    met := s.fab.met.filter (fun e => !acc e.1) } }

/-- SET_SELFPL: every range entry of the tenant is cleared in the same step, and the module's counts restart (R201,
17_fabric R331). Of a peer, the host changes SELFPL in the module that had that pod label: the counts of what that module sends
restart at both ends. -/
def execSetSelfpl (tenant : Nat) (change : SelfplChange) (s : State) : Result :=
  if Config.tenants ≤ tenant then .next s
  else
  match change with
  | .peer pl => .next (s.peerRestart tenant pl)
  | .own label => .next (s.frozenOr [tenant] (fun s =>
    let t := s.zeroCounts tenant (fun _ => false)
    { t with tab := { t.tab with
      selfpl := Tab.set 0 t.tab.selfpl tenant label
      ranges := t.tab.ranges.clear (tenant * 32) 32 } }))

/-- SET_GRANTS (R209). -/
def execSetGrants (tenant stack slFirst slCount xFirst xCount : Nat) (s : State) : Result :=
  if Config.tenants ≤ tenant || Config.stackCount ≤ stack then .next s
  else .next (s.frozenOr [tenant] (fun s =>
    { s with tab := { s.tab with grants := Tab.set ⟨0, 0, 0, 0⟩ s.tab.grants (tenant * 16 + stack) ⟨slFirst, slCount, xFirst, xCount⟩ } }))

/-- SET_FRAME_GRANT: a frame that passes to another tenant is zeroed first (R212). -/
def execSetFrameGrant (stack frame : Nat) (tenant : Option Nat) (s : State) : Result :=
  let old := s.frame stack frame
  if Config.stackCount ≤ stack || Config.frames ≤ frame then .next s
  else .next (s.frozenOr (old.owner.toList ++ tenant.toList) (fun s =>
    let t := if tenant.isSome && tenant != old.owner then s.zeroFrame stack frame else s
    let n : Frame := { old with owner := tenant }
    { t with tab := { t.tab with frames := Tab.set ⟨none, false, false⟩ t.tab.frames (stack * Config.frames + frame) n } }))

/-- SET_POOL_LABEL: a multiple of 4 within the tenant's SL grant, or none (13_hamper R260). The cells keep their state, counted from
whatever the pool's first region is: the manual does not say what becomes of it (log entry 73). -/
def execSetPoolLabel (tenant stack : Nat) (label : Option Nat) (s : State) : Result :=
  if Config.tenants ≤ tenant || Config.stackCount ≤ stack then .next s
  else .next (s.frozenOr [tenant] (fun s =>
    let g := s.grant tenant stack
    match label with
    | none => { s with tab := { s.tab with pools := s.tab.pools.del (tenant * 16 + stack) } }
    | some p =>
      if p % 4 != 0 || p < g.sl || g.sl + g.slN ≤ p then s
      else { s with tab := { s.tab with pools := s.tab.pools.put (tenant * 16 + stack) p } }))

/-- SET_TENANTWT (04_execution R95). -/
def execSetTenantwt (die tenant : Nat) (weight : BitVec 8) (s : State) : Result :=
  if Config.dies ≤ die || Config.tenants ≤ tenant then .next s
  else .next (s.setCsr die tenant (fun c => { c with weight := weight.setWidth 32 }))

/-- SET_FTIMEOUT: from 2^16 to 2^30 (17_fabric R334). -/
def execSetFtimeout (tenant cycles : Nat) (s : State) : Result :=
  if Config.tenants ≤ tenant || cycles < 2 ^ 16 || 2 ^ 30 < cycles then .next s
  else .next { s with fab := { s.fab with ftimeout := Tab.set (2 ^ 24) s.fab.ftimeout tenant cycles } }

/-- SET_ATOMIC_WINDOW (17_fabric R338). -/
def execSetAtomicWindow (die tenant index : Nat) (d0 d1 : BitVec 64) (s : State) : Result :=
  if Config.dies ≤ die || Config.tenants ≤ tenant || 8 ≤ index then .next s
  else .next { s with tab := { s.tab with windows := Tab.set (0, 0) s.tab.windows ((die * 16 + tenant) * 8 + index) (d0, d1) } }

/-- SET_QUEUE_RING (04_execution R87). The manual does not say what becomes of the entries of a ring when its base or its size is set
anew: they keep their places, under the new base (log entry 7). -/
def execSetQueueRing (cluster prio : Nat) (base : BitVec 64) (size : Nat) (s : State) : Result :=
  if Config.dies * Config.clusters ≤ cluster || 4 ≤ prio then .next s
  else .next { s with sched := { s.sched with rings := s.sched.rings.put (cluster * 4 + prio) (base, size) } }

/-- SET_ERROR_RING: a new ring is empty (R369). -/
def execSetErrorRing (base : BitVec 64) (size : Nat) (s : State) : Result :=
  .next { s with host := { s.host with ringBase := base, ringSize := size, ringUsed := 0 } }

/-- SET_POWER_CAP: 3.0 to 6.5 kW (R381). -/
def execSetPowerCap (watts : Nat) (s : State) : Result :=
  if watts < 3000 || 6500 < watts then .next s else .next { s with host := { s.host with powerCap := watts } }

/-- An AtomicOp that the device completes: FetchAdd, Swap or CAS of 32 or 64 bits, of a tenant that exists, on an aligned local
location, under the tenant's levels (R366; log entry 61). -/
def State.completeAtomic (s : State) (tdi : Nat) (a : HostAtomic) : State :=
  if !s.present tdi || !hostAtomic a.op || (a.size != 4 && a.size != 8) || a.route.toNat % a.size != 0 || !s.isLocal tdi a.route then
    s.answerHost (.atomic tdi none)
  else
    match s.lineAccess tdi .atomic a.op [⟨0, a.route, a.size, a.data % 256 ^ a.size, a.cmp % 256 ^ a.size, 0⟩] with
    | .error _ => s.answerHost (.atomic tdi none)
    | .ok (t, as) => t.answerHost (.atomic tdi ((as.head?).map (·.got)))

/-- HOST_TLP_ARRIVAL: a TLP of a TDI outside its IDE stream is dropped and counted (R366); an AtomicOp inside it is completed. -/
def execHostTlpArrival (tdi : Option Nat) (tlp : HostTlp) (s : State) : Result :=
  match tdi, tlp with
  | none, _ => .next s
  | some _, .outside => .next { s with host := { s.host with ideErrors := s.host.ideErrors + 1 } }
  | some _, .inside none => .next s
  | some t, .inside (some x) => .next (s.completeAtomic t x)

/-! ### TDIs, keys, attestation (R367 to R373) -/

/-- A tenant comes into existence (R367): its supervisor CSRs are those of R108, its counts 0 (17_fabric R331). -/
def State.born (s : State) (t : Nat) : State :=
  let c := { s with sched := { s.sched with csrs := s.sched.csrs.filter (fun e => e.1 % 16 != t) } }
  c.zeroCounts t (fun _ => true)

/-- TDI_STATE_CHANGE. -/
def execTdiStateChange (tdi : Nat) (target : TdiState) (s : State) : Result :=
  if 16 ≤ tdi then .next s
  else
    match s.tdi tdi, target with
    | .unlocked, .locked => .next ((s.born tdi).setTdi tdi .locked)
    | .locked, .run => .next (s.setTdi tdi .run)
    | _, .unlocked => .next (s.setTdi tdi .unlocked)
    | _, .error => .next (s.setTdi tdi .error)
    | _, _ => .next s

/-- KEY_SET: only in CONFIG_LOCKED or RUN, and not into another TDI's slot; a session that is refused receives an error response
(R371). -/
def execKeySet (tdi stack slot : Nat) (material : BitVec 512) (s : State) : Result :=
  let k := s.keySlot stack slot
  let bad := !s.present tdi || (k.tdi.isSome && k.tdi != some tdi) || 16 ≤ stack || 32 ≤ slot
  let t := s.answerHost (.keySet tdi !bad)
  if bad then .next t
  else .next { t with tab := { t.tab with keys := t.tab.keys.put (stack * 32 + slot) ⟨some tdi, some material⟩ } }

/-- Frames granted to a tenant (09_routes R212), by stack and frame. -/
def State.framesOf (s : State) (tenant : Nat) : List (Nat × Nat) :=
  (s.tab.frames.filter (fun e => e.2.owner == some tenant)).map (fun e => (e.1 / Config.frames, e.1 % Config.frames))

/-- Blocks 3 and 4 of Table 21-3. -/
def State.tdiReport (s : State) (tdi : Nat) : TdiReport where
  tdi := tdi
  ranges := (List.range 32).map (fun i => (i, s.range tdi i))
  grants := (List.range 16).map (fun k => (k, s.grant tdi k))
  frames := s.framesOf tdi
  pools := (List.range 16).filterMap (fun k => (s.pool tdi k).map (fun p => (k, p)))
  waitcap := (List.range 4).map (fun d => (s.csr d tdi).waitcap)
  weights := (List.range 4).map (fun d => (s.csr d tdi).weight)
  state := s.tdi tdi

/-- The words of a route table's image. -/
def rangeWords (e : RangeImage) : List Nat := [e.d0.toNat, e.d1.toNat, e.d2.toNat, e.d3.toNat]

/-- Blocks 3 and 4, in numbers. -/
def TdiReport.words (r : TdiReport) : List Nat :=
  let state := match r.state with
    | .unlocked => 0
    | .locked => 1
    | .run => 2
    | .error => 3
  [r.tdi, state] ++ (r.ranges.map (fun e => e.1 :: rangeWords e.2)).flatten ++
    (r.grants.map (fun g => [g.1, g.2.sl, g.2.slN, g.2.x, g.2.xN])).flatten ++
    [r.frames.length] ++ (r.frames.map (fun f => [f.1, f.2])).flatten ++
    [r.pools.length] ++ (r.pools.map (fun p => [p.1, p.2])).flatten ++
    r.waitcap.map (·.toNat) ++ r.weights.map (·.toNat)

/-- Blocks 1 to 4 of Table 21-3, over which the hash is taken, in numbers. -/
def Report.blocks (r : Report) : List Nat :=
  let life := match r.life with
    | .provision => 0
    | .secure => 1
    | .debug => 2
    | .retired => 3
  [r.firmware.toNat, r.hardware.toNat, life, r.ready.toNat] ++ (r.own.map (·.words)).getD []

/-- SPDM_MEASUREMENT_REQUEST at the mailbox of a TDI or of function 0 (R366, R373): the blocks of Table 21-3, with the nonce; no
other tenant's state is in them. -/
def execSpdmMeasurementRequest (tdi : Option Nat) (nonce : BitVec 256) (s : State) : Result :=
  let r : Report := {
    nonce := nonce
    chain := Config.chain
    firmware := Config.firmware
    hardware := Config.hardware
    life := s.host.life
    ready := s.host.ready
    own := tdi.map s.tdiReport
    hash := 0 }
  let r := { r with hash := Config.sign (Config.digest r.blocks) nonce s.free }
  .next { s.drawn with host := { s.host with reports := s.host.reports ++ [r] } }

/-! ### Wiping, reset, readiness (R374 to R376) -/

/-- Every unit that is left leaves its slots at once. -/
def State.finishAll (s : State) : State :=
  s.wgs.foldl (fun s e => s.finishUnit e.2.unit false) s

/-- The wipe of R374: SRAMs, base-die tables, key slots, every line; the stacks are not ready until it is done. -/
def State.wiped (s : State) : State :=
  { s with
    mem := []
    cache := []
    poison := []
    wgs := []
    flights := []
    sched := { s.sched with saved := [], joins := [], images := [], cbars := [], deficits := [] }
    tab := { s.tab with
      regions := [], extents := [], frames := [], cells := [], migs := [], reqs := [], keys := [], seals := [], fills := [], forms := [] }
    host := { s.host with
      scrub := []
      ready := s.host.ready &&& ~~~BitVec.ofNat 672 (0xFFFF * 2 ^ (18 * 32)) } }

/-- LIFE_CYCLE_CHANGE: R372 for every TDI, which then is in CONFIG_UNLOCKED, and the wipe. -/
def execLifeCycleChange (target : LifeCycle) (s : State) : Result :=
  let t := (List.range 16).foldl (fun s t => s.setTdi t .unlocked) s
  let u := t.finishAll.wiped
  .next { u with host := { u.host with life := target } }

/-- DEVICE_RESET: everything is as at reset but the life-cycle state and what the host already holds (log entry 6). -/
def execDeviceReset (s : State) : Result :=
  .next { State.reset with
    nextId := s.nextId
    free := s.free
    host := { State.reset.host with life := s.host.life, records := s.host.records, reports := s.host.reports, answers := s.host.answers } }

/-- Is it a bit of Table 21-4 that can be set? -/
def readyBit (n : Nat) : Bool := n < 18 * 32 + 20 || (19 * 32 ≤ n && n < 20 * 32 + 2)

/-- FUNCTION_READY: a function's self-test and wipe are complete. -/
def execFunctionReady (bit : Nat) (s : State) : Result :=
  if readyBit bit then .next (s.setReady bit true) else .next s

/-- READINESS_LOST. -/
def execReadinessLost (bit : Nat) (s : State) : Result := .next (s.setReady bit false)

/-! ### Control loops (R377) -/

/-- The number of a clock of a die. -/
def clockNo (die : Nat) (p : ClockPart) : Nat :=
  die * 6 + (match p with
    | .arithmetic => 0
    | .crossbar => 1
    | .bridge => 2
    | .slice => 3
    | .base => 4
    | .link => 5)

/-- Where a clock stands before a loop sets it, in MHz: the arithmetic clock at its nominal 850, the crossbar's at its floor (R25),
the others at a value that the manual does not give (log entry 45). -/
def clockInitial (p : ClockPart) : Nat :=
  match p with
  | .arithmetic => 850
  | _ => 1400

/-- The least that a loop sets a clock to: the arithmetic clock falls to 400 MHz (R377), the crossbar's is held at 1.4 GHz (R25). -/
def clockFloor (p : ClockPart) : Nat :=
  match p with
  | .arithmetic => 400
  | .crossbar => 1400
  | _ => 0

/-- A clock of a die in MHz (01_device R25). -/
def State.clock (s : State) (die : Nat) (p : ClockPart) : Nat := Tab.get (clockInitial p) s.host.clock (clockNo die p)

/-- Sets it. -/
def State.setClock (s : State) (die : Nat) (p : ClockPart) (mhz : Nat) : State :=
  { s with host := { s.host with clock := Tab.set (clockInitial p) s.host.clock (clockNo die p) mhz } }

/-- THERMAL_LIMIT: a die's hottest sensor is at its limit. The arithmetic clock falls, to a value that is not promised but at least
400 MHz; at 400 MHz the module shuts down with a record of KIND 5. -/
def execThermalLimit (die : Nat) (s : State) : Result :=
  let now := s.clock die .arithmetic
  if Config.dies ≤ die then .next s
  else if now ≤ 400 then
    let t := s.report ⟨5, 0, TrapRec.zero, 0, 0, 0, 0, die * 2 ^ 12, []⟩
    .next { t with host := { t.host with shut := true } }
  else
    let t := s.setClock die .arithmetic (400 + s.pick (now - 400))
    .next { t.drawn with host := { t.host with hot := t.host.hot.put die () } }

/-- CONTROL_LOOP_ADJUST: none of these changes a result, an order or a fault. A die at its limit keeps a lowered arithmetic clock
until it has cooled. -/
def execControlLoopAdjust (die : Nat) (setting : LoopSetting) (s : State) : Result :=
  if Config.dies ≤ die then .next s
  else
  match setting with
  | .clock p mhz =>
    if mhz < (clockFloor p) || (p == .arithmetic && s.host.hot.has die && s.clock die p < mhz) then .next s else .next (s.setClock die p mhz)
  | .cool => .next { s with host := { s.host with hot := s.host.hot.del die } }
  | .equalisation link n => if Config.links ≤ link then .next s else .next (s.setLink link { s.link link with eq := n })
  | .refresh stack n => if Config.stackCount ≤ stack then .next s else .next { s with host := { s.host with refresh := s.host.refresh.put stack n } }

/-! ### Base-die housekeeping (R379, R380) -/

/-- SCRUB_READ of a line, `line` counting the stack's lines by physical address. A corrected copy is kept for its write-back;
the scrubber reads no further line of the stack while it holds one. -/
def execScrubRead (stack line : Nat) (finding : ScrubFinding) (s : State) : Result :=
  if (s.host.scrub.find stack).isSome || Config.stackCount ≤ stack || Config.frames * 2 ^ 14 ≤ line then .next s
  else
    match finding with
    | .clean => .next s
    | .correctable => .next { s with host := { s.host with scrub := s.host.scrub.put stack (line, false) } }
    | .uncorrectable => .next { s with
        poison := s.poison.put (stack * 2 ^ 31 + line) ()
        host := { s.host with uncorrected := s.host.uncorrected.bump stack 1 } }

/-- SCRUB_WRITE_BACK: dropped when a demand write of the line has been performed since the read. The corrected line holds
what the line holds, so writing it back changes no byte. -/
def execScrubWriteBack (stack : Nat) (s : State) : Result :=
  match s.host.scrub.find stack with
  | none => .next s
  | some (_, written) =>
    let h := { s.host with scrub := s.host.scrub.del stack }
    .next { s with host :=
      if written then { h with dropBacks := h.dropBacks.bump stack 1 } else { h with corrected := h.corrected.bump stack 1 } }

/-- The key of a row's counter. -/
def rowKey (stack bank row : Nat) : Nat := (stack * 2 ^ 16 + bank) * 2 ^ 32 + row

/-- The parity of a count's bits. -/
def parityOf (n : Nat) : Bool := ((List.range 32).filter (fun i => n.testBit i)).length % 2 == 1

/-- ROW_ACTIVATION_REFRESH: a row is precharged, and its counter read, with the bits of `upset` flipped since it was written. A count
that is saturated or fails its parity check has the row's neighbours refreshed, is reset and counted; the threshold is the DRAM
loop's, and free until that has set one (R377, R380). -/
def execRowActivationRefresh (stack bank row upset : Nat) (s : State) : Result :=
  let k := rowKey stack bank row
  let r := Tab.get ⟨0, false⟩ s.host.rows k
  let limit := (s.host.refresh.find stack).getD (Config.freeNat s.free)
  let read := r.count ^^^ upset
  let n := read + 1
  let put := fun (x : Row) => Tab.set ⟨0, false⟩ s.host.rows k x
  if Config.stackCount ≤ stack then .next s
  else if parityOf read != r.parity || limit ≤ n then
    .next { s.drawn with host := { s.host with rows := put ⟨0, false⟩, rowEvents := s.host.rowEvents.bump stack 1 } }
  else .next { s.drawn with host := { s.host with rows := put ⟨n, parityOf n⟩ } }

end Sys2Proof.Machine
end

