-- ==== Sys2Proof/Machine/Clock.lean ====
section
/-!
DEFINITION. One cycle of a die's arithmetic clock: CYCLE, the issue slots of each core, the counted waits, the ages of what
is in flight, the bubble counters (01_device R25, 04_execution R84, R93 to R98, 05_traps R114, 17_fabric R330, R334,
19_itinerary R356).
-/
namespace Sys2Proof.Machine

open Sys2Proof

/-! ### Issue units (R93) -/

/-- An issue unit of a core: the tenant, the workgroup slot, and its quads that have not issued the present instruction. -/
structure IssueUnit where
  tenant : Nat
  wg : Nat
  quads : List (Nat × Quad)
  deriving DecidableEq, Repr

/-- The unit's name: its workgroup slot and lowest quad. -/
def IssueUnit.name (u : IssueUnit) : Nat × Nat := (u.wg, (u.quads.head?.map (·.1)).getD 0)

/-- Its quads, by workgroup slot. -/
def IssueUnit.names (u : IssueUnit) : List (Nat × Nat) := u.quads.map (fun e => (u.wg, e.1))

/-- The turns of a granted unit: its quads' instruction, after their clause's header where they stand before one (R47). -/
def IssueUnit.turns (u : IssueUnit) : List Turn :=
  let once := u.quads.map (fun e => Turn.run (.quad u.wg e.1))
  if u.quads.any (fun e => e.2.cl.rem == 0) then once ++ once else once

/-- The turns of a sequencer context in a cycle. -/
def Seq.turns (x : Seq) (p : Party) : List Turn :=
  if x.mode != .started then [] else if x.cl.rem == 0 then [.run p, .run p] else [.run p]

/-- The issue units of a workgroup: an unparted gang, or a quad of a parted one. -/
def Wg.units (w : Wg) (k : Nat) : List IssueUnit :=
  let per := fun (g : Nat) =>
    let x := w.gang (g * 8)
    let qs := (w.gangQuads g).filter (fun e => !x.issued.contains e.1 && !e.2.waitsIn && !e.2.isStopped)
    if x.parted then qs.map (fun e => ⟨w.tenant, k, [e]⟩) else if qs.isEmpty then [] else [⟨w.tenant, k, qs⟩]
  ((List.range 8).map per).flatten

/-! ### Issue slots (R94) -/

/-- D[t]. -/
def deficit (d : List (Nat × Nat)) (t : Nat) : Nat := ((d.find? (fun e => e.1 == t)).map (·.2)).getD 0

/-- Is `u` to be issued before `v`: ready for longer, then the lower slot, then the lower QUADID? -/
def IssueUnit.before (u v : IssueUnit) : Bool :=
  let age := fun (u : IssueUnit) => ((u.quads.head?.bind (fun e => e.2.since)).getD 0, u.name)
  let a := age u
  let b := age v
  a.1 < b.1 || (a.1 == b.1 && (a.2.1 < b.2.1 || (a.2.1 == b.2.1 && a.2.2 < b.2.2)))

/-- The first by an order. -/
def firstBy {α : Type} (lt : α → α → Bool) (l : List α) : Option α :=
  l.foldl (fun m x => match m with
    | none => some x
    | some y => if lt x y then some x else some y) none

/-- One slot's grant among the ready units, with the deficits `d` of the tenants present and their weights `w`: the deficits
afterwards and the unit. -/
def grantSlot (d : List (Nat × Nat)) (w : Nat → Nat) (units : List IssueUnit) : List (Nat × Nat) × Option IssueUnit :=
  let cand := d.filter (fun e => units.any (fun u => u.tenant == e.1))
  if cand.isEmpty then (d, none)
  else
    let round := cand.all (fun e => e.2 == 0)
    let d1 := if round then d.map (fun e => (e.1, min (e.2 + w e.1) (2 * w e.1))) else d
    let cand1 := d1.filter (fun e => units.any (fun u => u.tenant == e.1))
    match firstBy (fun a b => b.2 < a.2 || (a.2 == b.2 && a.1 < b.1)) cand1 with
    | none => (d1, none)
    | some (t, n) =>
      let d2 := if n = 0 then d1 else d1.map (fun e => if e.1 == t then (t, e.2 - 1) else e)
      (d2, firstBy IssueUnit.before (units.filter (fun u => u.tenant == t)))

/-! ### Waits -/

/-- Does an LDS of the quad wait for a full bit? -/
def State.waitsFull (s : State) (uid : Nat) (p : Party) : Bool :=
  (s.opsOf uid p).any (fun e => match e.2.job with
    | .load _ _ _ => e.2.parts.any (fun t => match t.2.place with
      | .scratch m => t.2.st != .performed && !s.isFull m ((t.2.accs.headD ⟨0, 0, 0, 0, 0, 0⟩).addr.toNat / 128)
      | _ => false)
    | _ => false)

/-- A quad whose next instruction only the window of an LDS on an empty line keeps back is in that wait; a wait of its
clause's header is none of the counted ones (R96). While its workgroup stops, the wait stands as it is (R98). -/
def State.fullWait (s : State) (k q : Nat) (w : Wg) (x : Quad) : Option Await :=
  if x.live && x.await.all (fun a => a.what == .full) && w.halt.isNone then
    if s.waitsFull w.uid (.quad k q) && s.quadGate k q w x == .wait && s.quadGate k q w { x with wins := [] } != .wait then
      some (x.await.getD ⟨.full, 0, (s.csr (dieOf k) w.tenant).waitcap.toNat⟩)
    else none
  else x.await

/-- The waits in which the quad's instruction is tried again in each cycle; the others end by an event of their own. -/
def Wait.polled (w : Wait) : Bool :=
  match w with
  | .cbars _ | .cpwt | .bar | .rendezvous _ | .rdv | .qfence _ | .other => true
  | _ => false

/-- One cycle of a workgroup's waits. -/
def State.waitCycle (s : State) (k : Nat) (w : Wg) : State :=
  s.updWg k (fun v => { v with
    quads := w.quads.map (fun e =>
      let a := (s.fullWait k e.1 w e.2).map (fun a => { a with count := a.count + 1 })
      (e.1, { e.2 with await := a }))
    mtx := { v.mtx with seq := { v.mtx.seq with await := v.mtx.seq.await.map (fun a => { a with count := a.count + 1 }) } }
    cpy := { v.cpy with seq := { v.cpy.seq with await := v.cpy.seq.await.map (fun a => { a with count := a.count + 1 }) } }
    halt := v.halt.map (fun h => if h.stage == .handler then h else { h with cycles := h.cycles + 1 }) })

/-- Is the next issue of a quad to ask for a word of its code outside the module? -/
def State.willAsk (s : State) (k q : Nat) (w : Wg) (x : Quad) : Bool :=
  match s.quadNext k q w x with
  | .ask _ _ => true
  | _ => false

/-- The turns that take no issue slot: instructions in a polled wait, fetches from outside the module, and the copy
sequencer. -/
def State.freeTurns (s : State) (k : Nat) (w : Wg) : List Turn :=
  (w.quads.filter (fun e => e.2.live && (e.2.await.any (fun a => a.what.polled) || s.willAsk k e.1 w e.2))).map
      (fun e => Turn.run (.quad k e.1)) ++
    w.cpy.seq.turns (.cpy k)

/-! ### Ages -/

/-- What is on its way to or from a die is a cycle older. -/
def State.older (s : State) (die : Nat) : State :=
  let part := fun (p : Part) => if p.st == .away then { p with age := p.age + 1 } else p
  let held := fun (h : Held) => if h.die / 8 == die then { h with age := h.age + 1 } else h
  let saved := fun (u : Saved) => if u.cluster / 6 == die then { u with cycles := u.cycles + 1 } else u
  let ops := fun (l : List EngineOp) => l.map (fun o => { o with age := o.age + 1 })
  let run := fun (r : EntryRun) => { r with copies := ops r.copies, notes := ops r.notes, rets := ops r.rets }
  { s with
    flights := s.flights.map (fun e => if e.2.die == die then (e.1, { e.2 with parts := e.2.parts.map (fun p => (p.1, part p.2)) }) else e)
    fab := { s.fab with
      hold := s.fab.hold.map (fun h => if h.die == die then { h with age := h.age + 1 } else h)
      resend := s.fab.resend.map held }
    sched := { s.sched with saved := s.sched.saved.map saved }
    itin := if die == 0 then { s.itin.bubble with
      strays := ops s.itin.strays, runs := s.itin.bubble.runs.map (fun e => (e.1, run e.2)) } else s.itin }

/-- ARITHMETIC_CLOCK_TICK of a die: CYCLE advances, waits count, and the turns of the cycle go to the head of the agenda: those of
the matrix engines before the copy contexts' (15_matrix R297, R298), then the four issue slots of each core (R94). -/
def execArithmeticClockTick (die : Nat) (s : State) : Result :=
  if Config.dies ≤ die then .next s
  else
    let c := ({ s with host := { s.host with cycle := s.host.cycle.bump die 1 } } : State).older die
    let mine := fun (s : State) => s.wgs.filter (fun e => dieOf e.1 == die)
    let w := (mine c).foldl (fun s e => s.waitCycle e.1 e.2) c
    let free := ((mine w).map (fun e => w.freeTurns e.1 e.2)).flatten
    let cores := ((mine w).map (fun e => coreIx e.1)).eraseDups
    .next { w with agenda := cores.map Turn.engine ++ free ++ cores.map (fun c => .slots c 4 []) ++ s.agenda }

end Sys2Proof.Machine
end

