-- ==== Sys2Proof/Machine/Dispatch.lean ====
section
/-!
DEFINITION. One arm per row of the opcode table: the meaning of each instruction and event.
-/
namespace Sys2Proof.Machine

open Sys2Proof

/-- The meaning of an instruction or event (03_encoding R71, 95_what_each_step_holds). -/
def exec (i : Instr) (s : State) : Host.Outcome State Fault Refusal :=
  match i with
  | .iadd a => Sys2Proof.Machine.execIadd a s
  | .isub a => Sys2Proof.Machine.execIsub a s
  | .imul a => Sys2Proof.Machine.execImul a s
  | .imulh a => Sys2Proof.Machine.execImulh a s
  | .imulhu a => Sys2Proof.Machine.execImulhu a s
  | .imad a => Sys2Proof.Machine.execImad a s
  | .idp4 a => Sys2Proof.Machine.execIdp4 a s
  | .idp4u a => Sys2Proof.Machine.execIdp4u a s
  | .iand a => Sys2Proof.Machine.execIand a s
  | .ior a => Sys2Proof.Machine.execIor a s
  | .ixor a => Sys2Proof.Machine.execIxor a s
  | .andn a => Sys2Proof.Machine.execAndn a s
  | .shl a => Sys2Proof.Machine.execShl a s
  | .shr a => Sys2Proof.Machine.execShr a s
  | .sar a => Sys2Proof.Machine.execSar a s
  | .imin a => Sys2Proof.Machine.execImin a s
  | .imax a => Sys2Proof.Machine.execImax a s
  | .umin a => Sys2Proof.Machine.execUmin a s
  | .umax a => Sys2Proof.Machine.execUmax a s
  | .popc a => Sys2Proof.Machine.execPopc a s
  | .clz a => Sys2Proof.Machine.execClz a s
  | .brev a => Sys2Proof.Machine.execBrev a s
  | .bfx a => Sys2Proof.Machine.execBfx a s
  | .bfi a => Sys2Proof.Machine.execBfi a s
  | .sel a => Sys2Proof.Machine.execSel a s
  | .mov a => Sys2Proof.Machine.execMov a s
  | .add64 a => Sys2Proof.Machine.execAdd64 a s
  | .sub64 a => Sys2Proof.Machine.execSub64 a s
  | .madw a => Sys2Proof.Machine.execMadw a s
  | .shl64 a => Sys2Proof.Machine.execShl64 a s
  | .shr64 a => Sys2Proof.Machine.execShr64 a s
  | .iaddi a => Sys2Proof.Machine.execIaddi a s
  | .andi a => Sys2Proof.Machine.execAndi a s
  | .ori a => Sys2Proof.Machine.execOri a s
  | .xori a => Sys2Proof.Machine.execXori a s
  | .shli a => Sys2Proof.Machine.execShli a s
  | .shri a => Sys2Proof.Machine.execShri a s
  | .sari a => Sys2Proof.Machine.execSari a s
  | .add64i a => Sys2Proof.Machine.execAdd64i a s
  | .movi a => Sys2Proof.Machine.execMovi a s
  | .icmp a => Sys2Proof.Machine.execIcmp a s
  | .icmp64 a => Sys2Proof.Machine.execIcmp64 a s
  | .fcmp a => Sys2Proof.Machine.execFcmp a s
  | .pand a => Sys2Proof.Machine.execPand a s
  | .por a => Sys2Proof.Machine.execPor a s
  | .pxor a => Sys2Proof.Machine.execPxor a s
  | .pnot a => Sys2Proof.Machine.execPnot a s
  | .ptov a => Sys2Proof.Machine.execPtov a s
  | .vtop a => Sys2Proof.Machine.execVtop a s
  | .shfq a => Sys2Proof.Machine.execShfq a s
  | .shfg a => Sys2Proof.Machine.execShfg a s
  | .vote a => Sys2Proof.Machine.execVote a s
  | .fadd a => Sys2Proof.Machine.execFadd a s
  | .fsub a => Sys2Proof.Machine.execFsub a s
  | .fmul a => Sys2Proof.Machine.execFmul a s
  | .ffma a => Sys2Proof.Machine.execFfma a s
  | .fmin a => Sys2Proof.Machine.execFmin a s
  | .fmax a => Sys2Proof.Machine.execFmax a s
  | .fabs a => Sys2Proof.Machine.execFabs a s
  | .fneg a => Sys2Proof.Machine.execFneg a s
  | .frcp a => Sys2Proof.Machine.execFrcp a s
  | .frsq a => Sys2Proof.Machine.execFrsq a s
  | .fsqrt a => Sys2Proof.Machine.execFsqrt a s
  | .fexp2 a => Sys2Proof.Machine.execFexp2 a s
  | .flog2 a => Sys2Proof.Machine.execFlog2 a s
  | .ftanh a => Sys2Proof.Machine.execFtanh a s
  | .fscale a => Sys2Proof.Machine.execFscale a s
  | .frnd a => Sys2Proof.Machine.execFrnd a s
  | .hadd2 a => Sys2Proof.Machine.execHadd2 a s
  | .hmul2 a => Sys2Proof.Machine.execHmul2 a s
  | .hfma2 a => Sys2Proof.Machine.execHfma2 a s
  | .badd2 a => Sys2Proof.Machine.execBadd2 a s
  | .bmul2 a => Sys2Proof.Machine.execBmul2 a s
  | .bfma2 a => Sys2Proof.Machine.execBfma2 a s
  | .cvt a => Sys2Proof.Machine.execCvt a s
  | .packb2 a => Sys2Proof.Machine.execPackb2 a s
  | .packh2 a => Sys2Proof.Machine.execPackh2 a s
  | .unpkb2 a => Sys2Proof.Machine.execUnpkb2 a s
  | .unpkh2 a => Sys2Proof.Machine.execUnpkh2 a s
  | .pk4e4m3 a => Sys2Proof.Machine.execPk4e4m3 a s
  | .pk4e5m2 a => Sys2Proof.Machine.execPk4e5m2 a s
  | .pk8e2m1 a => Sys2Proof.Machine.execPk8e2m1 a s
  | .pk16e2m3 a => Sys2Proof.Machine.execPk16e2m3 a s
  | .pk16e3m2 a => Sys2Proof.Machine.execPk16e3m2 a s
  | .upk4e4m3 a => Sys2Proof.Machine.execUpk4e4m3 a s
  | .upk4e5m2 a => Sys2Proof.Machine.execUpk4e5m2 a s
  | .upk8e2m1 a => Sys2Proof.Machine.execUpk8e2m1 a s
  | .upk16e2m3 a => Sys2Proof.Machine.execUpk16e2m3 a s
  | .upk16e3m2 a => Sys2Proof.Machine.execUpk16e3m2 a s
  | .vqdec a => Sys2Proof.Machine.execVqdec a s
  | .addm64 a => Sys2Proof.Machine.execAddm64 a s
  | .subm64 a => Sys2Proof.Machine.execSubm64 a s
  | .mulm64 a => Sys2Proof.Machine.execMulm64 a s
  | .nttbf a => Sys2Proof.Machine.execNttbf a s
  | .ld8 a => Sys2Proof.Machine.execLd8 a s
  | .ld8s a => Sys2Proof.Machine.execLd8s a s
  | .ld16 a => Sys2Proof.Machine.execLd16 a s
  | .ld16s a => Sys2Proof.Machine.execLd16s a s
  | .ld32 a => Sys2Proof.Machine.execLd32 a s
  | .ld64 a => Sys2Proof.Machine.execLd64 a s
  | .ld128 a => Sys2Proof.Machine.execLd128 a s
  | .st8 a => Sys2Proof.Machine.execSt8 a s
  | .st16 a => Sys2Proof.Machine.execSt16 a s
  | .st32 a => Sys2Proof.Machine.execSt32 a s
  | .st64 a => Sys2Proof.Machine.execSt64 a s
  | .st128 a => Sys2Proof.Machine.execSt128 a s
  | .sto a => Sys2Proof.Machine.execSto a s
  | .ldaq a => Sys2Proof.Machine.execLdaq a s
  | .strl a => Sys2Proof.Machine.execStrl a s
  | .axchg a => Sys2Proof.Machine.execAxchg a s
  | .acas a => Sys2Proof.Machine.execAcas a s
  | .aadd a => Sys2Proof.Machine.execAadd a s
  | .amin a => Sys2Proof.Machine.execAmin a s
  | .amax a => Sys2Proof.Machine.execAmax a s
  | .aand a => Sys2Proof.Machine.execAand a s
  | .aor a => Sys2Proof.Machine.execAor a s
  | .axor a => Sys2Proof.Machine.execAxor a s
  | .afadd a => Sys2Proof.Machine.execAfadd a s
  | .axchg64 a => Sys2Proof.Machine.execAxchg64 a s
  | .acas64 a => Sys2Proof.Machine.execAcas64 a s
  | .aadd64 a => Sys2Proof.Machine.execAadd64 a s
  | .gld a => Sys2Proof.Machine.execGld a s
  | .gst a => Sys2Proof.Machine.execGst a s
  | .lds a => Sys2Proof.Machine.execLds a s
  | .sts a => Sys2Proof.Machine.execSts a s
  | .lds128 a => Sys2Proof.Machine.execLds128 a s
  | .sts128 a => Sys2Proof.Machine.execSts128 a s
  | .lset a => Sys2Proof.Machine.execLset a s
  | .lclr a => Sys2Proof.Machine.execLclr a s
  | .ldp a => Sys2Proof.Machine.execLdp a s
  | .stp a => Sys2Proof.Machine.execStp a s
  | .cpl4 a => Sys2Proof.Machine.execCpl4 a s
  | .cpl8 a => Sys2Proof.Machine.execCpl8 a s
  | .cpl16 a => Sys2Proof.Machine.execCpl16 a s
  | .stn a => Sys2Proof.Machine.execStn a s
  | .rlq a => Sys2Proof.Machine.execRlq a s
  | .fence scope kind => Sys2Proof.Machine.execFence scope kind s
  | .fencea scope paths => Sys2Proof.Machine.execFencea scope paths s
  | .waitv a c cc => Sys2Proof.Machine.execWaitv a c cc s
  | .hfree a => Sys2Proof.Machine.execHfree a s
  | .itout a => Sys2Proof.Machine.execItout a s
  | .itdone a => Sys2Proof.Machine.execItdone a s
  | .br a => Sys2Proof.Machine.execBr a s
  | .brd a => Sys2Proof.Machine.execBrd a s
  | .join off => Sys2Proof.Machine.execJoin off s
  | .jmpr a => Sys2Proof.Machine.execJmpr a s
  | .call slide off => Sys2Proof.Machine.execCall slide off s
  | .callr slide a => Sys2Proof.Machine.execCallr slide a s
  | .ret => Sys2Proof.Machine.execRet s
  | .regang id => Sys2Proof.Machine.execRegang id s
  | .bara b => Sys2Proof.Machine.execBara b s
  | .barw b => Sys2Proof.Machine.execBarw b s
  | .bars b => Sys2Proof.Machine.execBars b s
  | .cbars id => Sys2Proof.Machine.execCbars id s
  | .fork m c a => Sys2Proof.Machine.execFork m c a s
  | .rdv => Sys2Proof.Machine.execRdv s
  | .post c target q prio => Sys2Proof.Machine.execPost c target q prio s
  | .exit => Sys2Proof.Machine.execExit s
  | .qfence mask => Sys2Proof.Machine.execQfence mask s
  | .idemb live => Sys2Proof.Machine.execIdemb live s
  | .ideme => Sys2Proof.Machine.execIdeme s
  | .trap code => Sys2Proof.Machine.execTrap code s
  | .csrr a => Sys2Proof.Machine.execCsrr a s
  | .csrw a => Sys2Proof.Machine.execCsrw a s
  | .itld a => Sys2Proof.Machine.execItld a s
  | .itgo a => Sys2Proof.Machine.execItgo a s
  | .itstop a => Sys2Proof.Machine.execItstop a s
  | .itstat a => Sys2Proof.Machine.execItstat a s
  | .nop => Sys2Proof.Machine.execNop s
  | .yield => Sys2Proof.Machine.execYield s
  | .rett mode => Sys2Proof.Machine.execRett mode s
  | .scsrr a => Sys2Proof.Machine.execScsrr a s
  | .scsrw a => Sys2Proof.Machine.execScsrw a s
  | .rtset a => Sys2Proof.Machine.execRtset a s
  | .dmset a => Sys2Proof.Machine.execDmset a s
  | .rgset a => Sys2Proof.Machine.execRgset a s
  | .mapx a => Sys2Proof.Machine.execMapx a s
  | .unmapx a => Sys2Proof.Machine.execUnmapx a s
  | .migx a => Sys2Proof.Machine.execMigx a s
  | .preempt a => Sys2Proof.Machine.execPreempt a s
  | .ctxsv a => Sys2Proof.Machine.execCtxsv a s
  | .ctxld a => Sys2Proof.Machine.execCtxld a s
  | .kmov a => Sys2Proof.Machine.execKmov a s
  | .kadd a => Sys2Proof.Machine.execKadd a s
  | .ksub a => Sys2Proof.Machine.execKsub a s
  | .kmul a => Sys2Proof.Machine.execKmul a s
  | .kand a => Sys2Proof.Machine.execKand a s
  | .kor a => Sys2Proof.Machine.execKor a s
  | .kshl a => Sys2Proof.Machine.execKshl a s
  | .kshr a => Sys2Proof.Machine.execKshr a s
  | .kcmp a => Sys2Proof.Machine.execKcmp a s
  | .kbr a => Sys2Proof.Machine.execKbr a s
  | .kld a => Sys2Proof.Machine.execKld a s
  | .kst a => Sys2Proof.Machine.execKst a s
  | .kbara a => Sys2Proof.Machine.execKbara a s
  | .kbarw a => Sys2Proof.Machine.execKbarw a s
  | .kend a => Sys2Proof.Machine.execKend a s
  | .tdef a => Sys2Proof.Machine.execTdef a s
  | .mma a => Sys2Proof.Machine.execMma a s
  | .mmag a => Sys2Proof.Machine.execMmag a s
  | .mmam a => Sys2Proof.Machine.execMmam a s
  | .aclr a => Sys2Proof.Machine.execAclr a s
  | .acst a => Sys2Proof.Machine.execAcst a s
  | .acld a => Sys2Proof.Machine.execAcld a s
  | .sxld a => Sys2Proof.Machine.execSxld a s
  | .cbld a => Sys2Proof.Machine.execCbld a s
  | .lrdef a => Sys2Proof.Machine.execLrdef a s
  | .cpt a => Sys2Proof.Machine.execCpt a s
  | .cpto a => Sys2Proof.Machine.execCpto a s
  | .cpr a => Sys2Proof.Machine.execCpr a s
  | .cpmc a => Sys2Proof.Machine.execCpmc a s
  | .cpwt a => Sys2Proof.Machine.execCpwt a s
  | .clauseHeaderIssue => Sys2Proof.Machine.execClauseHeaderIssue s
  | .loadDataReturn op => Sys2Proof.Machine.execLoadDataReturn op s
  | .storeAcknowledgement op part => Sys2Proof.Machine.execStoreAcknowledgement op part s
  | .homeAccessPerform op part => Sys2Proof.Machine.execHomeAccessPerform op part s
  | .impreciseReportDelivery wg quad => Sys2Proof.Machine.execImpreciseReportDelivery wg quad s
  | .waitvReadReturn op => Sys2Proof.Machine.execWaitvReadReturn op s
  | .stnNameWrite op => Sys2Proof.Machine.execStnNameWrite op s
  | .exitComplete wg quad => Sys2Proof.Machine.execExitComplete wg quad s
  | .joinDecrement n => Sys2Proof.Machine.execJoinDecrement n s
  | .postRingSpace wg quad => Sys2Proof.Machine.execPostRingSpace wg quad s
  | .cardAdmission cluster cores => Sys2Proof.Machine.execCardAdmission cluster cores s
  | .swapOutOnWait unit => Sys2Proof.Machine.execSwapOutOnWait unit s
  | .swapSlotRetest unit => Sys2Proof.Machine.execSwapSlotRetest unit s
  | .wakeTest unit => Sys2Proof.Machine.execWakeTest unit s
  | .handlerEntry wg => Sys2Proof.Machine.execHandlerEntry wg s
  | .terminationComplete unit => Sys2Proof.Machine.execTerminationComplete unit s
  | .watchdogExpiry unit => Sys2Proof.Machine.execWatchdogExpiry unit s
  | .hostPreemptRequest target => Sys2Proof.Machine.execHostPreemptRequest target s
  | .engineStopAck wg engine => Sys2Proof.Machine.execEngineStopAck wg engine s
  | .preemptionSave unit => Sys2Proof.Machine.execPreemptionSave unit s
  | .tileLineWrite op line => Sys2Proof.Machine.execTileLineWrite op line s
  | .copyPerformed op => Sys2Proof.Machine.execCopyPerformed op s
  | .multicastDelivery op core line => Sys2Proof.Machine.execMulticastDelivery op core line s
  | .laneCopyBatchComplete op => Sys2Proof.Machine.execLaneCopyBatchComplete op s
  | .matrixOpComplete op => Sys2Proof.Machine.execMatrixOpComplete op s
  | .mmagGatherEnd wg => Sys2Proof.Machine.execMmagGatherEnd wg s
  | .atsTranslationCompletion op part answer => Sys2Proof.Machine.execAtsTranslationCompletion op part answer s
  | .priPageResponse op part ok => Sys2Proof.Machine.execPriPageResponse op part ok s
  | .atsInvalidation die tenant first last => Sys2Proof.Machine.execAtsInvalidation die tenant first last s
  | .tableChangeDrained wg quad => Sys2Proof.Machine.execTableChangeDrained wg quad s
  | .mapxAtBaseDie stack choice => Sys2Proof.Machine.execMapxAtBaseDie stack choice s
  | .migrationLineCopy stack slot => Sys2Proof.Machine.execMigrationLineCopy stack slot s
  | .migrationSwitch stack slot => Sys2Proof.Machine.execMigrationSwitch stack slot s
  | .flitReceived link flit => Sys2Proof.Machine.execFlitReceived link flit s
  | .linkDownAckTimeout link => Sys2Proof.Machine.execLinkDownAckTimeout link s
  | .linkReady link => Sys2Proof.Machine.execLinkReady link s
  | .fabricHop link channel => Sys2Proof.Machine.execFabricHop link channel s
  | .holdResend n => Sys2Proof.Machine.execHoldResend n s
  | .orderedPacketForward n => Sys2Proof.Machine.execOrderedPacketForward n s
  | .skipReceive source die tenant slot => Sys2Proof.Machine.execSkipReceive source die tenant slot s
  | .remoteAnswerArrival die op part answer => Sys2Proof.Machine.execRemoteAnswerArrival die op part answer s
  | .remoteTimeoutExpiry op part => Sys2Proof.Machine.execRemoteTimeoutExpiry op part s
  | .peerLost tenant index mirror => Sys2Proof.Machine.execPeerLost tenant index mirror s
  | .swapTableLoad label entry => Sys2Proof.Machine.execSwapTableLoad label entry s
  | .itineraryEntryStart => Sys2Proof.Machine.execItineraryEntryStart s
  | .itineraryEntryClosed entry => Sys2Proof.Machine.execItineraryEntryClosed entry s
  | .seatFullNotice source gradient seat count => Sys2Proof.Machine.execSeatFullNotice source gradient seat count s
  | .seatReturn source gradient => Sys2Proof.Machine.execSeatReturn source gradient s
  | .q5OperationPerformed wg quad => Sys2Proof.Machine.execQ5OperationPerformed wg quad s
  | .itstatWaitComplete wg quad => Sys2Proof.Machine.execItstatWaitComplete wg quad s
  | .hostItineraryResume => Sys2Proof.Machine.execHostItineraryResume s
  | .hostItineraryClear => Sys2Proof.Machine.execHostItineraryClear s
  | .hostLaunch tenant route queue prio => Sys2Proof.Machine.execHostLaunch tenant route queue prio s
  | .hostRangeWrite tenant index clear image => Sys2Proof.Machine.execHostRangeWrite tenant index clear image s
  | .setHypervisorTenant tenant => Sys2Proof.Machine.execSetHypervisorTenant tenant s
  | .setSelfpl tenant change => Sys2Proof.Machine.execSetSelfpl tenant change s
  | .setGrants tenant stack slFirst slCount xFirst xCount => Sys2Proof.Machine.execSetGrants tenant stack slFirst slCount xFirst xCount s
  | .setFrameGrant stack frame tenant => Sys2Proof.Machine.execSetFrameGrant stack frame tenant s
  | .setPoolLabel tenant stack label => Sys2Proof.Machine.execSetPoolLabel tenant stack label s
  | .setTenantwt die tenant weight => Sys2Proof.Machine.execSetTenantwt die tenant weight s
  | .setFtimeout tenant cycles => Sys2Proof.Machine.execSetFtimeout tenant cycles s
  | .setAtomicWindow die tenant index d0 d1 => Sys2Proof.Machine.execSetAtomicWindow die tenant index d0 d1 s
  | .setQueueRing cluster prio base size => Sys2Proof.Machine.execSetQueueRing cluster prio base size s
  | .setErrorRing base size => Sys2Proof.Machine.execSetErrorRing base size s
  | .setPowerCap watts => Sys2Proof.Machine.execSetPowerCap watts s
  | .hostTlpArrival tdi tlp => Sys2Proof.Machine.execHostTlpArrival tdi tlp s
  | .tdiStateChange tdi target => Sys2Proof.Machine.execTdiStateChange tdi target s
  | .keySet tdi stack slot material => Sys2Proof.Machine.execKeySet tdi stack slot material s
  | .spdmMeasurementRequest tdi nonce => Sys2Proof.Machine.execSpdmMeasurementRequest tdi nonce s
  | .lifeCycleChange target => Sys2Proof.Machine.execLifeCycleChange target s
  | .deviceReset => Sys2Proof.Machine.execDeviceReset s
  | .functionReady bit => Sys2Proof.Machine.execFunctionReady bit s
  | .thermalLimit die => Sys2Proof.Machine.execThermalLimit die s
  | .scrubRead stack line finding => Sys2Proof.Machine.execScrubRead stack line finding s
  | .scrubWriteBack stack => Sys2Proof.Machine.execScrubWriteBack stack s
  | .rowActivationRefresh stack bank row upset => Sys2Proof.Machine.execRowActivationRefresh stack bank row upset s
  | .arithmeticClockTick die => Sys2Proof.Machine.execArithmeticClockTick die s
  | .crossbarCycle die first choice => Sys2Proof.Machine.execCrossbarCycle die first choice s
  | .migxAtBaseDie stack choice => Sys2Proof.Machine.execMigxAtBaseDie stack choice s
  | .acstLineWrite op line => Sys2Proof.Machine.execAcstLineWrite op line s
  | .tileReadComplete op => Sys2Proof.Machine.execTileReadComplete op s
  | .hfreePerformed wg quad => Sys2Proof.Machine.execHfreePerformed wg quad s
  | .peerReturn tenant index mirror => Sys2Proof.Machine.execPeerReturn tenant index mirror s
  | .setCausalGroups tenant groups => Sys2Proof.Machine.execSetCausalGroups tenant groups s
  | .controlLoopAdjust die setting => Sys2Proof.Machine.execControlLoopAdjust die setting s
  | .readinessLost bit => Sys2Proof.Machine.execReadinessLost bit s

end Sys2Proof.Machine
end

