-- ==== Sys2Proof/Machine/Sched.lean ====
section
/-!
DEFINITION. One step of the module: the turn at the head of the agenda (log entry 1), a party's issue, and the place where a
given instruction is the next one fetched.
-/
namespace Sys2Proof.Machine

open Sys2Proof

/-- The turn of a party: it waits, faults, takes a clause header, or executes the instruction at its place (03_encoding R47,
R51, R70). -/
def State.issue (s : State) (p : Party) : Result :=
  let s0 := { s with focus := some p }
  match s0.gate with
  | .wait => .next (s0.stopBlocked p)
  | .fault f => .next ((s0.fault f).settle s0 p false)
  | .ask a c => .next (s0.askWord a c)
  | .header _ => exec .clauseHeaderIssue s0
  | .run i _ =>
    match exec i s0 with
    | .next t => .next (t.settle s0 p false)
    | o => o

/-- An event of the module's own. -/
def State.happens (s : State) (d : Due) : Result :=
  match d with
  | .homeAccessPerform op part => Sys2Proof.Machine.execHomeAccessPerform op part s
  | .storeAcknowledgement op part => Sys2Proof.Machine.execStoreAcknowledgement op part s
  | .remoteTimeoutExpiry op part => Sys2Proof.Machine.execRemoteTimeoutExpiry op part s
  | .multicastDelivery op core line => Sys2Proof.Machine.execMulticastDelivery op core line s
  | .tileLineWrite op line => Sys2Proof.Machine.execTileLineWrite op line s
  | .acstLineWrite op line => Sys2Proof.Machine.execAcstLineWrite op line s
  | .loadDataReturn op => Sys2Proof.Machine.execLoadDataReturn op s
  | .waitvReadReturn op => Sys2Proof.Machine.execWaitvReadReturn op s
  | .stnNameWrite op => Sys2Proof.Machine.execStnNameWrite op s
  | .tileReadComplete op => Sys2Proof.Machine.execTileReadComplete op s
  | .copyPerformed op => Sys2Proof.Machine.execCopyPerformed op s
  | .laneCopyBatchComplete op => Sys2Proof.Machine.execLaneCopyBatchComplete op s
  | .matrixOpComplete op => Sys2Proof.Machine.execMatrixOpComplete op s
  | .impreciseReportDelivery wg quad => Sys2Proof.Machine.execImpreciseReportDelivery wg quad s
  | .exitComplete wg quad => Sys2Proof.Machine.execExitComplete wg quad s
  | .postRingSpace wg quad => Sys2Proof.Machine.execPostRingSpace wg quad s
  | .tableChangeDrained wg quad => Sys2Proof.Machine.execTableChangeDrained wg quad s
  | .q5OperationPerformed wg quad => Sys2Proof.Machine.execQ5OperationPerformed wg quad s
  | .itstatWaitComplete wg quad => Sys2Proof.Machine.execItstatWaitComplete wg quad s
  | .hfreePerformed wg quad => Sys2Proof.Machine.execHfreePerformed wg quad s
  | .handlerEntry wg => Sys2Proof.Machine.execHandlerEntry wg s
  | .mmagGatherEnd wg => Sys2Proof.Machine.execMmagGatherEnd wg s
  | .engineStopAck wg engine => Sys2Proof.Machine.execEngineStopAck wg engine s
  | .terminationComplete unit => Sys2Proof.Machine.execTerminationComplete unit s
  | .watchdogExpiry unit => Sys2Proof.Machine.execWatchdogExpiry unit s
  | .swapOutOnWait unit => Sys2Proof.Machine.execSwapOutOnWait unit s
  | .swapSlotRetest unit => Sys2Proof.Machine.execSwapSlotRetest unit s
  | .preemptionSave unit => Sys2Proof.Machine.execPreemptionSave unit s
  | .wakeTest unit => Sys2Proof.Machine.execWakeTest unit s
  | .joinDecrement n => Sys2Proof.Machine.execJoinDecrement n s
  | .cardAdmission cluster cores => Sys2Proof.Machine.execCardAdmission cluster cores s
  | .mapxAtBaseDie stack choice => Sys2Proof.Machine.execMapxAtBaseDie stack choice s
  | .migxAtBaseDie stack choice => Sys2Proof.Machine.execMigxAtBaseDie stack choice s
  | .migrationLineCopy stack slot => Sys2Proof.Machine.execMigrationLineCopy stack slot s
  | .migrationSwitch stack slot => Sys2Proof.Machine.execMigrationSwitch stack slot s
  | .scrubWriteBack stack => Sys2Proof.Machine.execScrubWriteBack stack s
  | .orderedPacketForward n => Sys2Proof.Machine.execOrderedPacketForward n s
  | .crossbarCycle die first choice => Sys2Proof.Machine.execCrossbarCycle die first choice s
  | .fabricHop link channel => Sys2Proof.Machine.execFabricHop link channel s
  | .holdResend n => Sys2Proof.Machine.execHoldResend n s
  | .itineraryEntryClosed entry => Sys2Proof.Machine.execItineraryEntryClosed entry s
  | .itineraryEntryStart => Sys2Proof.Machine.execItineraryEntryStart s
  | .arithmeticClockTick die => Sys2Proof.Machine.execArithmeticClockTick die s

/-! ### Issue slots (04_execution R93, R94) -/

/-- Has a sequencer context done nothing in its turn, since it waits for an instruction that it has begun? -/
def State.idles (s t : State) (p : Party) : Bool :=
  (s.seq? p).isSome && t.seq? p == s.seq? p && t.nextId == s.nextId && (t.wg? p.wg).map (·.halt) == (s.wg? p.wg).map (·.halt)

/-- The next issue of a party, if it can issue now: the state it leaves, which no wait at issue has kept as it was. -/
def State.tryRun (s : State) (p : Party) : Option State :=
  match ({ s with focus := some p } : State).gate with
  | .wait | .ask _ _ => none
  | _ =>
    match s.issue p with
    | .next t => if ((t.wg? p.wg).bind (·.waitOf p)).any (fun a => a.what == .stall) || s.idles t p then none else some t
    | _ => none

/-- A party's turn among others of its unit: one that a fault of an earlier turn has overtaken is none. -/
def State.tryTurn (s : State) (p : Party) (first : Bool) : Option State :=
  match s.tryRun p with
  | some t => some t
  | none => if !first && (s.wg? p.wg).all (fun w => w.halt.isSome) then some s else none

/-- Can the turns follow one another without a wait? A fault may end them. -/
def State.tryAll (s : State) (l : List Turn) : Bool :=
  (l.foldl (fun (a : Option State × Bool) t =>
    match t with
    | .run p => (a.1.bind (fun s => s.tryTurn p a.2), false)
    | _ => (none, false)) (some s, true)).1.isSome

/-- A unit that has become ready is so since this cycle; one that is no longer ready will become so anew. -/
def State.noteReady (s : State) (now : Nat) (ready : Bool) (u : IssueUnit) : State :=
  u.quads.foldl (fun s e => s.updQuad u.wg e.1 (fun x => { x with since := if ready then some (x.since.getD now) else none })) s

/-- The quads of a unit that cannot issue while their workgroup stops stand blocked (05_traps R109). -/
def State.stopUnit (s : State) (ready : Bool) (u : IssueUnit) : State :=
  if ready then s else u.quads.foldl (fun s e => s.stopBlocked (.quad u.wg e.1)) s

/-- The next issue slot of a core, of the `n` left in the cycle: R94's grant among the ready units of the tenants present, none
of which issues twice in a cycle, the turns of the granted unit, and the slot after it. -/
def State.slotTurn (s : State) (core n : Nat) (issued : List (Nat × Nat)) : State :=
  match n with
  | 0 => s
  | m + 1 =>
    let die := core / 144
    let units := fun (s : State) => (((s.onCore core).map (fun e => e.2.units e.1)).flatten).filter
      (fun u => !u.names.any (fun x => issued.contains x))
    let all := (units s).map (fun u => (u, s.tryAll u.turns))
    let s1 := all.foldl (fun s e => (s.noteReady (s.cycle die) e.2 e.1).stopUnit e.2 e.1) s
    let ready := (units s1).filter (fun u => all.any (fun e => e.2 && e.1.name == u.name))
    let present := (List.range 16).filter (fun t => (s.onCore core).any (fun e => e.2.tenant == t))
    let d := present.map (fun t => (t, Tab.get 0 s1.sched.deficits (core * 16 + t)))
    let r := grantSlot d (fun t => (s1.csr die t).weight.toNat) ready
    let s2 := { s1 with sched := { s1.sched with
      deficits := r.1.foldl (fun (t : Tab Nat) (e : Nat × Nat) => Tab.set 0 t (core * 16 + e.1) e.2) s1.sched.deficits } }
    match r.2 with
    | none => { s2 with agenda := .slots core m issued :: s2.agenda }
    | some u =>
      let s3 := u.quads.foldl (fun s e => s.updQuad u.wg e.1 (fun x => { x with since := none })) s2
      { s3 with agenda := u.turns ++ .slots core m (issued ++ u.names) :: s3.agenda }

/-- The cycles for which an instruction holds the matrix engine (15_matrix R297). -/
def Instr.occupies (i : Instr) : Nat :=
  match i with
  | .mma _ | .mmag _ => 2
  | .mmam _ => 16
  | _ => 1

/-- The instruction that a party issues next, its clause's header taken. -/
def State.nextInstr (s : State) (p : Party) : Option Instr :=
  match ({ s with focus := some p } : State).gate with
  | .run i _ => some i
  | .header _ =>
    match s.issue p with
    | .next t =>
      match ({ t with focus := some p } : State).gate with
      | .run i _ => some i
      | _ => none
    | _ => none
  | _ => none

/-- What a context does without holding the engine: asking for a word of its code, and beginning an MMAG's gather. -/
def State.besideEngine (s : State) (k : Nat) : Bool :=
  match ({ s with focus := some (.mtx k) } : State).gate, s.nextInstr (.mtx k) with
  | .ask _ _, _ => true
  | _, some (.mmag _) => (s.wg? k).any (fun w => w.mtx.latch.isNone)
  | _, _ => false

/-- The turn of a core's matrix engine: of its contexts that have an instruction ready the one that issued least recently
(15_matrix R297). -/
def State.engineTurn (s : State) (core : Nat) : State :=
  let turns := fun (j : Nat) => ((s.wg? (core * 4 + j)).map (fun w => w.mtx.seq.turns (.mtx (core * 4 + j)))).getD []
  let beside := (List.range 4).filter (fun j => s.besideEngine (core * 4 + j))
  let t : State :=
    if s.cycle (core / 144) < (s.engineAt core).busy then s
    else
      match (s.engineAt core).order.find? (fun j => !beside.contains j && !(turns j).isEmpty && s.tryAll (turns j)) with
      | none => s
      | some j =>
        let u := s.engineTaken core j (((s.nextInstr (.mtx (core * 4 + j))).map Instr.occupies).getD 1)
        { u with agenda := turns j ++ u.agenda }
  { t with agenda := (beside.map turns).flatten ++ t.agenda }

/-- One turn. -/
def State.turn (s : State) (t : Turn) : Result :=
  match t with
  | .run p => s.issue p
  | .slots core n issued => .next (s.slotTurn core n issued)
  | .engine core => .next (s.engineTurn core)
  | .happen i => exec i s
  | .due d => s.happens d

/-! ### What may happen when nobody has said what does (log entry 1) -/

/-- The lines of a core that a card or a saved unit needs fit cores; some of those that fit, from a free start. -/
def State.someCores (s : State) (n : Nat) (fit : Nat → Bool) : List Nat :=
  let l := (List.range 24).filter fit
  let r := (l.rotateLeft (s.pick (l.length + 1))).take n
  l.filter (fun c => r.contains c)

/-- Cores for the next admission of a cluster. -/
def State.admissionCores (s : State) (cluster : Nat) : List Nat :=
  match s.sched.saved.find? (fun u => u.cluster == cluster && u.passed) with
  | some u =>
    match u.wgs with
    | [v] =>
      if v.wg.members == 1 then s.someCores 1 (fun c => s.isReady (cluster * 24 + c) && s.fits (cluster * 24 + c) v.wg.nquads v.wg.slines)
      else [coreOf v.place]
    | vs => vs.map (fun v => coreOf v.place)
  | none =>
    match s.headCard cluster with
    | none => []
    | some (_, e, _) =>
      match e.card with
      | none | some .unreadable => []
      | some (.card c) => s.someCores (cardMembers c) (fun x =>
          s.isReady (cluster * 24 + x) && s.fits (cluster * 24 + x) (cardQuads c) (bits (cd c 4) 20 7))

/-- The events of an operation in flight. -/
def Flight.events (f : Flight) (id : Nat) : List Due :=
  let parts := (f.parts.map (fun p => [Due.homeAccessPerform id p.1, .storeAcknowledgement id p.1, .remoteTimeoutExpiry id p.1])).flatten
  let lines := match f.job with
    | .copy c =>
      if c.kind == .cpmc then (c.gens.map (fun g => (List.range c.nl).map (fun l => Due.multicastDelivery id g.1 l))).flatten
      else c.todo.map (fun l => Due.tileLineWrite id l)
    | .acst _ _ todo _ => todo.map (fun l => Due.acstLineWrite id l)
    | _ => []
  parts ++ lines ++ [.loadDataReturn id, .waitvReadReturn id, .stnNameWrite id, .tileReadComplete id, .copyPerformed id,
    .laneCopyBatchComplete id, .matrixOpComplete id]

/-- The events of a workgroup. -/
def Wg.events (w : Wg) (k : Nat) : List Due :=
  let quad := fun (q : Nat) => [Due.impreciseReportDelivery k q, .exitComplete k q, .postRingSpace k q, .tableChangeDrained k q,
    .q5OperationPerformed k q, .itstatWaitComplete k q, .hfreePerformed k q]
  (w.quads.map (fun e => quad e.1)).flatten ++ [.handlerEntry k, .mmagGatherEnd k] ++ engines.map (fun g => .engineStopAck k g) ++
    [.terminationComplete w.unit, .watchdogExpiry w.unit, .swapOutOnWait w.unit, .swapSlotRetest w.unit, .preemptionSave w.unit]

/-- The events of the base dies, the fabric and the itinerary engine. -/
def State.engineEvents (s : State) : List Due :=
  (s.tab.reqs.map (fun e => [Due.mapxAtBaseDie e.1 (s.pick (2 ^ 17)), .migxAtBaseDie e.1 (s.pick (2 ^ 17))])).flatten ++
    (s.tab.migs.map (fun e => [Due.migrationLineCopy (e.1 / 4) (e.1 % 4), .migrationSwitch (e.1 / 4) (e.1 % 4)])).flatten ++
    (s.host.scrub.map (fun e => Due.scrubWriteBack e.1)) ++
    ((List.range s.fab.hold.length).map (fun n => Due.orderedPacketForward n)) ++
    ((List.range s.fab.resend.length).map (fun n => Due.holdResend n)) ++
    (s.itin.unanswered.map (fun o => Due.remoteTimeoutExpiry o.op 0)) ++
    ((s.fab.links.map (fun l => ((l.2.inbox.map (·.channel)).eraseDups).map (fun c => Due.fabricHop l.1 c))).flatten) ++
    (s.itin.open.map (fun e => Due.itineraryEntryClosed e.1)) ++ [.itineraryEntryStart]

/-- Every event of the module's own that may be due, then a tick of each die. One that is not due changes nothing. -/
def State.candidates (s : State) : List Turn :=
  let ops := (s.flights.map (fun e => e.2.events e.1)).flatten
  let wgs := (s.wgs.map (fun e => e.2.events e.1)).flatten
  let wakes := (s.sched.saved.map (fun u => if u.ended.isSome then [Due.terminationComplete u.unit, .watchdogExpiry u.unit]
    else [.wakeTest u.unit])).flatten
  let joins := (s.sched.joins.take 1).map (fun _ => Due.joinDecrement 0)
  let admissions := ((List.range 24).filter (fun c => (s.headCard c).isSome || s.sched.saved.any (fun u => u.cluster == c && u.passed))).map
    (fun c => Due.cardAdmission c (s.admissionCores c))
  let ticks := (List.range Config.dies).map (fun d => Due.arithmeticClockTick d)
  let crossbars := (List.range Config.dies).map (fun d => Due.crossbarCycle d (s.pick 192) (Config.freeNat (s.free + 1)))
  (crossbars ++ ops ++ wgs ++ wakes ++ joins ++ admissions ++ s.engineEvents ++ ticks).map Turn.due

/-- One step. In thermal shutdown nothing happens but a reset (21_host_security R377). -/
def State.advance (s : State) : Result :=
  match s.agenda with
  | .happen .deviceReset :: rest => exec .deviceReset { s with agenda := rest }
  | t :: rest => if s.host.shut then .fault .thermalShutdown else { s with agenda := rest }.turn t
  | [] =>
    if s.host.shut then .fault .thermalShutdown
    else
      match s.candidates with
      | t :: rest => { s.drawn with agenda := rest }.turn t
      | [] => .next s

/-! ### Where a program's next word is (log entry 14) -/

/-- The route of the words of `withFetchWord`: domain 0, region 0, extent 0, offset 0. -/
def progRoute : W64 := mkRoute 0 0 0 0 0

/-- The place of the instruction: the second word of a clause of one or two instruction words. -/
def progCl (cls : Nat) : Cl := ⟨progRoute, 1, 2, cls, none⟩

/-- A workgroup of tenant 0 with one quad, and the sequencer started that runs the class, whose next word is at the place of
the instruction. -/
def progWg (s : State) (cls : Nat) : Wg :=
  let w := Wg.fresh progRoute [progRoute.toNat, 0, 0, 0, 1, 0, 0, 0] 0 s.nextId (s.nextId + 1) 0 1 none
  let q := { Quad.fresh progRoute 0 with cl := progCl cls, entered := none, sup := cls == 3 }
  let x := { Seq.begin progRoute 0 with cl := progCl cls, entered := none }
  { w with
    quads := [(0, q)]
    mtx := if cls = 4 then { w.mtx with seq := x } else w.mtx
    cpy := if cls = 5 then { w.cpy with seq := x } else w.cpy }

/-- The party that runs a class. -/
def progParty (cls : Nat) : Party := if cls < 4 then .quad 0 0 else if cls = 4 then .mtx 0 else .cpy 0

/-- Tenant 0's domain 0 is stack 0, its region 0 there has every right and one extent, which is frame 0. -/
def Tables.forProgram (t : Tables) : Tables :=
  { t with
    domains := Tab.set 0 t.domains 0 0x1F
    regions := Tab.set (0, 0) t.regions 0 (0x1000001F0, 0)
    extents := Tab.set 0 t.extents 0 (mkExtent 0)
    pools := t.pools.del 0
    seals := t.seals.del 0
    fills := t.fills.del 0 }

/-- The state with an instruction's words, given as one number with the first word lowest, where the next step fetches. -/
def State.placed (s : State) (w : Nat) : State :=
  let cls := match opClasses (w / 2 ^ 24 % 256) with
    | c :: _ => classNo c
    | [] => 0
  { s with
    mem := s.mem.writeN (Memory.key 0 4) 8 (w % 2 ^ 64)
    cache := s.cache.del 0
    poison := s.poison.del 0
    tab := s.tab.forProgram
    host := { s.host with shut := false }
    wgs := s.wgs.put 0 (progWg s cls)
    nextId := s.nextId + 2
    agenda := .run (progParty cls) :: s.agenda }

end Sys2Proof.Machine
end

