-- ==== Sys2Proof/Safety.lean ====
section
/-!
DEFINITION. What counts as a safe state, and the terms in which claims say what changed and what did not.
-/
namespace Sys2Proof
namespace Machine

/-- The invariant of the module: memory is in its canonical form, so equal memories are equal data. -/
def State.Inv (s : State) : Prop := s.mem.wf = true

/-- Each table of the state lists a key once, in rising order: workgroups by slot, operations in flight by name, all of them
below the next name, and the quads of every workgroup, resident or saved. -/
structure State.Keyed (s : State) : Prop where
  wgs : (s.wgs.map (·.1)).Pairwise (· < ·)
  flights : (s.flights.map (·.1)).Pairwise (· < ·)
  fresh : ∀ e ∈ s.flights, e.1 < s.nextId
  quads : ∀ e ∈ s.wgs, (e.2.quads.map (·.1)).Pairwise (· < ·)
  saved : ∀ u ∈ s.sched.saved, ∀ v ∈ u.wgs, (v.wg.quads.map (·.1)).Pairwise (· < ·)

/-- What the host sets stays within its bounds: FTIMEOUT from 2^16 to 2^30 cycles (17_fabric R334), an arithmetic clock of
400 MHz or more (21_host_security R377), a crossbar clock of 1.4 GHz or more (01_device R25), and no more error records than the ring holds (R369). -/
structure State.Limits (s : State) : Prop where
  ftimeout : ∀ tenant, 2 ^ 16 ≤ s.ftimeout tenant ∧ s.ftimeout tenant ≤ 2 ^ 30
  clock : ∀ die, 400 ≤ s.clock die .arithmetic ∧ 1400 ≤ s.clock die .crossbar
  ring : s.host.ringUsed ≤ s.host.ringSize

/-- Quad `q` of slot `k` has the turn, and stands as `x`. -/
structure State.HasTurn (s : State) (k q : Nat) (x : Quad) : Prop where
  focus : s.focus = some (.quad k q)
  quad : s.quad? k q = some x

/-- `t` is `s` but for one thing: quad `q` of slot `k` has become `y`. Every other quad, the rest of every workgroup, and
the rest of the module, memory included, are as they were. -/
structure QuadBecomes (s t : State) (k q : Nat) (y : Quad) : Prop where
  quad : t.quad? k q = some y
  quads : ∀ k' q', k' ≠ k ∨ q' ≠ q → t.quad? k' q' = s.quad? k' q'
  wg : ∀ k' w, s.wg? k' = some w → ∃ v, t.wg? k' = some v ∧ { v with quads := w.quads } = w
  rest : { t with wgs := s.wgs } = s

/-- The registers of `y` are those of `x`, except that register `d` of each lane in `ls` holds `f lane`. -/
structure WritesReg (x y : Quad) (ls : List Nat) (d : Nat) (f : Nat → Word) : Prop where
  written : ∀ l, l ∈ ls → y.reg l d = f l
  others : ∀ l n, ¬ (l ∈ ls ∧ x.phys n = x.phys d) → y.reg l n = x.reg l n

/-- The registers of `y` are those of `x`, except that the pair `d` of each lane in `ls` holds `f lane`. -/
structure WritesPair (x y : Quad) (ls : List Nat) (d : Nat) (f : Nat → W64) : Prop where
  written : ∀ l, l ∈ ls → y.pair l d = f l
  others : ∀ l n, ¬ (l ∈ ls ∧ (x.phys n = x.phys d ∨ x.phys n = x.phys (d + 1))) → y.reg l n = x.reg l n

/-- The registers of `y` are those of `x`, except that the group of `c` registers at `d` of each lane in `ls` holds the
low `32 * c` bits of `f lane`, its lowest word in register `d`. -/
structure WritesGroup (x y : Quad) (ls : List Nat) (d c : Nat) (f : Nat → Nat) : Prop where
  written : ∀ l, l ∈ ls → y.group l d c = f l % 2 ^ (32 * c)
  others : ∀ l n, ¬ (l ∈ ls ∧ ∃ i, i < c ∧ x.phys n = x.phys (d + i)) → y.reg l n = x.reg l n

/-- The predicates of `y` are those of `x`, except that predicate `d` of each lane in `ls` is `f lane`. -/
structure WritesPred (x y : Quad) (ls : List Nat) (d : Nat) (f : Nat → Bool) : Prop where
  written : ∀ l, l ∈ ls → y.pred l d = f l
  others : ∀ l n, n < 24 → ¬ (l ∈ ls ∧ n = d) → y.pred l n = x.pred l n

/-- `y` is `x` with other registers, its place moved past an instruction of `n` words, and out of any wait. -/
def AdvancesRegs (x y : Quad) (n : Nat) : Prop := y = { x with regs := y.regs, cl := x.cl.next n, await := none, got := [] }

/-- The same, with predicates and flags also open. -/
def AdvancesFlags (x y : Quad) (n : Nat) : Prop :=
  y = { x with regs := y.regs, preds := y.preds, fpstat := y.fpstat, cl := x.cl.next n, await := none, got := [] }

/-- Quad `q` of slot `k`, whose workgroup is `w`, has the turn, and stands as `x`. -/
structure State.Issues (s : State) (k q : Nat) (w : Wg) (x : Quad) : Prop where
  focus : s.focus = some (.quad k q)
  wg : s.wg? k = some w
  quad : w.quads.find q = some x

/-- `t` is `s` but for one thing: the workgroup of slot `k` has become `v`. -/
structure WgBecomes (s t : State) (k : Nat) (v : Wg) : Prop where
  wg : t.wg? k = some v
  wgs : ∀ k', k' ≠ k → t.wg? k' = s.wg? k'
  rest : { t with wgs := s.wgs } = s

/-- The quads of `w` with quad `q` past an instruction of one word. -/
def Wg.passing (w : Wg) (q : Nat) : Tab Quad := w.quads.upd q (fun x => { x with cl := x.cl.next 1, await := none, got := [] })

/-- `y` is `x` with its place moved past an instruction of one word, and out of any wait. -/
def Passes (x y : Quad) : Prop := y = { x with cl := x.cl.next 1, await := none, got := [] }

/-- Quad `q` of slot `k`, which stands as `x`, stays at its instruction in the wait `what`; nothing else changes. -/
def Waits (s t : State) (k q : Nat) (x : Quad) (what : Wait) : Prop :=
  ∃ y, QuadBecomes s t k q y ∧ y = { x with cl := x.cl.waiting what, await := y.await } ∧ y.await.any (fun a => a.what == what) = true

/-- The word fails a check of R46 but the supervisor test, for a party that runs the classes `runs`. -/
def HeaderFails (runs : List Nat) (h : Word) : Prop :=
  let n := h.toNat
  n / 2 ^ 28 = 0 ∨ 6 ≤ n / 2 ^ 25 % 8 ∨ n % 32 ≠ 0 ∨ (h.getLsbD 24 = false ∧ n / 2 ^ 20 % 16 ≠ 0) ∨ (h.getLsbD 11 = false ∧ n / 32 % 64 ≠ 0) ∨
    (h.getLsbD 11 = true ∧ n / 2 ^ 25 % 8 < 4) ∨ (4 ≤ n / 2 ^ 25 % 8 ∧ (n / 2 ^ 16 % 16 ≠ 15 ∨ n / 2 ^ 12 % 16 ≠ 15)) ∨ n / 2 ^ 25 % 8 ∉ runs

/-- Instruction `i` of the quad, which stands as `x`, transfers control to `target` and leaves the quad as `y` in all else
(03_encoding R50, R387): past a header there; with BR_TARGET where no header of a quad is there, and with the refusal
of the fetch where it is refused, both with TPC at the instruction; and asking for the word first, where it is outside the module. -/
structure State.Transfers (s : State) (k q : Nat) (w : Wg) (x : Quad) (i : Instr) (target : W64) (y : Quad) : Prop where
  goes : ∀ h, s.targetAt w.tenant x.got [0, 1, 2, 3] target = .header h → ∃ t, exec i s = .next t ∧
    QuadBecomes s t k q { y with cl := Cl.enter target h, await := none, got := [] }
  bad : s.targetAt w.tenant x.got [0, 1, 2, 3] target = .bad →
    exec i s = .next (s.raise k q (whole cBR_TARGET x.cl.pc x.mask) x.cl x.sup false)
  refused : ∀ r, s.targetAt w.tenant x.got [0, 1, 2, 3] target = .refused r →
    exec i s = .next (s.raise k q ⟨r.cause, r.level, 0, r.label, target, x.mask, x.cl.pc, true⟩ x.cl x.sup false)
  asks : s.targetAt w.tenant x.got [0, 1, 2, 3] target = .ask →
    exec i s = .next (s.askFor (.quad k q) .fetch target 4 x.cl x.sup x.mask)

/-- Instruction `i` of the quad, which stands as `x`, raises `cause` precisely, for the quad as a whole. -/
def State.Raises (s : State) (k q : Nat) (x : Quad) (i : Instr) (cause : Nat) : Prop :=
  exec i s = .next (s.raise k q (whole cause x.cl.pc x.mask) x.cl x.sup false)

/-- `t` is `s` but for quad `q` of slot `k`, which goes past its instruction with `v` in register `d` of its active lanes. -/
def GivesStatus (s t : State) (k q : Nat) (x : Quad) (d : BitVec 6) (v : Nat) : Prop :=
  ∃ y, QuadBecomes s t k q y ∧ AdvancesRegs x y 1 ∧ WritesReg x y x.active d.toNat (fun _ => BitVec.ofNat 32 v)

/-- How instruction `i` of the quad, which stands as `x`, comes by the image of `n` dwords at the route `r` of its lowest active lane, and `done` says what it then
does with them: a load under the tenant (09_routes R203, R211; 05_traps R389). An unaligned route raises ALIGN; an image whose words have not all come is asked for,
unless the tenant's level 0 refuses it, which is precise and of the quad as a whole, or its route is a host half of the bridge's own refusal, and the instruction goes
on when its words have come. -/
structure State.ReadsImage (s : State) (k q : Nat) (w : Wg) (x : Quad) (i : Instr) (r : W64) (n : Nat) (done : List Nat → Prop) : Prop where
  unaligned : r.toNat % (8 * n) ≠ 0 → exec i s = .next (s.raise k q ⟨cALIGN, 15, 0, 0, r, maskOf [x.lowest], x.cl.pc, false⟩ x.cl x.sup false)
  came : r.toNat % (8 * n) = 0 → ∀ ds : List Nat, ds.length = n →
    (∀ j, j < n → ∃ lo hi, x.got.find? (fun e => e.1 == r + BitVec.ofNat 64 (8 * j)) = some lo ∧
      x.got.find? (fun e => e.1 == r + BitVec.ofNat 64 (8 * j + 4)) = some hi ∧ ds.getD j 0 = lo.2.toNat + 2 ^ 32 * hi.2.toNat) → done ds
  host : r.toNat % (8 * n) = 0 → hostBad r = true → x.got.find? (fun e => e.1 == r) = none →
    exec i s = .next (s.raise k q ⟨cHOST_XLATE, 5, 0, 0, r, maskOf [x.lowest], x.cl.pc, false⟩ x.cl x.sup false)
  barred : r.toNat % (8 * n) = 0 → hostBad r = false → x.got.find? (fun e => e.1 == r) = none →
    ∀ e : Refuse, s.level0 w.tenant .load none r = .error e →
    exec i s = .next (s.raise k q ⟨e.cause, e.level, 0, e.label, r, if e.level = 0 then x.mask else maskOf [x.lowest], x.cl.pc, false⟩ x.cl x.sup false)
  asks : r.toNat % (8 * n) = 0 → hostBad r = false → x.got.find? (fun e => e.1 == r) = none →
    ∀ o, s.level0 w.tenant .load none r = .ok o →
    exec i s = .next (s.askFor (.quad k q) .load r (8 * n) x.cl x.sup (maskOf [x.lowest]))

end Machine
end Sys2Proof
end

