-- ==== Sys2Proof/Safety/Alu.lean ====
section
/-!
DEFINITION. The tables of 07_quad_compute as the manual prints them: each constructor with its F, written over integers
where the manual does. Claims about the quad's arithmetic are stated by them.
-/
namespace Sys2Proof
namespace Machine

/-- Byte `i` of a word, read as unsigned. -/
def byteU (x : Word) (i : Nat) : Int := (x.toNat / 2 ^ (8 * i) % 2 ^ 8 : Nat)

/-- Byte `i` of a word, read as two's complement. -/
def byteS (x : Word) (i : Nat) : Int := signed 8 (x.toNat / 2 ^ (8 * i))

/-- The sum of d and of four products of bytes of a and b (Table 7-1). -/
def dotF (f : Word → Nat → Int) (a b d : Word) : Word :=
  BitVec.ofInt 32 ((d.toNat : Int) + f a 0 * f b 0 + f a 1 * f b 1 + f a 2 * f b 2 + f a 3 * f b 3)

/-- BFX (R148). -/
def bfxF (a b : Word) : Word :=
  let pos : Nat := b.toNat % 32
  let w : Nat := min (b.toNat / 32 % 64) 32
  BitVec.ofNat 32 (a.toNat / 2 ^ pos % 2 ^ w)

/-- BFI (R148). -/
def bfiF (a b d : Word) : Word :=
  let pos : Nat := b.toNat % 32
  let w : Nat := min (b.toNat / 32 % 64) 32
  let m := BitVec.ofNat 32 ((2 ^ w - 1) * 2 ^ pos)
  (d &&& ~~~m) ||| (BitVec.ofNat 32 (a.toNat * 2 ^ pos) &&& m)

/-- Table 7-1, 0x01 to 0x0C: F of a, b and the old destination. -/
def table71Lo : List ((RArgs → Instr) × (Word → Word → Word → Word)) :=
  [(.iadd, fun a b _ => BitVec.ofNat 32 (a.toNat + b.toNat)),
   (.isub, fun a b _ => BitVec.ofInt 32 ((a.toNat : Int) - (b.toNat : Int))),
   (.imul, fun a b _ => BitVec.ofNat 32 (a.toNat * b.toNat)),
   (.imulh, fun a b _ => BitVec.ofInt 32 (a.toInt * b.toInt / (2 ^ 32 : Int))),
   (.imulhu, fun a b _ => BitVec.ofNat 32 (a.toNat * b.toNat / (2 ^ 32 : Nat))),
   (.imad, fun a b d => BitVec.ofNat 32 (a.toNat * b.toNat + d.toNat)),
   (.idp4, dotF byteS),
   (.idp4u, dotF byteU),
   (.iand, fun a b _ => a &&& b),
   (.ior, fun a b _ => a ||| b),
   (.ixor, fun a b _ => a ^^^ b),
   (.andn, fun a b _ => a &&& ~~~b)]

/-- Table 7-1, 0x0D to 0x18 and 0x1A. -/
def table71Hi : List ((RArgs → Instr) × (Word → Word → Word → Word)) :=
  [(.shl, fun a b _ => BitVec.ofNat 32 (a.toNat * 2 ^ (b.toNat % 32))),
   (.shr, fun a b _ => BitVec.ofNat 32 (a.toNat / 2 ^ (b.toNat % 32))),
   (.sar, fun a b _ => BitVec.ofInt 32 (a.toInt / (2 : Int) ^ (b.toNat % 32))),
   (.imin, fun a b _ => BitVec.ofInt 32 (min a.toInt b.toInt)),
   (.imax, fun a b _ => BitVec.ofInt 32 (max a.toInt b.toInt)),
   (.umin, fun a b _ => BitVec.ofNat 32 (min a.toNat b.toNat)),
   (.umax, fun a b _ => BitVec.ofNat 32 (max a.toNat b.toNat)),
   (.popc, fun a _ _ => BitVec.ofNat 32 ((List.range 32).countP (fun i => a.getLsbD i))),
   (.clz, fun a _ _ => BitVec.ofNat 32 (((List.range 33).find? (fun n => decide (2 ^ 32 ≤ a.toNat * 2 ^ (n + 1)))).getD 32)),
   (.brev, fun a _ _ => a.reverse),
   (.bfx, fun a b _ => bfxF a b),
   (.bfi, bfiF),
   (.mov, fun _ b _ => b)]

/-- Table 7-1 but for SEL. -/
def table71 : List ((RArgs → Instr) × (Word → Word → Word → Word)) := table71Lo ++ table71Hi

/-- Table 7-2: F of the pair a and the pair b, or the word b (`pairB` false), and the old destination. -/
def table72 : List ((RArgs → Instr) × Bool × (Nat → Nat → Nat → W64)) :=
  [(.add64, true, fun a b _ => BitVec.ofNat 64 (a + b)),
   (.sub64, true, fun a b _ => BitVec.ofInt 64 ((a : Int) - b)),
   (.shl64, false, fun a b _ => BitVec.ofNat 64 (a * 2 ^ (b % 64))),
   (.shr64, false, fun a b _ => BitVec.ofNat 64 (a / 2 ^ (b % 64)))]

/-- Table 7-3 but for ADD64I: F of a and the immediate, sign-extended. -/
def table73 : List ((IArgs → Instr) × (Word → Word → Word)) :=
  [(.iaddi, fun a i => BitVec.ofNat 32 (a.toNat + i.toNat)),
   (.andi, fun a i => a &&& i),
   (.ori, fun a i => a ||| i),
   (.xori, fun a i => a ^^^ i),
   (.shli, fun a i => BitVec.ofNat 32 (a.toNat * 2 ^ (i.toNat % 32))),
   (.shri, fun a i => BitVec.ofNat 32 (a.toNat / 2 ^ (i.toNat % 32))),
   (.sari, fun a i => BitVec.ofInt 32 (a.toInt / 2 ^ (i.toNat % 32))),
   (.movi, fun _ i => i)]

/-- The comparisons of R151 by CC code, over the signed and the unsigned readings. -/
def ccTable (cc : Nat) (s t : Int) (u v : Nat) : Bool :=
  match cc with
  | 0 => decide (u = v)
  | 1 => decide (u ≠ v)
  | 2 => decide (s < t)
  | 3 => decide (s ≤ t)
  | 4 => decide (t < s)
  | 5 => decide (t ≤ s)
  | 6 => decide (u < v)
  | _ => decide (v ≤ u)

/-- The four combinations of a condition with the old predicate (R151). -/
def cmbTable (cmb : Nat) (old c : Bool) : Bool :=
  match cmb with
  | 0 => c
  | 1 => old && c
  | 2 => old || c
  | _ => (old || c) && !(old && c)

/-- Table 7-4 but for PTOV: the new predicate, of the lane's predicates A and B and of its register A. -/
def table74 : List ((RArgs → Instr) × (Bool → Bool → Word → Bool)) :=
  [(.pand, fun a b _ => a && b),
   (.por, fun a b _ => a || b),
   (.pxor, fun a b _ => a != b),
   (.pnot, fun a _ _ => !a),
   (.vtop, fun _ _ v => decide (v ≠ 0))]

/-- The instructions of Tables 7-6 and 7-8, R158 (FSQRT) and R160 whose F gives one register and flags from a, b and d: the
exact operation and its one rounding are those of 06_numbers. -/
def floatTable : List ((RArgs → Instr) × (Nat → Nat → Nat → Nat × Nat)) :=
  let each := fun (f : Nat → Nat → Nat → Nat × Nat) (a b d : Nat) =>
    let lo := f (a % 2 ^ 16) (b % 2 ^ 16) (d % 2 ^ 16)
    let hi := f (a / 2 ^ 16) (b / 2 ^ 16) (d / 2 ^ 16)
    (lo.1 + hi.1 * 2 ^ 16, lo.2 ||| hi.2)
  let round := fun (f : Fmt) (x : Num × Nat) => ((f.convert 0 false x.1).1, (f.convert 0 false x.1).2 ||| x.2)
  let mad := fun (f : Fmt) (a b d : Nat) =>
    let p := (f.value a).mul (f.value b)
    round f ((p.1.add (f.value d)).1, (p.1.add (f.value d)).2 ||| p.2)
  let two := fun (f : Fmt) (a b : Nat) =>
    let x := f.convert 0 true (F32.value a)
    let y := f.convert 0 true (F32.value b)
    (x.1 + y.1 * 2 ^ 16, x.2 ||| y.2)
  [(.fadd, fun a b _ => round F32 ((F32.value a).add (F32.value b))),
   (.fsub, fun a b _ => round F32 ((F32.value a).add (F32.value b).neg)),
   (.fmul, fun a b _ => round F32 ((F32.value a).mul (F32.value b))),
   (.ffma, mad F32),
   (.fmin, fun a b _ => fminmax false a b),
   (.fmax, fun a b _ => fminmax true a b),
   (.fsqrt, fun a _ _ => fsqrt a),
   (.fscale, fun a b _ => fscale a (signed 32 b)),
   (.hadd2, each (fun a b _ => round F16 ((F16.value a).add (F16.value b)))),
   (.hmul2, each (fun a b _ => round F16 ((F16.value a).mul (F16.value b)))),
   (.hfma2, each (mad F16)),
   (.badd2, each (fun a b _ => round BF16 ((BF16.value a).add (BF16.value b)))),
   (.bmul2, each (fun a b _ => round BF16 ((BF16.value a).mul (BF16.value b)))),
   (.bfma2, each (mad BF16)),
   (.packb2, fun a b _ => two BF16 a b),
   (.packh2, fun a b _ => two F16 a b)]

/-- FABS and FNEG (R156): a NaN gives the canonical NaN, with NV when it signals; any other value changes its sign only. -/
def signTable : List ((RArgs → Instr) × (Nat → Nat)) :=
  [(.fabs, fun a => a % 2 ^ 31),
   (.fneg, fun a => if a < 2 ^ 31 then a + 2 ^ 31 else a - 2 ^ 31)]

/-- The packers of Table 7-8 with a group as source: the format, and the number of elements and of destination registers. -/
def packTable : List ((RArgs → Instr) × Fmt × Nat × Nat) :=
  [(.pk4e4m3, E4M3, 4, 1), (.pk4e5m2, E5M2, 4, 1), (.pk8e2m1, E2M1, 8, 1), (.pk16e2m3, E2M3, 16, 3), (.pk16e3m2, E3M2, 16, 3)]

/-- The unpackers of Table 7-8: the format, and the number of source registers and of elements. -/
def unpackTable : List ((RArgs → Instr) × Fmt × Nat × Nat) :=
  [(.unpkb2, BF16, 1, 2), (.unpkh2, F16, 1, 2), (.upk4e4m3, E4M3, 1, 4), (.upk4e5m2, E5M2, 1, 4), (.upk8e2m1, E2M1, 1, 8),
   (.upk16e2m3, E2M3, 3, 16), (.upk16e3m2, E3M2, 3, 16)]

/-! ### Exact values and rounding (06_numbers R127, R135 to R137) -/

/-- A finite value as a rational; 0 stands for the others. -/
def Num.rat (x : Num) : ℚ :=
  match x with
  | .fin neg m e => (if neg then -1 else 1) * m * (2 : ℚ) ^ e
  | _ => 0

/-- The value of a magnitude pattern, the exponent range being unbounded above (R127, R135). -/
def Fmt.mag (f : Fmt) (g : Nat) : ℚ :=
  if g < 2 ^ f.m then g * (2 : ℚ) ^ (1 - (f.bias : ℤ) - f.m)
  else (2 ^ f.m + g % 2 ^ f.m : Nat) * (2 : ℚ) ^ ((g / 2 ^ f.m : Nat) - (f.bias : ℤ) - f.m)

/-- Does `v > 0`, with the sign `neg`, round to the magnitude `g` (R135)? -/
def Fmt.Rounds (f : Fmt) (mode : Nat) (neg : Bool) (v : ℚ) (g : Nat) : Prop :=
  let up := v ≤ f.mag g ∧ (0 < g → f.mag (g - 1) < v)
  let down := f.mag g ≤ v ∧ v < f.mag (g + 1)
  match mode with
  | 0 => 2 * v ≤ f.mag g + f.mag (g + 1) ∧ (0 < g → f.mag (g - 1) + f.mag g ≤ 2 * v) ∧
      ((2 * v = f.mag g + f.mag (g + 1) ∨ 0 < g ∧ f.mag (g - 1) + f.mag g = 2 * v) → g % 2 = 0)
  | 1 => down
  | 2 => if neg then up else down
  | _ => if neg then down else up

/-- Is a result tiny: below the smallest normal value after rounding as if the exponent range were unbounded below (R137)? -/
def Fmt.Tiny (f : Fmt) (mode : Nat) (neg : Bool) (v : ℚ) : Prop :=
  let least := (2 : ℚ) ^ (1 - (f.bias : ℤ))
  let step := (2 : ℚ) ^ (-(f.bias : ℤ) - f.m)
  match mode with
  | 0 => v < least - step / 2
  | 1 => v < least
  | 2 => if neg then v ≤ least - step else v < least
  | _ => if neg then v < least else v ≤ least - step

/-- The result on overflow (Table 6-6). -/
def Fmt.overflow (f : Fmt) (mode : Nat) (sat neg : Bool) : Nat :=
  if f.inf && !sat && (mode == 0 || (mode == 2 && neg) || (mode == 3 && !neg)) then f.pack neg (f.maxMag + 1)
  else f.pack neg f.maxMag

/-- Is `r` the pattern and the flags that `v > 0`, with the sign `neg`, rounds to (R135 to R137)? -/
def Fmt.RoundsWith (f : Fmt) (mode : Nat) (sat neg : Bool) (v : ℚ) (r : Nat × Nat) : Prop :=
  ∃ g, f.Rounds mode neg v g ∧
    (f.maxMag < g → r = (f.overflow mode sat neg, fOF + fNX)) ∧
    (g ≤ f.maxMag → r.1 = f.pack neg g ∧ (f.mag g = v → r.2 = 0) ∧ (f.mag g ≠ v → f.Tiny mode neg v → r.2 = fUF + fNX) ∧
      (f.mag g ≠ v → ¬ f.Tiny mode neg v → r.2 = fNX))

/-- Does a value round to an integer by a mode (R135, R139, R159)? -/
def RoundsTo (mode : Nat) (v : ℚ) (z : ℤ) : Prop :=
  match mode with
  | 0 => |v - z| ≤ 1 / 2 ∧ (|v - z| = 1 / 2 → z % 2 = 0)
  | 1 => |(z : ℚ)| ≤ |v| ∧ |v| < |(z : ℚ)| + 1 ∧ 0 ≤ z * v
  | 2 => (z : ℚ) ≤ v ∧ v < z + 1
  | _ => (z : ℚ) - 1 < v ∧ v ≤ z

/-- The range of an integer type of `w` bits. -/
def intRange (w : Nat) (sgn : Bool) : Int × Int :=
  if sgn then (-(2 ^ (w - 1) : Nat), (2 ^ (w - 1) : Nat) - 1) else (0, (2 ^ w : Nat) - 1)

/-- An integer as it is written to a register by a conversion to a type of `w` bits: sign-extended for a signed type,
zero-extended for another (R161). -/
def intPat (w : Nat) (sgn : Bool) (z : Int) : Nat := wrap (if sgn then 32 else w) z

/-! ### The functions of Table 7-7 -/

/-- The F32 pattern of +∞. -/
def infF : Nat := 0x7F800000

/-- Of an F32 operand, `n` if its value is `2^n`, of either sign. -/
def powerOf (v : Nat) : Option Int :=
  match F32.value v with
  | .fin _ m e => if m = 2 ^ m.log2 then some (m.log2 + e) else none
  | _ => none

/-- The F32 pattern of `±2^n`, for `n` from −126 to 127. -/
def powerPat (neg : Bool) (n : Int) : Nat := F32.pack neg ((n + 127).toNat * 2 ^ 23)

/-- A NaN operand gives the canonical NaN, and NV when it signals (R141, R158); a zero, an infinity and a finite value give what
the function says. -/
def cases77 (zero inf : Bool → Nat × Nat) (fin : Option (Nat × Nat)) (v : Nat) : Option (Nat × Nat) :=
  match F32.value v with
  | .nan s => some (0x7FC00000, if s then fNV else 0)
  | .inf neg => some (inf neg)
  | .fin neg m _ => if m = 0 then some (zero neg) else fin

/-- Canonical NaN with NV. -/
def invalid : Nat × Nat := (0x7FC00000, fNV)

/-- Table 7-7: each instruction with the operands for which it names the result and the flags. -/
def table77 : List ((RArgs → Instr) × (Nat → Option (Nat × Nat))) :=
  [(.frcp, fun v => cases77 (fun neg => (F32.pack neg infF, fDZ)) (fun neg => (F32.pack neg 0, 0))
     ((powerOf v).bind (fun n => if -127 ≤ n ∧ n ≤ 126 then some (powerPat (bit v 31) (-n), 0) else none)) v),
   (.frsq, fun v => cases77 (fun neg => (F32.pack neg infF, fDZ)) (fun neg => if neg then invalid else (0, 0))
     (if bit v 31 then some invalid
      else (powerOf v).bind (fun n => if n % 2 = 0 then some (powerPat false (-(n / 2)), 0) else none)) v),
   (.fexp2, fun v => cases77 (fun _ => (0x3F800000, 0)) (fun neg => if neg then (0, 0) else (infF, 0))
     (if (F32.value v).rat.den = 1 then some (F32.round 0 false false 1 (F32.value v).rat.num) else none) v),
   (.flog2, fun v => cases77 (fun _ => (F32.pack true infF, fDZ)) (fun neg => if neg then invalid else (infF, 0))
     (if bit v 31 then some invalid else (powerOf v).map (fun n => F32.round 0 false (n < 0) n.natAbs 0)) v),
   (.ftanh, fun v => cases77 (fun neg => (F32.pack neg 0, 0)) (fun neg => (F32.pack neg 0x3F800000, 0)) none v)]

/-- The flags of any other result, by its pattern (R158); `exact` says whether the pattern's value is the result itself. -/
def flags77 (r : Nat) (exact : Bool) : Nat :=
  if r % 2 ^ 31 = infF then fOF + fNX else if r % 2 ^ 31 < 2 ^ 23 && !exact then fUF + fNX else fNX

/-- Is a pattern's value the exact result where Table 7-7 does not name it: `1/v` of a power of two below the normal values? -/
def exact77 (i : RArgs → Instr) (a : RArgs) (v r : Nat) : Bool :=
  i a == .frcp a && (F32.value v).rat * (F32.value r).rat == 1

/-- Is the value of pattern `p` within `k` ulp of `y` (R158)? The infinities count as ±2^128. -/
def WithinUlps (k p : Nat) (y : ℝ) : Prop :=
  |(if bit p 31 then -1 else 1) * ((F32.mag (p % 2 ^ 31) : ℚ) : ℝ) - y| ≤
    k * (2 : ℝ) ^ (max ⌊Real.logb 2 |y|⌋ (-126) - 23)

/-- Is `y` the exact result of the function of an instruction of Table 7-7 at `v`, with the bound in ulp? -/
def Exactly77 (i : RArgs → Instr) (a : RArgs) (v y : ℝ) (k : Nat) : Prop :=
  (i a = .frcp a ∧ y = 1 / v ∧ k = 1) ∨ (i a = .frsq a ∧ y = 1 / √v ∧ k = 1) ∨ (i a = .fexp2 a ∧ y = (2 : ℝ) ^ v ∧ k = 2) ∨
  (i a = .flog2 a ∧ y = Real.logb 2 v ∧ k = 2) ∨ (i a = .ftanh a ∧ y = Real.tanh v ∧ k = 2)

end Machine
end Sys2Proof
end

