-- ==== Sys2Proof/Safety/Memory.lean ====
section
/-!
DEFINITION. The terms in which claims say what an instruction that accesses memory issues: lane accesses grouped into line
accesses, entered as one operation of its quad (10_memory_ops R226, R230, R232).
-/
namespace Sys2Proof
namespace Machine

/-- The line accesses `ps` are those of the lane accesses `as`: every lane access is in one, and each one's accesses lie in one
line of one place, in a local route PL 0 and SELFPL being one. No two are of the same line of the same place (10_memory_ops R226,
R228, R232). -/
structure CoversLines (ps : Tab Part) (as : List Access) : Prop where
  every : ∀ a ∈ as, ∃ e ∈ ps, a ∈ e.2.accs
  only : ∀ e ∈ ps, ∀ a ∈ e.2.accs, a ∈ as
  oneLine : ∀ e ∈ ps, ∀ a ∈ e.2.accs, ∀ b ∈ e.2.accs, lineIn e.2.place a.addr = lineIn e.2.place b.addr
  distinct : ∀ e ∈ ps, ∀ f ∈ ps, e.1 ≠ f.1 → e.2.place = f.2.place →
    ∀ a ∈ e.2.accs, ∀ b ∈ f.2.accs, lineIn e.2.place a.addr ≠ lineIn f.2.place b.addr
  flying : ∀ e ∈ ps, e.2.st = .flying ∧ e.2.accs ≠ []

/-- Quad `q` of slot `k` has issued an operation in `t`, under the name that was the next one: its job, its lane accesses, and the
physical registers it will write. The quad goes on past `words` words; nothing else of the module has changed, memory
included. `la` is the window of a pending destination. -/
structure Entered (s t : State) (k q : Nat) (w : Wg) (x : Quad) (job : Job) (as : List Access) (dst size words : Nat)
    (la : Option Nat) (counted : Bool) : Prop where
  flight : ∃ f, t.flights.find s.nextId = some f ∧ f.uid = w.uid ∧ f.party = .quad k q ∧ f.job = job ∧ f.tenant = w.tenant ∧
    f.die = dieOf k ∧ f.pos = x.cl ∧ f.dst = x.phys dst ∧ f.size = size ∧ f.lanes = maskOf (as.map (·.key)) ∧
    f.faults = [] ∧ CoversLines f.parts as ∧
    ∃ y, t.quad? k q = some y ∧
      y = { x with
        cl := x.cl.next words, await := none, got := []
        uad := if counted then x.uad + (f.parts.filter (fun e => e.2.onDie)).length else x.uad
        uap := if counted then x.uap + (f.parts.filter (fun e => !e.2.onDie)).length else x.uap
        wins := match la with
          | some n => x.wins ++ [⟨s.nextId, (List.range size).map (fun j => x.phys (dst + j)), n⟩]
          | none => x.wins }
  others : ∀ id, id ≠ s.nextId → t.flights.find id = s.flights.find id
  quads : ∀ k' q', k' ≠ k ∨ q' ≠ q → t.quad? k' q' = s.quad? k' q'
  rest : { t with wgs := s.wgs, flights := s.flights, nextId := s.nextId } = s

/-- The place in memory of an access of a line whose first access is `a0` and lies at `l`. -/
def keyIn (l : Loc) (a0 a : W64) : Nat := l.key - a0.toNat % 128 + a.toNat % 128

/-- Room for an operation of at most `n` line accesses: a store-buffer entry for a store, and transaction entries of the quad
and of the core (R231, R233). -/
structure HasRoom (s : State) (k q : Nat) (w : Wg) (n : Nat) : Prop where
  buffer : s.entriesUsed w.uid (.quad k q) < 16
  quad : s.transUsed w.uid (.quad k q) + n ≤ 256
  core : (s.transOfCore (coreIx k)).eraseDups.length + n ≤ 4096

/-- A lane access that meets no fault at issue: aligned, allowed by level 0, and no host address with bits [62:57]. -/
def CleanAt (s : State) (w : Wg) (kind : AccKind) (scope : Option Nat) (a : Access) : Prop :=
  a.addr.toNat % a.size = 0 ∧ (∃ e, s.level0 w.tenant kind scope a.addr = .ok e) ∧ hostBad a.addr = false

/-- The loads of Table 10-2: bytes, registers, sign extension. -/
def loadTable : List ((MArgs → Instr) × Nat × Nat × Bool) :=
  [(.ld8, 1, 1, false), (.ld8s, 1, 1, true), (.ld16, 2, 1, false), (.ld16s, 2, 1, true), (.ld32, 4, 1, false), (.ld64, 8, 2, false),
   (.ld128, 16, 4, false)]

/-- The bytes that the accesses of a line, performed in order, leave at a memory key: those of the last one that covers it. -/
def lineByte (key : Access → Nat) (as : List Access) (b : Nat) : Option Byte :=
  (as.reverse.find? (fun a => key a ≤ b && b < key a + a.size)).map (fun a => BitVec.ofNat 8 (a.data / 2 ^ (8 * (b - key a))))

/-- The atomics of a line, performed one after the other: what memory then holds, and what each has read (Table 10-4). -/
def atomicRun (op : AtomicOp) (key : Access → Nat) (m : Memory) (as : List Access) : Memory × List Access :=
  match as with
  | [] => (m, [])
  | a :: rest =>
    let old := m.readN (key a) a.size
    let r := atomicRun op key (m.writeN (key a) a.size (op.apply a.size old a.data a.cmp)) rest
    (r.1, { a with got := old } :: r.2)

/-- The parts `ms` of a line access have been performed in `t`, with the accesses that `f` makes of each part's own. -/
def PerformedAs (s t : State) (ms : List (Nat × Nat)) (f : List Access → List Access) : Prop :=
  ∀ m ∈ ms, ∀ g p, s.part? m.1 m.2 = some (g, p) →
    ∃ g' q, t.part? m.1 m.2 = some (g', q) ∧ q.st = .performed ∧ q.accs = f p.accs

/-- Line access `j` of operation `id` has come to its home, a location that the levels accept, and may be performed there now, with the
parts `ms` of the quads of its gang, whose accesses are `a0 :: rest`: its line is intact and held under the region's own key, and no
migration copies it; no other route of its operation reaches it. -/
structure State.AtHome (s : State) (id j : Nat) (f : Flight) (p : Part) (l : Loc) (ms : List (Nat × Nat)) (a0 : Access)
    (rest : List Access) : Prop where
  part : s.part? id j = some (f, p)
  arrived : p.st = .arrived ∧ p.place = .dev
  parts : ms = s.membersOf f p ∧ ms.Nodup ∧ s.accsOf ms = a0 :: rest
  ready : s.mayAll ms = true ∧ s.bridgeMet f p = true ∧ s.isSaved f.uid = false
  plain : s.spoils f = false ∧ s.twins f p = [] ∧ f.job.ofCell = false
  free : ∀ m ∈ ms, ∀ g q, s.part? m.1 m.2 = some (g, q) → s.joinsHeld m.1 g q = false
  lanes : ∀ m ∈ ms, ∀ g q, s.part? m.1 m.2 = some (g, q) → (q.accs.map (·.key)).Pairwise (· < ·)
  clean : ∀ m ∈ ms, ∀ g q, s.part? m.1 m.2 = some (g, q) → g.faults = []
  found : s.lookup f.tenant f.job.kind a0.addr = .ok l
  intact : s.poisoned l.key = false ∧ l.dual = none ∧ s.veiled l.enc (l.key / 128 * 128) 128 = []
  wf : s.mem.wf = true
  inLine : ∀ a ∈ a0 :: rest, a.addr.toNat % 128 + a.size ≤ 128 ∧ l.key % 128 = a0.addr.toNat % 128

/-- The stores of Table 10-2: bytes, registers, job. -/
def storeTable : List ((MArgs → Instr) × Nat × Nat × Job) :=
  [(.st8, 1, 1, .store), (.st16, 2, 1, .store), (.st32, 4, 1, .store), (.st64, 8, 2, .store), (.st128, 16, 4, .store),
   (.sto, 4, 1, .sto)]

/-- Table 10-4: the atomics, what each does, and its registers. -/
def atomicTable : List ((AArgs → Instr) × AtomicOp × Nat) :=
  [(.axchg, .xchg, 1), (.acas, .cas, 1), (.aadd, .add, 1), (.amin, .min, 1), (.amax, .max, 1), (.aand, .and, 1), (.aor, .or, 1),
   (.axor, .xor, 1), (.afadd, .fadd, 1), (.axchg64, .xchg, 2), (.acas64, .cas, 2), (.aadd64, .add, 2)]

/-- The scratchpad forms: bytes, registers, job, and whether the destination is pending. -/
def scratchTable : List ((MArgs → Instr) × Nat × Nat × Job × Bool) :=
  [(.lds, 4, 1, .load 4 false none, true), (.lds128, 16, 4, .load 16 false none, true), (.sts, 4, 0, .store, false),
   (.sts128, 16, 0, .store, false), (.lset, 128, 0, .lset true, false), (.lclr, 128, 0, .lset false, false)]

/-- The lane copies: their bytes. -/
def laneCopyTable : List ((RArgs → Instr) × Nat) := [(.cpl4, 4), (.cpl8, 8), (.cpl16, 16)]

end Machine
end Sys2Proof
end

