-- ==== Sys2Proof/Safety/Engines.lean ====
section
/-!
DEFINITION. The terms in which claims say what the sequencers issue and what the matrix engine computes (14_copy, 15_matrix).
-/
namespace Sys2Proof
namespace Machine

/-- The party of sequencer number `p` of slot `k`: 64 the matrix, 65 the copy sequencer. -/
def seqParty (k p : Nat) : Party := if p = 64 then .mtx k else .cpy k

/-- The shared part of sequencer `p` of a workgroup. -/
def Wg.seqOf (w : Wg) (p : Nat) : Seq := if p = 64 then w.mtx.seq else w.cpy.seq

/-- The workgroup with the shared part of sequencer `p` replaced. -/
def Wg.withSeq (w : Wg) (p : Nat) (x : Seq) : Wg :=
  if p = 64 then { w with mtx := { w.mtx with seq := x } } else { w with cpy := { w.cpy with seq := x } }

/-- Sequencer `p` of slot `k`, whose workgroup is `w`, has the turn, and stands as `x`. -/
structure State.SeqIssues (s : State) (k p : Nat) (w : Wg) (x : Seq) : Prop where
  which : p = 64 ∨ p = 65
  focus : s.focus = some (seqParty k p)
  wg : s.wg? k = some w
  seq : w.seqOf p = x

/-- `y` is `x` with its place moved past an instruction of `n` words, and out of any wait. -/
def SeqPasses (x y : Seq) (n : Nat) : Prop := y = { x with cl := x.cl.next n, await := none, got := [] }

/-- Sequencer `p` of slot `k`, which stands as `x`, stays at its instruction in the wait `what`; nothing else changes. -/
def SeqWaits (s t : State) (k p : Nat) (w : Wg) (x : Seq) (what : Wait) : Prop :=
  ∃ y, WgBecomes s t k (w.withSeq p y) ∧ y = { x with cl := x.cl.waiting what, await := y.await } ∧ y.await.any (fun a => a.what == what) = true

/-- Instruction `i` of sequencer `p` raises `cause`, which belongs to no level. -/
def State.SeqRaises (s : State) (k p : Nat) (x : Seq) (i : Instr) (cause : Nat) : Prop :=
  exec i s = .next (s.raise k p (whole cause x.cl.pc 0) x.cl false false)

/-- Instruction `i` of the sequencer transfers control to `target`: past a header there, or with BR_TARGET, or the refusal of the fetch, or asking for the
word first (03_encoding R50, R387). -/
structure State.SeqTransfers (s : State) (k p : Nat) (w : Wg) (x : Seq) (i : Instr) (target : W64) : Prop where
  goes : ∀ h, s.targetAt w.tenant x.got [if p = 64 then 4 else 5] target = .header h →
    ∃ t, exec i s = .next t ∧ WgBecomes s t k (w.withSeq p { x with cl := Cl.enter target h, await := none, got := [] })
  bad : s.targetAt w.tenant x.got [if p = 64 then 4 else 5] target = .bad → s.SeqRaises k p x i cBR_TARGET
  refused : ∀ r, s.targetAt w.tenant x.got [if p = 64 then 4 else 5] target = .refused r →
    exec i s = .next (s.raise k p ⟨r.cause, r.level, 0, r.label, target, 0, x.cl.pc, true⟩ x.cl false false)
  asks : s.targetAt w.tenant x.got [if p = 64 then 4 else 5] target = .ask →
    exec i s = .next (s.askFor (seqParty k p) .fetch target 4 x.cl false 0)

/-- Sequencer `p` of slot `k` has entered an operation into its queue in `t`: its job and its line accesses. Its workgroup has
become `v`; nothing else of the module has changed, memory included. -/
structure SeqEntered (s t : State) (k p : Nat) (w : Wg) (x : Seq) (job : Job) (ps : Tab Part) (v : Wg) : Prop where
  flight : t.flights.find s.nextId = some
    ⟨w.uid, seqParty k p, if p = 64 then 1 else 0, job, w.tenant, dieOf k, x.cl, false, 0, 0, 0, ps, [], false⟩
  others : ∀ id, id ≠ s.nextId → t.flights.find id = s.flights.find id
  wg : t.wg? k = some v
  wgs : ∀ k', k' ≠ k → t.wg? k' = s.wg? k'
  rest : { t with wgs := s.wgs, flights := s.flights, nextId := s.nextId } = s

/-- Every operation that sequencer `p` of slot `k` has entered into a queue is performed. -/
def State.seqIdle (s : State) (k p : Nat) (w : Wg) : Prop :=
  ∀ e ∈ s.flights, e.2.uid = w.uid → e.2.party = seqParty k p → e.2.queue < 7 → e.2.performed = true

/-- The scalar forms of R276 on k[KA] and the second operand. -/
def seqTable : List ((KArgs → Instr) × (W64 → W64 → W64)) :=
  [(.kmov, fun _ b => b),
   (.kadd, fun a b => BitVec.ofNat 64 (a.toNat + b.toNat)),
   (.ksub, fun a b => BitVec.ofInt 64 ((a.toNat : Int) - b.toNat)),
   (.kmul, fun a b => BitVec.ofNat 64 (a.toNat * b.toNat)),
   (.kand, fun a b => a &&& b),
   (.kor, fun a b => a ||| b),
   (.kshl, fun a b => BitVec.ofNat 64 (a.toNat * 2 ^ (b.toNat % 64))),
   (.kshr, fun a b => BitVec.ofNat 64 (a.toNat / 2 ^ (b.toNat % 64)))]

/-- The tile `n` of a workgroup is `t` and is ready: every full bit is set and no copy moves it (R282). -/
structure ReadyTile (s : State) (w : Wg) (n : Nat) (t : Tile) : Prop where
  defined : w.tiles.find n = some t
  full : ∀ i, i < t.nl → w.full.has (t.base + i) = true
  still : ∀ e ∈ s.flights, ∀ c, e.2.uid = w.uid → e.2.job = .copy c → c.tile = n → c.kind ≠ .cpt ∧ c.todo = []

/-- Tile `n` is neither filling nor draining, and the other engine does not hold it. -/
structure FreeTile (s : State) (w : Wg) (n : Nat) (t : Tile) : Prop where
  defined : w.tiles.find n = some t
  still : ∀ e ∈ s.flights, ∀ c, e.2.uid = w.uid → e.2.job = .copy c → c.tile = n → c.kind ≠ .cpt ∧ c.todo = []
  unread : ∀ e ∈ s.flights, e.2.uid = w.uid → n ∉ e.2.job.tilesRead
  gather : w.mtx.gather = none

/-- The line accesses of a copy of the layout record `l` at base `b`, in pieces of `size` bytes: row r of block (i, j), block number by ORD, starts at
b + i × S0 + j × S1 + r × PITCH, and its piece c is tile byte swizzle((block × ROWS + r) × BYTES + c × size) (14_copy R285). -/
structure CopyLines (ps : Tab Part) (l : Layout) (b : W64) (size : Nat) : Prop where
  pieces : ∀ z : Access, (∃ e ∈ ps, z ∈ e.2.accs) ↔
    ∃ i j r c, i < l.n0 ∧ j < l.n1 ∧ r < l.rows ∧ c < l.bytes / size ∧
      z = ⟨l.swizzle (((if l.ord then j * l.n0 + i else i * l.n1 + j) * l.rows + r) * l.bytes + c * size),
        b + BitVec.ofInt 64 (i * l.s0 + j * l.s1 + r * l.pitch) + BitVec.ofNat 64 (c * size), size, 0, 0, 0⟩
  oneLine : ∀ e ∈ ps, ∀ z ∈ e.2.accs, ∀ y ∈ e.2.accs, z.addr.toNat / 128 = y.addr.toNat / 128
  flying : ∀ e ∈ ps, e.2.st = .flying

/-- Table 15-4: the element formats of MMA and MMAG, their bits, and their native K. -/
def matrixFormats : List (Nat × Nat × Nat) :=
  [(3, 16, 32), (4, 16, 32), (5, 8, 64), (6, 8, 64), (7, 6, 128), (8, 6, 128), (9, 4, 128), (10, 8, 64), (11, 8, 64), (15, 2, 128)]

/-- A format descriptor with tiles of `na` and `nb` lines that R301 accepts: `fa` and `fb` give bits and native K. -/
structure GoodDesc (d : W64) (fa fb : Nat × Nat) (na nb : Nat) : Prop where
  a : (dFa d, fa.1, fa.2) ∈ matrixFormats
  b : (dFb d, fb.1, fb.2) ∈ matrixFormats
  high : d.toNat / 2 ^ 32 = 0
  native : fa.2 = fb.2
  k : dK d = fa.2 ∨ 2 * dK d = fa.2 ∨ 4 * dK d = fa.2
  scales : dScf d = 0 ∨ (dScf d = 1 ∧ dBla d = 0 ∧ dBlb d = 0)
  blocks : ∀ c ∈ [dBla d, dBlb d], c ≠ 0 → dK d % (8 * 2 ^ c) = 0
  mode : dMode d = 0 ∨ dMode d = 1 ∨ (dMode d = 2 ∧ dFa d ∈ [10, 11] ∧ dFb d ∈ [10, 11] ∧ dScf d = 1)
  sizeA : 32 * (dK d * fa.1 / 8) ≤ na * 128
  sizeB : 32 * (dK d * fb.1 / 8) ≤ nb * 128

/-- The accumulator's tag fits the mode, and a VQ operand has its codebook (R304, R305, R388). -/
structure GoodAcc (m : Mtx) (acc : Nat) (d : W64) : Prop where
  f : dMode d = 0 → (m.get acc).tag = .f
  i : dMode d = 2 → (m.get acc).tag = .i
  book : dFa d = 15 ∨ dFb d = 15 → m.bookSet = true

/-- The matrix context with an operation entered: past `n` words, the accumulators pending under a window of `la`. -/
def Mtx.entered (m : Mtx) (x : Seq) (id : Nat) (dst : List Nat) (la n : Nat) : Mtx :=
  { m with seq := { x with cl := x.cl.next n, await := none, got := [] }, wins := m.wins ++ [⟨id, dst, la⟩] }

/-- Element `n` of row `i` of an operand of rows of `rb` bytes and elements of `w` bits, in the scratchpad from line `base` up. -/
def elemBits (w : Wg) (base rb bits i n : Nat) : Nat := w.scratch.bytes (base * 128 + i * rb) rb / 2 ^ (bits * n) % 2 ^ bits

/-- An 8-bit element as an integer: format 10 is signed, 11 is not. -/
def int8 (fmt v : Nat) : Int := if fmt = 10 then (BitVec.ofNat 8 v).toInt else v

end Machine
end Sys2Proof
end

