-- ==== Sys2Proof/Safety/Life.lean ====
section
/-!
DEFINITION. The terms in which claims say how cards are queued and refused, how a unit ends, and when a saved one wakes (04_execution, 05_traps).
-/
namespace Sys2Proof
namespace Machine

/-- The card at `card` of a tenant has gone to the end of the queue `key` in `t`. The queue and its ring are otherwise as they were: with room on the chip, or no ring,
the entry lies on the chip, and the card of an entry that is the head is read; else it lies in the ring, 16 bytes a place, at the next place after the last entry's that
no entry lies at (04_execution R86, R87; log entry 7: the form of an entry, and its place, are the model's). -/
structure CardQueued (s t : State) (key : Nat) (card : W64) (tenant : Nat) (entry : Option (Nat × Nat)) : Prop where
  onChip : (∀ e ∈ s.queue key, e.ring = none) → (∀ e rest, s.queue key = e :: rest → e.card ≠ none) →
    s.sched.rings.find key = none ∨ chipRoom (s.queue key) = true →
    t.queue key = s.queue key ++ [⟨card, tenant, entry, none, if s.queue key = [] then some (match s.readDwords tenant card 8 with
      | .ok c => .card c
      | .error _ => .unreadable) else none⟩] ∧ t.mem = s.mem
  inRing : ∀ base size, s.sched.rings.find key = some (base, size) → chipRoom (s.queue key) = false →
    (∀ e ∈ (s.queue key).take (Config.chipCards + 1), e.ring = none) → (∀ e rest, s.queue key = e :: rest → e.card ≠ none) →
    ((s.queue key).filter (fun e => e.ring.isSome)).length < size →
    let first := match (s.queue key).getLast?.bind (·.ring) with
      | some m => m + 1
      | none => 0
    let taken := fun (n : Nat) => ∃ e ∈ s.queue key, e.ring = some n
    ∃ i, i < size ∧ ¬ taken ((first + i) % size) ∧ (∀ j, j < i → taken ((first + j) % size)) ∧
      let n := (first + i) % size
      t.queue key = s.queue key ++ [⟨card, tenant, entry, some n, none⟩] ∧
        t.mem.readN (base.toNat + 16 * n) 8 = card.toNat ∧ t.mem.readN (base.toNat + 16 * n + 8) 8 = tenant % 2 ^ 64
  others : ∀ k, k ≠ key → t.queue k = s.queue k

/-- The record `r` has come into the host's ring in `t`, behind those of its own die (21_host_security R369). -/
def Recorded (s t : State) (r : ErrRec) : Prop :=
  ∃ a b, s.host.records = a ++ b ∧ t.host.records = a ++ r :: b ∧ ∀ x ∈ b, x.die ≠ r.die

/-- Case `n` of R86 refuses a card, whose dwords are `c`, that is stamped with a tenant. -/
def State.refusesCard (s : State) (tenant : Nat) (c : Card) (n : Nat) : Prop :=
  let quads := cd c 4 % 2 ^ 7
  match n with
  | 2 => cd c 3 / 2 ^ 32 % 2 ^ 32 ≠ 0 ∨ cd c 7 / 2 ^ 32 % 2 ^ 32 ≠ 0 ∨ cd c 4 / 2 ^ 42 % 2 ^ 22 ≠ 0
  | 3 => quads = 0 ∨ 64 < quads
  | 4 => 12288 < cd c 4 / 2 ^ 7 % 2 ^ 14 ∨ 256 < cd c 4 / 2 ^ 21 % 2 ^ 9
  | 5 => 25 ≤ cd c 4 / 2 ^ 36 % 2 ^ 5
  | 6 => ∃ n, n < 16 ∧ quads < cd c (5 + n / 8) / 256 ^ (n % 8) % 256
  | 7 => cd c 4 / 2 ^ 32 % 2 ^ 4 ≠ tenant
  | 8 => cd c 2 % 2 ^ 64 ≠ 0 ∧ (s.isLocal tenant (BitVec.ofNat 64 (cd c 2)) = false ∨ cd c 2 % 64 ≠ 0)
  | _ => False

/-- A core, numbered in the module, has a slot free, and quads and lines for a workgroup of so many (04_execution R79, R91). -/
def State.hasRoom (s : State) (core quads lines : Nat) : Prop :=
  let on := s.wgs.filter (fun e => e.1 / 4 == core)
  (∃ i, i < 4 ∧ s.wg? (core * 4 + i) = none) ∧ (on.map (fun e => e.2.shape.toNat % 2 ^ 7)).sum + quads ≤ 64 ∧
    (on.map (fun e => (e.2.shape.toNat / 2 ^ 7 % 2 ^ 14 + 23) / 24 * 24)).sum + (lines + 23) / 24 * 24 ≤ 12288

/-- `u` is `s` after step 2 of R113 for the workgroup `w` of slot `k`: its incomplete copies and lane copies are gone, but for their requests that have left
the module, which nobody waits for, and every held entry of its quads' store buffers, with those that are held beside one, each of them taken off its counter. -/
structure UnitDiscards (s u : State) (k : Nat) (w : Wg) : Prop where
  copies : ∀ e ∈ s.flights, e.2.uid = w.uid → (∃ c, e.2.job = .copy c) ∨ (∃ b d, e.2.job = .cpl b d) →
    let sent := e.2.parts.filter (fun p => p.2.st == .away)
    (sent = [] → u.flights.find e.1 = none) ∧ (sent ≠ [] → w.uid ≠ 0 → u.flights.find e.1 = some { e.2 with uid := 0, faults := [], parts := sent })
  held : ∀ e ∈ s.flights, ∀ q, e.2.party = .quad k q → e.2.uid = w.uid → (∀ b d, e.2.job ≠ .cpl b d) → (∀ c, e.2.job ≠ .copy c) → ∀ p ∈ e.2.parts,
    if p.2.st = .held ∨ (s.squash [w.uid]).joinsHeld e.1 e.2 p.2 = true then (u.part? e.1 p.1).isNone = true
    else ∃ f, u.part? e.1 p.1 = some (f, p.2)
  others : ∀ e ∈ s.flights, e.2.uid ≠ w.uid → u.flights.find e.1 = some e.2
  counters : ∀ q x, w.quads.find q = some x → ∃ y, u.quad? k q = some y ∧
    let n := fun (onDie : Bool) => ((((s.squash [w.uid]).opsOf w.uid (.quad k q)).map (fun e => e.2.parts.filter (fun p =>
      (p.2.st == .held || (s.squash [w.uid]).joinsHeld e.1 e.2 p.2) && p.2.onDie == onDie))).flatten).length
    y = { x with uad := x.uad - n true, uap := x.uap - n false }
  rest : { u with flights := s.flights, wgs := s.wgs } = s
  wg : ∃ v, u.wg? k = some v ∧ { v with quads := w.quads } = w
  wgs : ∀ j, j ≠ k → u.wg? j = s.wg? j

/-- The wait of a saved quad passes its wake test (Table 4-7); a WAITV's read of another module or of the host is not among these. -/
def State.WakePasses (s : State) (unit : Nat) (w : Wg) (z : Quad) : Prop :=
  (∃ op r cc cmp n m l, z.await = some ⟨.waitv op r cc cmp, n, m⟩ ∧ s.isLocal w.tenant r = true ∧ s.lookup w.tenant .load r = .ok l ∧
    s.poisoned l.key = false ∧
    let v := BitVec.ofNat 32 (s.peek l 4)
    ccTable cc.toNat v.toInt cmp.toInt v.toNat cmp.toNat = true) ∨
  (∃ ph n m, z.await = some ⟨.cbars ph, n, m⟩ ∧ (s.cbar unit).phase ≠ ph) ∨
  (∃ n m, z.await = some ⟨.full, n, m⟩ ∨ z.await = some ⟨.cpwt, n, m⟩) ∨
  ∃ a n m, z.await = some ⟨.itstat a, n, m⟩ ∧ s.statReady w.tenant a (z.reg z.lowest a.a.toNat) = true

/-- A copy as it is reissued: every line of its tile is still to be moved, and none of its line accesses is under way. -/
def Copy.again (c : Copy) : Copy :=
  { c with todo := (List.range c.nl).map (fun i => c.base + i), buf := [], wrote := [], lost := 0 }

end Machine
end Sys2Proof
end

