-- ==== Sys2Proof/Safety/Fabric.lean ====
section
/-!
DEFINITION. The terms in which claims say what the fabric's links and the crossbars carry (17_fabric, 01_device).
-/
namespace Sys2Proof
namespace Machine

/-- The label of path `c` of a range entry (Table 9-4). -/
def pathLabel (e : RangeImage) (c : Nat) : Nat := e.path c % 2 ^ 12

/-- Nothing waits to be sent on the link, and its retry buffer has room. -/
structure Link.Quiet (l : Link) : Prop where
  pending : l.pending = []
  beats : l.beats = []
  room : l.retry.length < 512

/-- The message `m` has gone out on the quiet link `port` in `t`, in one data flit with the link's next SEQ, which the retry buffer keeps;
the rest of the fabric, and of the module, is as it was (17_fabric R321, R322). -/
structure OnLink (s t : State) (port : Nat) (m : FabricMsg) : Prop where
  flit : let l := s.link port
    t.link port = { l with next := l.next + 1, retry := l.retry ++ [(l.next, m.beats)], wire := l.wire ++ [flitOf 0 (l.expect - 1) l.next m.beats] }
  links : ∀ n, n ≠ port → t.link n = s.link n
  rest : { t with fab := { t.fab with links := s.fab.links, outbox := s.fab.outbox }, free := s.free } = s

/-- The link end is down: it holds and expects nothing, its readiness bit is clear, and a record of KIND 3 has gone to the host (17_fabric R323). -/
structure LinkIsDown (s t : State) (n : Nat) : Prop where
  down : (t.link n).up = false
  empty : (t.link n).retry = [] ∧ (t.link n).pending = [] ∧ (t.link n).beats = [] ∧ (t.link n).inbox = []
  bit : t.isReady (19 * 32 + n) = false
  mem : t.mem = s.mem
  told : s.host.ringUsed < s.host.ringSize → Recorded s t ⟨3, 0, TrapRec.zero, 0, 0, 0, 0, n / 8 * 2 ^ 12 + n * 2 ^ 14, []⟩

/-- RCV of a slot has reached a carried count, and each of the packets counted there has been performed (17_fabric R330, R331): `met` holds the number up
to which they have been, and the earlier ones that have not. -/
def State.CountMet (s : State) (pl die tenant slot sent : Nat) : Prop :=
  let past := fun (n : Nat) => (n + 2 ^ 32 - sent) % 2 ^ 32 < 2 ^ 31
  past (s.rcv pl die tenant slot) ∧ past (s.met pl die tenant slot).1 ∧ ∀ n ∈ (s.met pl die tenant slot).2, past n

/-- The releases that a clock counts have been applied: those of a die of this module at every destination, others as far as is known (17_fabric R328,
R332). -/
def State.Applied (s : State) (tenant : Nat) (vc : List (Nat × Nat)) : Prop :=
  let own := fun (key : Nat) => ∃ d, d < 4 ∧ key = s.component tenant d
  ∀ e ∈ vc, (own e.1 → ∀ f ∈ s.flights, ∀ p ∈ f.2.parts, p.2.st ≠ .performed → ∀ st, p.2.stamp = some st → st.key = e.1 → e.2 < st.n) ∧
    (¬ own e.1 → e.2 ≤ Tab.get 0 s.fab.applied e.1)

/-- Packet `k` of a slot counts in `t` as accepted and performed; nothing else of the module has changed (17_fabric R331). -/
structure PacketCounted (s t : State) (pl die tenant slot k : Nat) : Prop where
  rcv : t.rcv pl die tenant slot = (s.rcv pl die tenant slot + 1) % 2 ^ 32
  next : let m := s.met pl die tenant slot
    (t.met pl die tenant slot).1 = if (k + 2 ^ 32 - m.1) % 2 ^ 32 < 2 ^ 31 then (k + 1) % 2 ^ 32 else m.1
  missing : let m := s.met pl die tenant slot
    (k + 2 ^ 32 - m.1) % 2 ^ 32 = 0 → (t.met pl die tenant slot).2 = m.2
  performed : let m := s.met pl die tenant slot
    2 ^ 31 ≤ (k + 2 ^ 32 - m.1) % 2 ^ 32 → (t.met pl die tenant slot).2 = m.2.erase k
  rest : { t with fab := { t.fab with rcv := s.fab.rcv, met := s.fab.met } } = s

/-- A port has a slot free for a class of a tenant that is present, `held` being what is held there: its reserved one, or one of the 96 - 4n shared ones, of
which the tenant holds fewer than 8 (01_device R10). -/
def HasSlot (present : List Nat) (held : Tab Nat) (port tenant cls : Nat) : Prop :=
  let own := fun (t c : Nat) => Tab.get 0 held ((port * 16 + t) * 4 + c)
  let shared := fun (t : Nat) => (own t 0 - 1) + (own t 1 - 1) + (own t 2 - 1) + (own t 3 - 1)
  tenant ∈ present ∧ (own tenant cls = 0 ∨ (shared tenant < 8 ∧ (present.map shared).sum < 96 - 4 * present.length))

end Machine
end Sys2Proof
end

