-- ==== Sys2Proof/Certificates/Slice0/Obligations.lean ====
section
/-!
DEFINITION. The statements for the provers.
-/
open Sys2Proof
open Sys2Proof.Machine

/-! ### Arithmetic of the quads (07_quad_compute) -/

/-- Table 7-1: every 32-bit integer R form writes F of its sources to D in each active lane whose guard is true, SEL in every
active lane, and changes nothing else; sources are read before any lane is written, and no flag is set (R145, R147, R148). -/
def Claims.IntegerRegisterForms : Prop :=
  (∀ e ∈ table71, ∀ (s : State) (k q : Nat) (x : Quad) (a : RArgs), s.HasTurn k q x →
    ∃ t y, exec (e.1 a) s = .next t ∧ QuadBecomes s t k q y ∧ AdvancesRegs x y a.b.size ∧
      WritesReg x y (x.guarded a) a.d.toNat (fun l => e.2 (x.reg l a.a.toNat) (x.src l a.b) (x.reg l a.d.toNat))) ∧
  ∀ (s : State) (k q : Nat) (x : Quad) (a : RArgs), s.HasTurn k q x →
    ∃ t y, exec (.sel a) s = .next t ∧ QuadBecomes s t k q y ∧ AdvancesRegs x y a.b.size ∧
      WritesReg x y x.active a.d.toNat (fun l => if x.guard l a.gn a.gp then x.reg l a.a.toNat else x.src l a.b)

/-- Table 7-2: the 64-bit R forms, whose B is a pair with a literal sign-extended (ADD64, SUB64) or a register with a literal
as written; MADW adds the product of two words to the old pair (R149). -/
def Claims.IntegerPairForms : Prop :=
  (∀ e ∈ table72, ∀ (s : State) (k q : Nat) (x : Quad) (a : RArgs), s.HasTurn k q x →
    ∃ t y, exec (e.1 a) s = .next t ∧ QuadBecomes s t k q y ∧ AdvancesRegs x y a.b.size ∧
      WritesPair x y (x.guarded a) a.d.toNat (fun l => e.2.2 (x.pair l a.a.toNat).toNat
        (if e.2.1 then (x.src64 l a.b).toNat else (x.src l a.b).toNat) (x.pair l a.d.toNat).toNat)) ∧
  ∀ (s : State) (k q : Nat) (x : Quad) (a : RArgs), s.HasTurn k q x →
    ∃ t y, exec (.madw a) s = .next t ∧ QuadBecomes s t k q y ∧ AdvancesRegs x y a.b.size ∧
      WritesPair x y (x.guarded a) a.d.toNat (fun l =>
        BitVec.ofNat 64 ((x.reg l a.a.toNat).toNat * (x.src l a.b).toNat + (x.pair l a.d.toNat).toNat))

/-- The integer arithmetic of R147 on registers and on pairs. -/
def Obligations.IntegerForms : Prop := Claims.IntegerRegisterForms ∧ Claims.IntegerPairForms

/-- Table 7-3: the immediate forms act in every active lane, the immediate being sign-extended (R150). -/
def Obligations.ImmediateForms : Prop :=
  (∀ e ∈ table73, ∀ (s : State) (k q : Nat) (x : Quad) (a : IArgs), s.HasTurn k q x →
    ∃ t y, exec (e.1 a) s = .next t ∧ QuadBecomes s t k q y ∧ AdvancesRegs x y 1 ∧
      WritesReg x y x.active a.d.toNat (fun l => e.2 (x.reg l a.a.toNat) (BitVec.ofInt 32 (signed 12 a.imm.toNat)))) ∧
  ∀ (s : State) (k q : Nat) (x : Quad) (a : IArgs), s.HasTurn k q x →
    ∃ t y, exec (.add64i a) s = .next t ∧ QuadBecomes s t k q y ∧ AdvancesRegs x y 1 ∧
      WritesPair x y x.active a.d.toNat (fun l =>
        BitVec.ofInt 64 ((x.pair l a.a.toNat).toNat + signed 12 a.imm.toNat))

/-- ICMP and ICMP64 combine the condition CC with the old predicate in every active lane, and set no flag; FCMP does so for F32 values and ORs
its flags into FPSTAT (R151). -/
def Claims.Compares : Prop :=
  ∀ (s : State) (k q : Nat) (x : Quad) (a : PArgs), s.HasTurn k q x → a.pd.toNat < 24 →
    (∃ t y, exec (.icmp a) s = .next t ∧ QuadBecomes s t k q y ∧ AdvancesFlags x y a.b.size ∧ y.regs = x.regs ∧
      y.fpstat = x.fpstat ∧
      WritesPred x y x.active a.pd.toNat (fun l => cmbTable a.cmb.toNat (x.pred l a.pd.toNat)
        (ccTable a.cc.toNat (x.reg l a.a.toNat).toInt (x.src l a.b).toInt (x.reg l a.a.toNat).toNat (x.src l a.b).toNat))) ∧
    (∃ t y, exec (.icmp64 a) s = .next t ∧ QuadBecomes s t k q y ∧ AdvancesFlags x y a.b.size ∧ y.regs = x.regs ∧
      y.fpstat = x.fpstat ∧
      WritesPred x y x.active a.pd.toNat (fun l => cmbTable a.cmb.toNat (x.pred l a.pd.toNat)
        (ccTable a.cc.toNat (x.pair l a.a.toNat).toInt (x.src64 l a.b).toInt (x.pair l a.a.toNat).toNat
          (x.src64 l a.b).toNat))) ∧
    ∃ t y, exec (.fcmp a) s = .next t ∧ QuadBecomes s t k q y ∧ AdvancesFlags x y a.b.size ∧ y.regs = x.regs ∧
      WritesPred x y x.active a.pd.toNat (fun l => cmbTable a.cmb.toNat (x.pred l a.pd.toNat)
        (fcmp a.cc.toNat (x.reg l a.a.toNat).toNat (x.src l a.b).toNat).1) ∧
      y.fpstat = x.active.foldl (fun f l => f |||
        BitVec.ofNat 32 (fcmp a.cc.toNat (x.reg l a.a.toNat).toNat (x.src l a.b).toNat).2) x.fpstat

/-- FCMP: zeros of either sign are equal; with a NaN only ne and uno hold; a signalling NaN sets NV for every CC, a quiet
one for lt, le, gt and ge only (R152). -/
def Claims.FloatCompareRules : Prop :=
  ∀ (cc a b : Nat), cc < 8 → a < 2 ^ 32 → b < 2 ^ 32 →
    ((a % 2 ^ 31 = 0 ∧ b % 2 ^ 31 = 0) → fcmp cc a b = (cc == 0 || cc == 3 || cc == 5 || cc == 6, 0)) ∧
    (((F32.value a).isNan = true ∨ (F32.value b).isNan = true) →
      fcmp cc a b = (cc == 1 || cc == 7,
        if (F32.value a).isSig || (F32.value b).isSig || (2 ≤ cc && cc ≤ 5) then fNV else 0)) ∧
    ((F32.value a).isNan = false → (F32.value b).isNan = false → fcmp cc a b =
      (ccTable (if 6 ≤ cc then 0 else cc) (if (F32.value a).lt (F32.value b) then -1 else if (F32.value b).lt (F32.value a) then 1 else 0) 0
        (if (F32.value a).lt (F32.value b) || (F32.value b).lt (F32.value a) then 1 else 0) 0 && cc != 7 || cc == 6, 0))

/-- The compares: integer and floating point conditions, combined with the old predicate, and the table of FCMP's conditions. -/
def Obligations.CompareForms : Prop := Claims.Compares ∧ Claims.FloatCompareRules

/-- Table 7-4 and SHFQ: PAND, POR, PXOR, PNOT and VTOP write a predicate in each guarded active lane, PTOV 1 or 0 to a
register, and SHFQ the A register of the lane that b[1:0] names, active or not (R153, R154). -/
def Obligations.PredicateAndShuffleForms : Prop :=
  (∀ e ∈ table74, ∀ (s : State) (k q : Nat) (x : Quad) (d p : BitVec 6) (n : BitVec 6) (gn : Bool) (gp : BitVec 5),
    s.HasTurn k q x → d.toNat < 24 →
    ∃ t y, exec (e.1 ⟨d, p, .reg n, gn, gp⟩) s = .next t ∧ QuadBecomes s t k q y ∧ AdvancesFlags x y 1 ∧ y.regs = x.regs ∧
      y.fpstat = x.fpstat ∧
      WritesPred x y (x.guarded ⟨d, p, .reg n, gn, gp⟩) d.toNat
        (fun l => e.2 (x.pred l p.toNat) (x.pred l n.toNat) (x.reg l p.toNat))) ∧
  ∀ (s : State) (k q : Nat) (x : Quad) (a : RArgs), s.HasTurn k q x →
    (∃ t y, exec (.ptov a) s = .next t ∧ QuadBecomes s t k q y ∧ AdvancesRegs x y a.b.size ∧
      WritesReg x y (x.guarded a) a.d.toNat (fun l => if x.pred l a.a.toNat then 1 else 0)) ∧
    ∃ t y, exec (.shfq a) s = .next t ∧ QuadBecomes s t k q y ∧ AdvancesRegs x y a.b.size ∧
      WritesReg x y (x.guarded a) a.d.toNat (fun l => x.reg ((x.src l a.b).toNat % 4) a.a.toNat)

/-- The floating-point forms with one register as destination: the result and the flags of each guarded active lane, the
flags of all of them ORed into FPSTAT (R143, R156, R160, R162). FABS and FNEG change the sign only, and give the canonical NaN for
a NaN. -/
def Claims.FloatForms : Prop :=
  (∀ e ∈ floatTable, ∀ (s : State) (k q : Nat) (x : Quad) (a : RArgs), s.HasTurn k q x →
    let f := fun l => e.2 (x.reg l a.a.toNat).toNat (x.src l a.b).toNat (x.reg l a.d.toNat).toNat
    ∃ t y, exec (e.1 a) s = .next t ∧ QuadBecomes s t k q y ∧ AdvancesFlags x y a.b.size ∧ y.preds = x.preds ∧
      WritesReg x y (x.guarded a) a.d.toNat (fun l => BitVec.ofNat 32 (f l).1) ∧
      y.fpstat = (x.guarded a).foldl (fun g l => g ||| BitVec.ofNat 32 (f l).2) x.fpstat) ∧
  ∀ e ∈ signTable, ∀ (s : State) (k q : Nat) (x : Quad) (a : RArgs), s.HasTurn k q x →
    ∃ t y, exec (e.1 a) s = .next t ∧ QuadBecomes s t k q y ∧ AdvancesFlags x y a.b.size ∧ y.preds = x.preds ∧
      WritesReg x y (x.guarded a) a.d.toNat (fun l =>
        if (F32.value (x.reg l a.a.toNat).toNat).isNan then BitVec.ofNat 32 0x7FC00000
        else BitVec.ofNat 32 (e.2 (x.reg l a.a.toNat).toNat)) ∧
      y.fpstat = (x.guarded a).foldl (fun g l =>
        g ||| if (F32.value (x.reg l a.a.toNat).toNat).isSig then BitVec.ofNat 32 fNV else 0) x.fpstat

/-- FMIN and FMAX: the lesser and the greater operand, −0 below +0; of one NaN and a number the number; the canonical NaN
of two NaNs; NV for a signalling NaN, and no other flag (R157). -/
def Claims.FloatMinMaxRules : Prop :=
  ∀ (a b : Nat), a < 2 ^ 32 → b < 2 ^ 32 →
    (∀ m, (fminmax m a b).2 = if (F32.value a).isSig || (F32.value b).isSig then fNV else 0) ∧
    ((F32.value a).isNan = true → (F32.value b).isNan = true → ∀ m, (fminmax m a b).1 = 0x7FC00000) ∧
    ((F32.value a).isNan = true → (F32.value b).isNan = false → ∀ m, (fminmax m a b).1 = b) ∧
    ((F32.value a).isNan = false → (F32.value b).isNan = true → ∀ m, (fminmax m a b).1 = a) ∧
    ((F32.value a).lt (F32.value b) = true → (fminmax false a b).1 = a ∧ (fminmax true a b).1 = b) ∧
    ((F32.value b).lt (F32.value a) = true → (fminmax false a b).1 = b ∧ (fminmax true a b).1 = a) ∧
    (fminmax false 0 (2 ^ 31)).1 = 2 ^ 31 ∧ (fminmax false (2 ^ 31) 0).1 = 2 ^ 31 ∧
    (fminmax true 0 (2 ^ 31)).1 = 0 ∧ (fminmax true (2 ^ 31) 0).1 = 0

/-- A finite value of a format is its own rounding, in every mode, with no flag: rounding and reading an element agree
(R127, R135). -/
def Claims.RoundingKeepsExactValues : Prop :=
  ∀ f ∈ [F32, BF16, F16, E4M3, E5M2, E2M3, E3M2, E2M1], ∀ (p : Nat) (neg : Bool) (m : Nat) (e : Int) (mode : Nat) (sat : Bool),
    p < 2 ^ f.width → f.value p = .fin neg m e → f.round mode sat neg m e = (p, 0)

/-- Rounding is that of R135 to R137, in every format, mode and with or without saturation: a pattern that is a neighbour of the
value as the mode says, Table 6-6 on overflow, and the flags; a pattern has the value that its fields give it (R127). -/
def Claims.RoundingIsNearest : Prop :=
  ∀ f ∈ [F32, BF16, F16, E4M3, E5M2, E2M3, E3M2, E2M1],
    (∀ (mode : Nat) (sat neg : Bool) (m : Nat) (e : Int), m ≠ 0 →
      f.RoundsWith mode sat neg ((m : ℚ) * 2 ^ e) (f.round mode sat neg m e)) ∧
    ∀ g, g ≤ f.maxMag → ∀ neg, ∃ m e, f.value (f.pack neg g) = .fin neg m e ∧ (m : ℚ) * 2 ^ e = f.mag g

/-- FRCP, FRSQ, FEXP2, FLOG2 and FTANH complete in every state. Where Table 7-7 or R141 name the result and the flags, each
guarded active lane has them: zeros, infinities, NaNs, negative operands of FRSQ and FLOG2, exact powers of two; the flags of any
other result follow from its pattern, and FPSTAT takes no others (R141, R143, R158). -/
def Claims.BoundedFunctions : Prop :=
  ∀ e ∈ table77, ∀ (s : State) (k q : Nat) (x : Quad) (a : RArgs), s.HasTurn k q x →
    ∃ (t : State) (y : Quad) (f : Nat → Nat), exec (e.1 a) s = .next t ∧ QuadBecomes s { t with free := s.free } k q y ∧ AdvancesFlags x y a.b.size ∧
      y.preds = x.preds ∧ WritesReg x y (x.guarded a) a.d.toNat (fun l => y.reg l a.d.toNat) ∧
      y.fpstat = (x.guarded a).foldl (fun g l => g ||| BitVec.ofNat 32 (f l)) x.fpstat ∧
      ∀ l ∈ x.guarded a,
        let v := (x.reg l a.a.toNat).toNat
        let r := (y.reg l a.d.toNat).toNat
        match e.2 v with
        | some c => r = c.1 ∧ f l = c.2
        | none => f l = flags77 r (exact77 e.1 a v r)

/-- FRCP, FRSQ, FEXP2, FLOG2 and FTANH each complete for the quad that has the turn, whatever its operands, and change nothing but
the guarded active lanes of D, FPSTAT, and the place in the program, which moves past the instruction (R143, R158). -/
def Claims.FunctionFormsComplete : Prop :=
  ∀ (s : State) (k q : Nat) (x : Quad) (a : RArgs), s.HasTurn k q x →
    let completes := fun (i : Instr) => ∃ (t : State) (y : Quad), exec i s = .next t ∧ QuadBecomes s { t with free := s.free } k q y ∧
      AdvancesFlags x y a.b.size ∧ y.preds = x.preds ∧ WritesReg x y (x.guarded a) a.d.toNat (fun l => y.reg l a.d.toNat)
    completes (.frcp a) ∧ completes (.frsq a) ∧ completes (.fexp2 a) ∧ completes (.flog2 a) ∧ completes (.ftanh a)

/-- FRCP, FRSQ, FEXP2, FLOG2 and FTANH complete, and where Table 7-7 names no result, FRCP and FRSQ return a pattern within 1 ulp of the
exact result `z`, FEXP2, FLOG2 and FTANH one within 2 ulp, the infinities counting as ±2^128 (R158). No pattern is within the bound of a
result beyond these, and an infinity is returned, which is the model's choice (log entry 2). -/
def Claims.AccuracyOfFunctions : Prop :=
  ∀ e ∈ table77, ∀ (s : State) (k q : Nat) (x : Quad) (a : RArgs), s.HasTurn k q x →
    ∃ t y, exec (e.1 a) s = .next t ∧ t.quad? k q = some y ∧
      ∀ l ∈ x.guarded a, e.2 (x.reg l a.a.toNat).toNat = none →
        ∀ (z : ℝ) (u : Nat), Exactly77 e.1 a (((F32.value (x.reg l a.a.toNat).toNat).rat : ℚ) : ℝ) z u →
          (|z| ≤ 2 ^ 128 → WithinUlps u (y.reg l a.d.toNat).toNat z) ∧
          (2 ^ 128 < |z| → (y.reg l a.d.toNat).toNat = F32.pack (decide (z < 0)) infF)

/-- What the floating point operations answer: minimum and maximum, exact values, the nearest value, and that the functions of
Table 7-7 complete, with their bounds. -/
def Obligations.FloatRounding : Prop := Claims.FloatMinMaxRules ∧ Claims.RoundingKeepsExactValues ∧ Claims.RoundingIsNearest ∧ Claims.FunctionFormsComplete ∧ Claims.AccuracyOfFunctions

/-- FSQRT is correctly rounded, with the special values of Table 7-7 (R158); FSCALE is the exact product with a power of two, rounded
once, and keeps an infinity (R156). -/
def Claims.SquareRootAndScale : Prop :=
  ∀ (v : Nat), v < 2 ^ 32 →
    (match F32.value v with
      | .nan s => fsqrt v = (0x7FC00000, if s then fNV else 0)
      | .inf neg => fsqrt v = if neg then invalid else (infF, 0)
      | .fin neg m e =>
        if m = 0 then fsqrt v = (v, 0)
        else if neg then fsqrt v = invalid
        else
          let g := (fsqrt v).1
          let y : ℚ := m * 2 ^ e
          0 < g ∧ g ≤ F32.maxMag ∧ (F32.mag (g - 1) + F32.mag g) ^ 2 < 4 * y ∧ 4 * y < (F32.mag g + F32.mag (g + 1)) ^ 2 ∧
            (fsqrt v).2 = if F32.mag g ^ 2 = y then 0 else fNX) ∧
    ∀ n : Int,
      match F32.value v with
      | .nan s => fscale v n = (0x7FC00000, if s then fNV else 0)
      | .inf _ => fscale v n = (v, 0)
      | .fin neg m e => if m = 0 then fscale v n = (v, 0) else F32.RoundsWith 0 false neg ((m : ℚ) * 2 ^ (e + n)) (fscale v n)

/-- The floating point forms as they write and flag, those of Table 7-7 with their special results among them, and what FSQRT and FSCALE
answer. -/
def Obligations.FloatForms : Prop := Claims.FloatForms ∧ Claims.SquareRootAndScale ∧ Claims.BoundedFunctions

/-- FRND and CVT act in every active lane, and OR the flags of all lanes into FPSTAT; of CVT bits [3:0] and [7:4] name the
types, [9:8] the mode and [10] SAT (R143, R159, R161). -/
def Claims.RoundAndConvertForms : Prop :=
  ∀ (s : State) (k q : Nat) (x : Quad) (a : IArgs), s.HasTurn k q x →
    (∃ t y, exec (.frnd a) s = .next t ∧ QuadBecomes s t k q y ∧ AdvancesFlags x y 1 ∧ y.preds = x.preds ∧
      (let f := fun l => frnd (a.imm.toNat % 4) (x.reg l a.a.toNat).toNat
       WritesReg x y x.active a.d.toNat (fun l => BitVec.ofNat 32 (f l).1) ∧
       y.fpstat = x.active.foldl (fun g l => g ||| BitVec.ofNat 32 (f l).2) x.fpstat)) ∧
    ∃ t y, exec (.cvt a) s = .next t ∧ QuadBecomes s t k q y ∧ AdvancesFlags x y 1 ∧ y.preds = x.preds ∧
      (let i := a.imm.toNat
       let f := fun l => cvt (i % 16) (i / 16 % 16) (i / 256 % 4) (i / 1024 % 2 == 1) (x.reg l a.a.toNat).toNat
       WritesReg x y x.active a.d.toNat (fun l => BitVec.ofNat 32 (f l).1) ∧
       y.fpstat = x.active.foldl (fun g l => g ||| BitVec.ofNat 32 (f l).2) x.fpstat)

/-- What FRND and CVT return. FRND: the integral value that the mode selects, the sign of a zero kept, no NX (R159). CVT between
floating-point formats, to an integer type, from one, and between integer types, with the canonical NaN and the largest value of
each format (R128, R138 to R140, R161). -/
def Claims.ConversionRules : Prop :=
  [F32, BF16, F16, E4M3, E5M2, E2M3, E3M2, E2M1].map (fun f => (f.canon, f.maxMag)) =
    [(0x7FC00000, 0x7F7FFFFF), (0x7FC0, 0x7F7F), (0x7E00, 0x7BFF), (0x7F, 0x7E), (0x7E, 0x7B), (0, 0x1F), (0, 0x1F), (0, 7)] ∧
  (∀ (mode v : Nat), v < 2 ^ 32 →
    match F32.value v with
    | .nan s => frnd mode v = (0x7FC00000, if s then fNV else 0)
    | .inf _ => frnd mode v = (v, 0)
    | .fin neg m e => ∃ z n g, RoundsTo mode (Num.fin neg m e).rat z ∧ F32.value (frnd mode v).1 = .fin neg n g ∧
        (Num.fin neg n g).rat = z ∧ (frnd mode v).2 = 0) ∧
  ∀ (i j mode : Nat) (sat : Bool) (v : Nat), v < 2 ^ 32 →
    let c := cvt i j mode sat v
    (∀ f g, fmtOf i = some f → fmtOf j = some g →
      match f.value (v % 2 ^ f.width) with
      | .nan s => c = (g.canon, if s || !g.nan then fNV else 0)
      | .inf neg => c = if g.inf && !sat then (g.pack neg (g.maxMag + 1), 0) else (g.pack neg g.maxMag, fNV)
      | .fin neg m e => if m = 0 then c = (g.pack neg 0, 0) else g.RoundsWith mode sat neg ((m : ℚ) * 2 ^ e) c) ∧
    (∀ f w sgn, fmtOf i = some f → intType j = some (w, sgn) →
      let lo := (intRange w sgn).1
      let hi := (intRange w sgn).2
      match f.value (v % 2 ^ f.width) with
      | .nan _ => c = (0, fNV)
      | .inf neg => c = (intPat w sgn (if neg then lo else hi), fNV)
      | .fin neg m e => ∃ z, RoundsTo mode (Num.fin neg m e).rat z ∧
          (lo ≤ z → z ≤ hi → c = (intPat w sgn z, if (Num.fin neg m e).rat = z then 0 else fNX)) ∧
          (z < lo → c = (intPat w sgn lo, fNV)) ∧ (hi < z → c = (intPat w sgn hi, fNV))) ∧
    ∀ u s, intType i = some (u, s) →
      let z : Int := if s then signed u v else (v % 2 ^ u : Nat)
      (∀ g, fmtOf j = some g → if z = 0 then c = (0, 0) else g.RoundsWith mode sat (decide (z < 0)) z.natAbs c) ∧
      ∀ w sgn, intType j = some (w, sgn) →
        let y := if sat then max (intRange w sgn).1 (min (intRange w sgn).2 z) else z
        c = (intPat w sgn (if sgn then signed w (wrap w y) else (wrap w y : Nat)), 0)

/-- FRND and CVT as they write and flag, and what a conversion answers. -/
def Obligations.RoundAndConvertForms : Prop := Claims.RoundAndConvertForms ∧ Claims.ConversionRules

/-- Table 7-8 over groups, and VQDEC: each packer converts its elements from F32, in RNE with saturation, lowest register
first; each unpacker is the exact conversion to F32; VQDEC writes the eight weights
of a code once a codebook is loaded, and raises CODEBOOK_UNSET before that (R131, R143, R162, R163). -/
def Claims.GroupForms : Prop :=
  (∀ e ∈ packTable, ∀ (s : State) (k q : Nat) (x : Quad) (a : RArgs), s.HasTurn k q x →
    let el := fun l i => e.2.1.convert 0 true (F32.value (x.group l a.a.toNat e.2.2.1 / 2 ^ (32 * i) % 2 ^ 32))
    ∃ t y, exec (e.1 a) s = .next t ∧ QuadBecomes s t k q y ∧ AdvancesFlags x y a.b.size ∧ y.preds = x.preds ∧
      WritesGroup x y (x.guarded a) a.d.toNat e.2.2.2
        (fun l => ((List.range e.2.2.1).map (fun i => (el l i).1 * 2 ^ (e.2.1.width * i))).sum) ∧
      y.fpstat = (x.guarded a).foldl (fun g l => (List.range e.2.2.1).foldl (fun g i => g ||| BitVec.ofNat 32 (el l i).2) g) x.fpstat) ∧
  (∀ e ∈ unpackTable, ∀ (s : State) (k q : Nat) (x : Quad) (a : RArgs), s.HasTurn k q x →
    let el := fun l i => F32.convert 0 false (e.2.1.value (x.group l a.a.toNat e.2.2.1 / 2 ^ (e.2.1.width * i) % 2 ^ e.2.1.width))
    ∃ t y, exec (e.1 a) s = .next t ∧ QuadBecomes s t k q y ∧ AdvancesFlags x y a.b.size ∧ y.preds = x.preds ∧
      WritesGroup x y (x.guarded a) a.d.toNat e.2.2.2
        (fun l => ((List.range e.2.2.2).map (fun i => (el l i).1 * 2 ^ (32 * i))).sum) ∧
      y.fpstat = (x.guarded a).foldl (fun g l => (List.range e.2.2.2).foldl (fun g i => g ||| BitVec.ofNat 32 (el l i).2) g) x.fpstat) ∧
  ∀ (s : State) (k q : Nat) (x : Quad) (w : Wg) (a : RArgs), s.HasTurn k q x → s.wg? k = some w →
    (w.mtx.bookSet = false → exec (.vqdec a) s = .next (s.raise k q (whole cCODEBOOK_UNSET x.cl.pc x.mask) x.cl x.sup false)) ∧
    (w.mtx.bookSet = true → ∃ t y, exec (.vqdec a) s = .next t ∧ QuadBecomes s t k q y ∧ AdvancesRegs x y a.b.size ∧
      WritesGroup x y (x.guarded a) a.d.toNat 4 (fun l =>
        let code := (x.reg l a.a.toNat).toNat % 2 ^ 16
        let entry := (Tab.get 0 w.mtx.book (code % 256)).toNat
        ((List.range 8).map (fun j => (BF16.convert 0 false (vqNum entry code j)).1 * 2 ^ (16 * j))).sum))

/-- ADDM64, SUBM64, MULM64 and NTTBF under the moduli that R164 requires give results reduced modulo MODQ (R165, R166);
otherwise they raise MOD_BAD, precise, and change no register. -/
def Claims.ModularForms : Prop :=
  ∀ (s : State) (k q : Nat) (x : Quad) (w : Wg) (a : RArgs), s.HasTurn k q x → s.wg? k = some w →
    let m := x.modq.toNat
    let v := fun l n => (x.pair l n).toNat % m
    let b := fun l => (x.src64 l a.b).toNat % m
    ((2 ≤ m ∧ x.modb.toNat = 2 ^ (2 * (m.log2 + 1)) / m) →
      (∀ e ∈ ([(.addm64, fun u z => (u + z) % m), (.subm64, fun u z => (u + m - z) % m), (.mulm64, fun u z => u * z % m)] :
          List ((RArgs → Instr) × (Nat → Nat → Nat))),
        ∃ t y, exec (e.1 a) s = .next t ∧ QuadBecomes s t k q y ∧ AdvancesRegs x y a.b.size ∧
          WritesPair x y (x.guarded a) a.d.toNat (fun l => BitVec.ofNat 64 (e.2 (v l a.a.toNat) (b l)))) ∧
      ((Instr.nttbf a).wellFormed = true → ∃ t y z, exec (.nttbf a) s = .next t ∧ QuadBecomes s t k q y ∧ AdvancesRegs x y a.b.size ∧
        WritesPair x z (x.guarded a) a.d.toNat (fun l =>
          BitVec.ofNat 64 ((v l a.d.toNat + b l * v l a.a.toNat % m) % m)) ∧
        z.depth = x.depth ∧
        WritesPair z y (x.guarded a) a.a.toNat (fun l =>
          BitVec.ofNat 64 ((v l a.d.toNat + m - b l * v l a.a.toNat % m) % m)))) ∧
    (¬ (2 ≤ m ∧ x.modb.toNat = 2 ^ (2 * (m.log2 + 1)) / m) →
      ∀ c ∈ ([.addm64, .subm64, .mulm64, .nttbf] : List (RArgs → Instr)),
        exec (c a) s = .next (s.raise k q (whole cMOD_BAD x.cl.pc x.mask) x.cl x.sup false))

/-- The forms over register groups: packing, unpacking and modular arithmetic. -/
def Obligations.GroupAndModularForms : Prop := Claims.GroupForms ∧ Claims.ModularForms

/-! ### Control (08_quad_control) -/

/-- BR: taken when the lanes whose condition is 1 are some of the active lanes (mode any) or all of them (all, uniform); mode
uniform raises BR_UNIFORM when they are some but not all. The target is h + 4 × SignExt(OFF16) (R169). -/
def Claims.BranchForms : Prop :=
  ∀ (s : State) (k q : Nat) (w : Wg) (x : Quad) (a : BArgs), s.Issues k q w x →
    let holds := fun l => x.guard l a.pn a.p = true
    ((if a.mode.toNat = 0 then ∃ l ∈ x.active, holds l else ∀ l ∈ x.active, holds l) →
      s.Transfers k q w x (.br a) (x.cl.hdr + BitVec.ofInt 64 (4 * a.off.toInt)) x) ∧
    ((if a.mode.toNat = 0 then ∀ l ∈ x.active, ¬ holds l
        else (∃ l ∈ x.active, ¬ holds l) ∧ (a.mode.toNat = 2 → ∀ l ∈ x.active, ¬ holds l)) →
      ∃ t y, exec (.br a) s = .next t ∧ QuadBecomes s t k q y ∧ Passes x y) ∧
    (a.mode.toNat = 2 → (∃ l ∈ x.active, holds l) → (∃ l ∈ x.active, ¬ holds l) → s.Raises k q x (.br a) cBR_UNIFORM)

/-- BRD pushes an entry and lets the failing lanes run on, or goes to the target when no lane fails; it raises RECONV_OVF
with 8 entries. JOIN goes to the entry's pending half, or pops it and goes to its own target. JMPR goes to the route that
all active lanes hold (R171, R172, R174). -/
def Claims.DivergenceAndJumpForms : Prop :=
  ∀ (s : State) (k q : Nat) (w : Wg) (x : Quad), s.Issues k q w x →
    let target := fun (off : BitVec 16) => x.cl.hdr + BitVec.ofInt 64 (4 * off.toInt)
    (∀ (a : BArgs),
      let taken := maskOf (x.active.filter (fun l => x.guard l a.pn a.p))
      (x.recon.length < 8 → x.mask &&& ~~~taken ≠ 0 →
        ∃ t, exec (.brd a) s = .next t ∧ QuadBecomes s t k q
          { x with recon := ⟨x.mask, taken, target a.off⟩ :: x.recon, mask := x.mask &&& ~~~taken, cl := x.cl.next 1, await := none, got := [] }) ∧
      (x.recon.length < 8 → x.mask &&& ~~~taken = 0 →
        s.Transfers k q w x (.brd a) (target a.off) { x with recon := ⟨x.mask, 0, target a.off⟩ :: x.recon, mask := taken }) ∧
      (8 ≤ x.recon.length → s.Raises k q x (.brd a) cRECONV_OVF)) ∧
    (∀ (off : BitVec 16),
      (x.recon = [] → s.Transfers k q w x (.join off) (target off) x) ∧
      (∀ m pm ppc rest, x.recon = ⟨m, pm, ppc⟩ :: rest → pm ≠ 0 →
        s.Transfers k q w x (.join off) ppc { x with mask := pm, recon := ⟨m, 0, ppc⟩ :: rest }) ∧
      (∀ m ppc rest, x.recon = ⟨m, 0, ppc⟩ :: rest →
        s.Transfers k q w x (.join off) (target off) { x with mask := m, recon := rest })) ∧
    ∀ (a : BitVec 6),
      ((∀ l ∈ x.active, x.pair l a.toNat = x.pair x.lowest a.toNat) →
        s.Transfers k q w x (.jmpr a) (x.pair x.lowest a.toNat) x) ∧
      ((∃ l ∈ x.active, x.pair l a.toNat ≠ x.pair x.lowest a.toNat) → s.Raises k q x (.jmpr a) cBR_UNIFORM)

/-- Branches, the divergence they open, JOIN and indirect jumps. -/
def Obligations.BranchesAndDivergence : Prop := Claims.BranchForms ∧ Claims.DivergenceAndJumpForms

/-- CALL and CALLR write the link of every lane in the caller's window, push SLIDE, move the window base by 2 × SLIDE, so that the
caller's register 2 × SLIDE + n is the callee's register n, and go to the target. Every other physical register is as it was, and the live
registers that the physical file no longer holds go to the spill area, the one at depth i to private word 256 + i. A full frame
stack or a depth beyond 448 raises WIN_SPILL, with TLEVEL 7; a fault leaves window, link and frame stack unchanged (R175, R177). -/
def Claims.CallForms : Prop :=
  ∀ (s : State) (k q : Nat) (w : Wg) (x : Quad), s.Issues k q w x →
    let called := fun (i : Instr) (slide : BitVec 5) (target : W64) =>
      let up := 2 * slide.toNat
      (x.frames.length < 64 → x.depth + up ≤ 448 → 0 < slide.toNat → ∃ y,
        s.Transfers k q w x i target y ∧
        y = { x with regs := y.regs, priv := y.priv, depth := x.depth + up, frames := slide.toNat :: x.frames } ∧
        (∀ l ∈ lanes, y.link l = x.cl.hdr + BitVec.ofNat 64 (4 * (x.cl.idx + x.cl.rem))) ∧
        (∀ l n, n < 256 → ¬ (l ∈ lanes ∧ (n = (x.depth + up - 1) % 256 ∨ n = (x.depth + up - 2) % 256)) →
          Tab.get 0 y.regs (l * 256 + n) = Tab.get 0 x.regs (l * 256 + n)) ∧
        ∀ l n, n < 512 → Tab.get 0 y.priv (l * 512 + n) =
          if l ∈ lanes ∧ x.depth ≤ n - 256 + 192 ∧ 256 ≤ n ∧ n - 256 + 192 < x.depth + up then Tab.get 0 x.regs (l * 256 + (n - 256) % 256)
          else Tab.get 0 x.priv (l * 512 + n)) ∧
      ((64 ≤ x.frames.length ∨ 448 < x.depth + up) →
        exec i s = .next (s.raise k q ⟨cWIN_SPILL, 7, 0, 0, 0, x.mask, x.cl.pc, false⟩ x.cl x.sup false))
    (∀ (slide : BitVec 5) (off : BitVec 16),
      called (.call slide off) slide (x.cl.hdr + BitVec.ofInt 64 (4 * off.toInt))) ∧
    ∀ (slide : BitVec 5) (a : BitVec 6),
      ((∀ l ∈ x.active, x.pair l a.toNat = x.pair x.lowest a.toNat) →
        called (.callr slide a) slide (x.pair x.lowest a.toNat)) ∧
      ((∃ l ∈ x.active, x.pair l a.toNat ≠ x.pair x.lowest a.toNat) → s.Raises k q x (.callr slide a) cBR_UNIFORM)

/-- RET goes to the link that the active lanes agree on, pops the frame and moves the base back; the registers that the physical file
holds again come from the spill area. Links that differ raise BR_UNIFORM, and an empty frame stack WIN_UNDER (R175, R178). -/
def Claims.ReturnForm : Prop :=
  ∀ (s : State) (k q : Nat) (w : Wg) (x : Quad), s.Issues k q w x →
    (∀ sl rest, x.frames = sl :: rest → 2 * sl ≤ x.depth → x.depth ≤ 448 → sl < 32 →
      ((∀ l ∈ x.active, x.link l = x.link x.lowest) → ∃ y,
        s.Transfers k q w x .ret (x.link x.lowest) y ∧ y = { x with regs := y.regs, depth := x.depth - 2 * sl, frames := rest } ∧
        ∀ l n, n < 256 → Tab.get 0 y.regs (l * 256 + n) =
          match (List.range 256).find? (fun i => l ∈ lanes ∧ x.depth - 2 * sl ≤ i + 192 ∧ i + 192 < x.depth ∧ i % 256 = n) with
          | some i => Tab.get 0 x.priv (l * 512 + 256 + i)
          | none => Tab.get 0 x.regs (l * 256 + n)) ∧
      ((∃ l ∈ x.active, x.link l ≠ x.link x.lowest) → s.Raises k q x .ret cBR_UNIFORM)) ∧
    (x.frames = [] → s.Raises k q x .ret cWIN_UNDER)

/-- CALL, CALLR and RET. -/
def Obligations.CallForms : Prop := Claims.CallForms ∧ Claims.ReturnForm

/-- REGANG, SHFG and VOTE complete, in every live quad of the gang, when the gang's other live quads wait at the same address with the values
`vals` that they brought: SHFG gives each guarded active lane the A value of gang lane b[4:0], 0 where that quad is not live;
VOTE gives it the ballot; the gang is unparted and the lane masks stay. While another live quad of the gang is not there, the quad waits, with
what it has brought; where one waits at another address, REGANG_MISMATCH is raised and the lowest quad is the origin (R155, R179). The
first premises say that the gang's live quads are in ascending order and that none executes an instruction of RETT again. -/
def Claims.GangRendezvous : Prop :=
  ∀ (s : State) (k q : Nat) (w : Wg) (x : Quad) (vals : Nat → List Nat), s.Issues k q w x → x.live = true →
    (w.quads.map (·.1)).Pairwise (· < ·) → w.halt = none →
    let meets := fun (e : Nat × Quad) => ∃ n c, e.2.await = some ⟨.rendezvous (vals e.1), n, c⟩
    let brings := fun (e : Quad) (a : RArgs) => lanes.map (fun l => (e.reg l a.a.toNat).toNat)
    let votes := fun (e : Quad) (a : RArgs) => lanes.map (fun l => if l ∈ e.guarded a ∧ e.reg l a.a.toNat ≠ 0 then 1 else 0)
    let unparted := fun (t : State) => ∃ v, t.wg? k = some v ∧ (v.gang q).parted = false
    ((∀ e ∈ w.gangQuads (q / 8), e.1 ≠ q → e.2.cl.pc = x.cl.pc ∧ e.2.resume = none ∧ meets e) →
      (∀ (id : BitVec 8), ∃ t, exec (.regang id) s = .next t ∧ unparted t ∧
        ∀ e ∈ w.gangQuads (q / 8), ∃ y, t.quad? k e.1 = some y ∧ y.cl = e.2.cl.next 1 ∧ y.await = none ∧ y.regs = e.2.regs ∧
          y.mask = e.2.mask) ∧
      (∀ (a : RArgs), ∃ t, exec (.shfg a) s = .next t ∧ unparted t ∧
        ∀ e ∈ w.gangQuads (q / 8), ∃ y, t.quad? k e.1 = some y ∧ y.cl = e.2.cl.next a.b.size ∧ y.await = none ∧ y.mask = e.2.mask ∧
          WritesReg e.2 y (e.2.guarded a) a.d.toNat (fun l =>
            let n := (e.2.src l a.b).toNat % 32
            let r := q / 8 * 8 + n / 4
            if (w.gangQuads (q / 8)).any (fun f => f.1 == r) then
              BitVec.ofNat 32 ((if r = q then brings x a else vals r).getD (n % 4) 0)
            else 0)) ∧
      ∀ (a : RArgs), ∃ t, exec (.vote a) s = .next t ∧ unparted t ∧
        ∀ e ∈ w.gangQuads (q / 8), ∃ y, t.quad? k e.1 = some y ∧ y.cl = e.2.cl.next 1 ∧ y.await = none ∧ y.mask = e.2.mask ∧
          WritesReg e.2 y (e.2.guarded a) a.d.toNat (fun _ =>
            BitVec.ofNat 32 (((w.gangQuads (q / 8)).map (fun f => ((List.range 4).map (fun l =>
              (if f.1 = q then votes x a else vals f.1).getD l 0 * 2 ^ (4 * (f.1 % 8) + l))).sum)).sum))) ∧
    ((∃ e ∈ w.gangQuads (q / 8), e.1 ≠ q ∧ ∀ v n c, e.2.await ≠ some ⟨.rendezvous v, n, c⟩) →
      (∀ (id : BitVec 8), ∃ t, exec (.regang id) s = .next t ∧ Waits s t k q x (.rendezvous [])) ∧
      (∀ (a : RArgs), ∃ t, exec (.shfg a) s = .next t ∧ Waits s t k q x (.rendezvous (brings x a))) ∧
      ∀ (a : RArgs), ∃ t, exec (.vote a) s = .next t ∧ Waits s t k q x (.rendezvous (votes x a))) ∧
    ((∀ e ∈ w.gangQuads (q / 8), e.1 ≠ q → meets e) → (∃ e ∈ w.gangQuads (q / 8), e.1 ≠ q ∧ e.2.cl.pc ≠ x.cl.pc) →
      ∀ e rest, w.gangQuads (q / 8) = e :: rest →
        ∀ i : Instr, (∃ id, i = .regang id) ∨ (∃ a, i = .shfg a) ∨ (∃ a, i = .vote a) →
          exec i s = .next (s.raise k e.1 (whole cREGANG_MISMATCH e.2.cl.pc e.2.mask) e.2.cl e.2.sup false))

/-- Table 8-5: BARA arrives, BARW waits while the quad's arrival of the phase stands, BARS does both; the arrival that is
the last expected one completes the phase: its number advances and every party's flag clears. An arrival waits for the quad's earlier
operations of Q2, Q3, Q4 and Q6, and that it does so at issue is the model's choice (log entry 19). A barrier that expects no quad raises BAR_MISUSE, and so does a second arrival in a phase
(R24, R180, R181). -/
def Claims.BarrierForms : Prop :=
  ∀ (s : State) (k q : Nat) (w : Wg) (x : Quad) (b : BitVec 4), s.Issues k q w x →
    let n := b.toNat
    let bar := Tab.get (⟨0, []⟩ : Barrier) w.bars n
    let expected := w.barq.getD n 0 + (if w.mseq.getLsbD n then 1 else 0) + (if w.cseq.getLsbD n then 1 else 0)
    let arrived : Tab Barrier := Tab.set ⟨0, []⟩ w.bars n
      (if bar.arrived.length + 1 = expected then ⟨bar.phase + 1, []⟩ else ⟨bar.phase, bar.arrived ++ [q]⟩)
    ((x.await.any (fun a => a.what == .bar)) = false →
      (w.barq.getD n 0 ≠ 0 → q ∉ bar.arrived → s.drained w.uid (.quad k q) releaseMask x.sup = true →
        (∃ t, exec (.bara b) s = .next t ∧ WgBecomes s t k { w with bars := arrived, quads := w.passing q }) ∧
        (bar.arrived.length + 1 = expected →
          ∃ t, exec (.bars b) s = .next t ∧ WgBecomes s t k { w with bars := arrived, quads := w.passing q }) ∧
        (bar.arrived.length + 1 ≠ expected →
          ∃ t y, exec (.bars b) s = .next t ∧ t.quad? k q = some y ∧ y.cl = x.cl.issued ∧ (y.await.any (fun a => a.what == .bar)) = true ∧
            ∃ v, t.wg? k = some v ∧ v.bars = arrived)) ∧
      (w.barq.getD n 0 ≠ 0 → q ∉ bar.arrived → s.drained w.uid (.quad k q) releaseMask x.sup = false →
        ∀ c ∈ ([.bara, .bars] : List (BitVec 4 → Instr)), ∃ t, exec (c b) s = .next t ∧ Waits s t k q x .stall) ∧
      (w.barq.getD n 0 ≠ 0 → q ∈ bar.arrived → ∀ c ∈ ([.bara, .bars] : List (BitVec 4 → Instr)), s.Raises k q x (c b) cBAR_MISUSE) ∧
      (w.barq.getD n 0 = 0 → s.Raises k q x (.bars b) cBAR_MISUSE)) ∧
    ((x.await.any (fun a => a.what == .bar)) = true →
      (q ∉ bar.arrived → ∃ t y, exec (.bars b) s = .next t ∧ QuadBecomes s t k q y ∧ Passes x y) ∧
      (q ∈ bar.arrived → exec (.bars b) s = .next s)) ∧
    (w.barq.getD n 0 ≠ 0 → q ∉ bar.arrived → ∃ t y, exec (.barw b) s = .next t ∧ QuadBecomes s t k q y ∧ Passes x y) ∧
    (w.barq.getD n 0 ≠ 0 → q ∈ bar.arrived → ∃ t, exec (.barw b) s = .next t ∧ Waits s t k q x .bar) ∧
    (w.barq.getD n 0 = 0 → ∀ c ∈ ([.bara, .barw] : List (BitVec 4 → Instr)), s.Raises k q x (c b) cBAR_MISUSE)

/-- CBARS: the first arrival of a phase fixes its id and another id raises BAR_MISUSE; an arrival that leaves no live quad of a
member without one completes the phase, and any other leaves the quad in a counted wait, which ends once the phase
number has advanced. It waits, at issue, for the quad's earlier operations of Q2, Q3, Q4 and Q6 (R182). -/
def Claims.ClusterBarrierForm : Prop :=
  ∀ (s : State) (k q : Nat) (w : Wg) (x : Quad) (id : BitVec 8), s.Issues k q w x →
    let c := Tab.get (⟨none, 0, []⟩ : CBar) s.sched.cbars w.unit
    let all := ∀ e ∈ s.wgs, e.2.unit = w.unit → ∀ z ∈ e.2.quads, z.2.live = true →
      (e.2.wgid, z.1) ∈ c.arrived ++ [(w.wgid, q)]
    let fixed := c.id = none ∨ c.id = some id.toNat
    ((∀ ph n m, x.await ≠ some ⟨.cbars ph, n, m⟩) →
      (fixed → s.drained w.uid (.quad k q) releaseMask x.sup = true →
        (all → ∃ t y, exec (.cbars id) s = .next t ∧ t.quad? k q = some y ∧ Passes x y ∧
          t.cbar w.unit = ⟨none, c.phase + 1, []⟩) ∧
        (¬ all → ∃ t y n, exec (.cbars id) s = .next t ∧ t.quad? k q = some y ∧ y.cl = x.cl.issued ∧ y.await = some ⟨.cbars c.phase, 0, n⟩ ∧
          t.cbar w.unit = ⟨some id.toNat, c.phase, c.arrived ++ [(w.wgid, q)]⟩)) ∧
      (fixed → s.drained w.uid (.quad k q) releaseMask x.sup = false →
        ∃ t, exec (.cbars id) s = .next t ∧ Waits s t k q x .stall) ∧
      (¬ fixed → s.Raises k q x (.cbars id) cBAR_MISUSE)) ∧
    ∀ ph n m, x.await = some ⟨.cbars ph, n, m⟩ →
      (c.phase ≠ ph → ∃ t y, exec (.cbars id) s = .next t ∧ QuadBecomes s t k q y ∧ Passes x y) ∧
      (c.phase = ph → exec (.cbars id) s = .next s)

/-- The meetings: of a gang (RDV, REGANG), of a workgroup at its barriers, and of a cluster. -/
def Obligations.MeetingForms : Prop := Claims.GangRendezvous ∧ Claims.BarrierForms ∧ Claims.ClusterBarrierForm

/-- FORK starts the matrix context, and the copy context unless its entry is none, at their entries with k0 the argument and every
other register zero, the copy context with invalid layout records and no lost lines; RDV completes, in every quad that waits at one,
once neither runs and Q0 and Q1 are performed, and leaves both idle. FORK waits, at issue, for the quad's earlier operations; a misaligned
entry raises BR_TARGET, and a context that is not idle BAR_MISUSE (R23, R183, R184, R274). -/
def Obligations.SequencerStartAndMeet : Prop :=
  ∀ (s : State) (k q : Nat) (w : Wg) (x : Quad), s.Issues k q w x →
    (∀ (m c a : BitVec 6),
      let aligned := (x.pair x.lowest m.toNat).toNat % 4 = 0 ∧ (c.toNat ≠ 63 → (x.pair x.lowest c.toNat).toNat % 4 = 0)
      let idle := w.mtx.seq.mode = .idle ∧ w.cpy.seq.mode = .idle
      (aligned → idle → s.drained w.uid (.quad k q) releaseMask x.sup = true →
        ∃ t v, exec (.fork m c a) s = .next t ∧ WgBecomes s t k v ∧
          v = { w with mtx := v.mtx, cpy := v.cpy, quads := w.passing q } ∧ v.mtx = { w.mtx with seq := v.mtx.seq } ∧
          v.mtx.seq.mode = .started ∧ v.mtx.seq.cl = Cl.start (x.pair x.lowest m.toNat) ∧
          (∀ n, v.mtx.seq.reg n = if n = 0 then x.pair x.lowest a.toNat else 0) ∧
          (if c.toNat = 63 then v.cpy = w.cpy
           else v.cpy.seq.mode = .started ∧ v.cpy.seq.cl = Cl.start (x.pair x.lowest c.toNat) ∧ v.cpy.ly = [] ∧ v.cpy.drops = 0 ∧
             ∀ n, v.cpy.seq.reg n = if n = 0 then x.pair x.lowest a.toNat else 0)) ∧
      (aligned → idle → s.drained w.uid (.quad k q) releaseMask x.sup = false →
        ∃ t, exec (.fork m c a) s = .next t ∧ Waits s t k q x .stall) ∧
      (aligned → ¬ idle → s.Raises k q x (.fork m c a) cBAR_MISUSE) ∧
      (¬ aligned → s.Raises k q x (.fork m c a) cBR_TARGET)) ∧
    (w.mtx.seq.mode ≠ .started → w.cpy.seq.mode ≠ .started → s.drained w.uid (.quad k q) 3 x.sup = true →
      (w.quads.map (·.1)).Pairwise (· < ·) →
      ∃ t y v, exec .rdv s = .next t ∧ t.quad? k q = some y ∧ y.cl = x.cl.next 1 ∧ y.await = none ∧ t.wg? k = some v ∧
        v.mtx.seq.mode = .idle ∧ v.cpy.seq.mode = .idle ∧
        ∀ e ∈ w.quads, (e.2.await.any (fun a => a.what == .rdv)) = true → e.2.live = true → e.2.resume = none →
          ∃ z, t.quad? k e.1 = some z ∧ z.cl = e.2.cl.next 1 ∧ z.await = none) ∧
    ((w.mtx.seq.mode = .started ∨ w.cpy.seq.mode = .started ∨ s.drained w.uid (.quad k q) 3 x.sup = false) →
      ∃ t, exec .rdv s = .next t ∧ Waits s t k q x .rdv)

/-- NOP and YIELD pass, YIELD with the quad ready since this cycle; IDEMB opens a region, recording its address, the depth and the
masked registers, and IDEME closes it, each raising IDEM_NEST otherwise (R188, R190). -/
def Claims.RegionForms : Prop :=
  ∀ (s : State) (k q : Nat) (w : Wg) (x : Quad), s.Issues k q w x →
    (∃ t y, exec .nop s = .next t ∧ QuadBecomes s t k q y ∧ Passes x y) ∧
    (∃ t y, exec .yield s = .next t ∧ QuadBecomes s t k q y ∧
      y = { x with since := some (s.cycle (dieOf k)), cl := x.cl.next 1, await := none, got := [] }) ∧
    (∀ (live : BitVec 16), x.idem = none → ∃ t y d, exec (.idemb live) s = .next t ∧ QuadBecomes s t k q y ∧
      y = { x with idem := some d, cl := x.cl.next 1, await := none, got := [] } ∧ d.addr = x.cl.pc ∧ d.depth = x.depth ∧
      d.mask = live ∧ d.after = x.cl.next 1 ∧
      ∀ l n, l < 4 → n < 16 → Tab.get 0 d.regs (l * 16 + n) = if live.getLsbD n then x.reg l n else 0) ∧
    (∀ (live : BitVec 16), x.idem ≠ none → s.Raises k q x (.idemb live) cIDEM_NEST) ∧
    (x.idem ≠ none → ∃ t, exec .ideme s = .next t ∧ QuadBecomes s t k q { x with idem := none, cl := x.cl.next 1, await := none, got := [] }) ∧
    (x.idem = none → s.Raises k q x .ideme cIDEM_NEST)

/-- QFENCE waits for the operations that were in the queues of its mask, and not performed, when it issued, and for no later one; FENCEA
until its quad's counters are zero, UAD alone at a scope below DEV, or with paths named until theirs are; FENCE, at issue, until every
earlier operation of Q2, Q4 and Q6, and but for kind ld of Q3, is performed, and of kind all or st towards SYS until everything is
acknowledged and returned (R22, R187, R230, R239, R249, R250; of FENCE's two places to wait log entry 19 takes the issue). -/
def Claims.FenceForms : Prop :=
  ∀ (s : State) (k q : Nat) (w : Wg) (x : Quad), s.Issues k q w x →
    (∀ (mask : BitVec 7),
      let waiting := s.unperformed w.uid (.quad k q) mask.toNat x.sup
      let passes := ∃ t y, exec (.qfence mask) s = .next t ∧ QuadBecomes s t k q y ∧ Passes x y
      ((∀ ops n c, x.await ≠ some ⟨.qfence ops, n, c⟩) →
        (waiting = [] → passes) ∧ (waiting ≠ [] → ∃ t, exec (.qfence mask) s = .next t ∧ Waits s t k q x (.qfence waiting))) ∧
      ∀ ops n c, x.await = some ⟨.qfence ops, n, c⟩ →
        ((∀ id ∈ ops, id ∉ waiting) → passes) ∧
        ((∃ id ∈ ops, id ∈ waiting) → ∃ t m, exec (.qfence mask) s = .next t ∧ Waits s t k q x (.qfence m) ∧
          ∀ id, id ∈ m ↔ id ∈ ops ∧ id ∈ waiting)) ∧
    (∀ (scope : BitVec 3) (paths : BitVec 4),
      let met := if paths = 0 then x.uad = 0 ∧ (3 ≤ scope.toNat → x.uap = 0)
        else s.allSent w.uid (.quad k q) = true ∧ ∀ n, n < 4 → paths.getLsbD n = true → Tab.get 0 x.path n = 0
      (met → ∃ t y, exec (.fencea scope paths) s = .next t ∧ QuadBecomes s t k q y ∧ Passes x y) ∧
      (¬ met → ∃ t, exec (.fencea scope paths) s = .next t ∧ Waits s t k q x .other)) ∧
    ∀ (scope : BitVec 3) (kind : BitVec 2),
      let met := s.drained w.uid (.quad k q) (if kind.toNat = 1 then 0x54 else releaseMask) x.sup = true ∧
        (scope.toNat = 5 → kind.toNat ≠ 1 → x.uad = 0 ∧ x.uap = 0 ∧ s.outstandingLoads w.uid (.quad k q) = 0)
      (met → ∃ t y, exec (.fence scope kind) s = .next t ∧ QuadBecomes s t k q y ∧ Passes x y) ∧
      (¬ met → ∃ t, exec (.fence scope kind) s = .next t ∧ Waits s t k q x .stall)

/-- TRAP raises cause 0x38 + n, precise, with TLANES the active lanes (R189). In user mode with a handler and no halt, that starts a halt with
the quad as its origin, at the TRAP's own place. -/
def Claims.TrapForm : Prop :=
  ∀ (s : State) (k q : Nat) (w : Wg) (x : Quad) (n : BitVec 3), s.Issues k q w x → q < 64 → x.sup = false → w.halt = none →
    (s.csr (dieOf k) w.tenant).tvec ≠ 0 →
    ∃ t, exec (.trap n) s = .next t ∧ WgBecomes s t k { w with
      quads := w.quads.upd q (fun z => { z with cl := x.cl.issued })
      was := none
      halt := some ⟨q, ⟨0x38 + n.toNat, 15, 0, 0, 0, x.mask, x.cl.pc, false⟩, x.cl.issued, false, false, .stopping, 0, none, s.nextId⟩ }

/-- The fences, the idempotent regions and TRAP. -/
def Obligations.FencesRegionsAndTrap : Prop := Claims.FenceForms ∧ Claims.RegionForms ∧ Claims.TrapForm

/-- CSRR writes a user CSR of Tables 4-2 and 8-7 to D in every active lane, to a pair when the CSR is 64 bits wide; CSRW writes FPSTAT,
MODQ or MODB from the lowest active lane; an unknown id, a read-only one, an odd register for a pair, FPSTAT above 31 and a MODQ of
2^62 or more raise ILL_FIELD and change nothing (R83, R142, R164, R191). -/
def Obligations.UserCsrForms : Prop :=
  ∀ (s : State) (k q : Nat) (w : Wg) (x : Quad) (a : IArgs), s.Issues k q w x →
    let id := a.imm.toNat
    let v := x.reg x.lowest a.a.toNat
    let p := x.pair x.lowest a.a.toNat
    (∀ e ∈ ([(0x000, fun l => l), (0x001, fun _ => q), (0x002, fun _ => q / 8), (0x003, fun _ => w.wgid), (0x004, fun _ => k / 4 % 24),
        (0x005, fun _ => k / 96 % 6), (0x006, fun _ => k / 576), (0x007, fun _ => w.tenant),
        (0x008, fun _ => (s.selfpl w.tenant).toNat), (0x00A, fun _ => x.fpstat.toNat), (0x00D, fun _ => Tab.get 0 x.path 0),
        (0x00E, fun _ => Tab.get 0 x.path 1), (0x00F, fun _ => Tab.get 0 x.path 2), (0x010, fun _ => Tab.get 0 x.path 3)] : List (Nat × (Nat → Nat))),
      id = e.1 → ∃ t y, exec (.csrr a) s = .next t ∧ QuadBecomes s t k q y ∧ AdvancesRegs x y 1 ∧
        WritesReg x y x.active a.d.toNat (fun l => BitVec.ofNat 32 (e.2 l))) ∧
    (∀ e ∈ ([(0x009, s.cycle (k / 576)), (0x00B, x.modq.toNat), (0x00C, x.modb.toNat),
        (0x011, ((x.idem.map Idem.addr).getD 0).toNat)] : List (Nat × Nat)), id = e.1 →
      (a.d.toNat % 2 = 0 → ∃ t y, exec (.csrr a) s = .next t ∧ QuadBecomes s t k q y ∧ AdvancesRegs x y 1 ∧
          WritesPair x y x.active a.d.toNat (fun _ => BitVec.ofNat 64 e.2)) ∧
      (a.d.toNat % 2 = 1 → s.Raises k q x (.csrr a) cILL_FIELD)) ∧
    (0x012 ≤ id → s.Raises k q x (.csrr a) cILL_FIELD) ∧
    (id = 0x00A → v.toNat < 32 →
      ∃ t, exec (.csrw a) s = .next t ∧ QuadBecomes s t k q { x with fpstat := v, cl := x.cl.next 1, await := none, got := [] }) ∧
    (id = 0x00B → a.a.toNat % 2 = 0 → p.toNat < 2 ^ 62 →
      ∃ t, exec (.csrw a) s = .next t ∧ QuadBecomes s t k q { x with modq := p, cl := x.cl.next 1, await := none, got := [] }) ∧
    (id = 0x00C → a.a.toNat % 2 = 0 →
      ∃ t, exec (.csrw a) s = .next t ∧ QuadBecomes s t k q { x with modb := p, cl := x.cl.next 1, await := none, got := [] }) ∧
    ((id = 0x00A ∧ 32 ≤ v.toNat) ∨ (id = 0x00B ∧ (2 ^ 62 ≤ p.toNat ∨ a.a.toNat % 2 = 1)) ∨ (id = 0x00C ∧ a.a.toNat % 2 = 1) ∨
        (id ≠ 0x00A ∧ id ≠ 0x00B ∧ id ≠ 0x00C) →
      s.Raises k q x (.csrw a) cILL_FIELD)

/-! ### Memory instructions: what issues (10_memory_ops) -/

/-- Every M-format load, LDAQ and every M-format store issues one operation for its active lanes: each lane accesses the pair A plus the scaled
offset (LDAQ and STRL the pair A alone), in as many line accesses as lines are touched; a load's destination becomes pending under a window
of LA (LDAQ's under none), a store carries the low bytes of its registers; memory itself is not yet changed. The premises are that no lane meets
a fault at issue and that there is room. A store waits at issue while its quad has 16 entries, a load while the quad has 256 transactions, and
an STRL that releases while an earlier operation of Q4 or Q6 is not performed, which is the model's choice of where it waits (log entry 19;
R66, R226, R230 to R237). -/
def Obligations.LoadAndStoreForms : Prop :=
  ∀ (s : State) (k q : Nat) (w : Wg) (x : Quad), s.Issues k q w x → x.active ≠ [] →
    let acq := fun (a : AArgs) => if a.ord.getLsbD 0 then some a.scope.toNat else none
    let rel := fun (a : AArgs) => if a.ord.getLsbD 1 then some a.scope.toNat else none
    (∀ e ∈ loadTable, ∀ (a : MArgs),
      let route := fun l => x.pair l a.a.toNat + BitVec.ofInt 64 (a.off.toInt * e.2.1)
      let as := x.active.map (fun l => (⟨l, route l, e.2.1, 0, 0, 0⟩ : Access))
      (∀ z ∈ as, CleanAt s w .load none z) →
      (HasRoom s k q w 4 → ∃ t, exec (e.1 a) s = .next t ∧
        Entered s t k q w x (.load e.2.1 e.2.2.2 none) as a.d.toNat e.2.2.1 1 (some a.la.toNat) false) ∧
      (256 ≤ s.transUsed w.uid (.quad k q) → ∃ t, exec (e.1 a) s = .next t ∧ Waits s t k q x .stall)) ∧
    (∀ e ∈ storeTable, ∀ (a : MArgs),
      let route := fun l => x.pair l a.a.toNat + BitVec.ofInt 64 (a.off.toInt * e.2.1)
      let as := x.active.map (fun l => (⟨l, route l, e.2.1, x.group l a.d.toNat e.2.2.1 % 2 ^ (8 * e.2.1), 0, 0⟩ : Access))
      (∀ z ∈ as, CleanAt s w .store none z) →
      (HasRoom s k q w 4 → ∃ t, exec (e.1 a) s = .next t ∧ Entered s t k q w x e.2.2.2 as 0 0 1 none true) ∧
      (16 ≤ s.entriesUsed w.uid (.quad k q) → ∃ t, exec (e.1 a) s = .next t ∧ Waits s t k q x .stall)) ∧
    (∀ (a : AArgs),
      let as := x.active.map (fun l => (⟨l, x.pair l a.a.toNat, 4, 0, 0, 0⟩ : Access))
      (∀ z ∈ as, CleanAt s w .load (some a.scope.toNat) z) → HasRoom s k q w 4 →
      ∃ t, exec (.ldaq a) s = .next t ∧ Entered s t k q w x (.load 4 false (acq a)) as a.d.toNat 1 1 (some 0) false) ∧
    ∀ (a : AArgs),
      let as := x.active.map (fun l => (⟨l, x.pair l a.a.toNat, 4, (x.reg l a.d.toNat).toNat, 0, 0⟩ : Access))
      let free := rel a = none ∨ s.relMayIssue ⟨k, q, w, x⟩ a.scope.toNat = true
      ((∀ z ∈ as, CleanAt s w .store (some a.scope.toNat) z) → HasRoom s k q w 4 → free →
        ∃ t, exec (.strl a) s = .next t ∧ Entered s t k q w x (.strl (rel a)) as a.d.toNat 0 1 none true) ∧
      (¬ free → ∃ t, exec (.strl a) s = .next t ∧ Waits s t k q x .stall)

/-- Every atomic of Table 10-4 on device memory issues one operation for its active lanes, with v[B] as operand and v[D] as comparand, and no
lookahead; one that releases waits first, at issue, for the earlier operations of Q4 and Q6 (log entry 19). GLD and GST access, in each guarded
active lane, the base of the lowest such lane plus v[B], inside the base's extent (R66, R230, R241 to R243). That GLD's destination becomes pending
under a window of LA = 0 is the model's choice (log entry 22), and so is that an odd A is accepted (log entry 66). -/
def Claims.AtomicAndGatherForms : Prop :=
  ∀ (s : State) (k q : Nat) (w : Wg) (x : Quad), s.Issues k q w x →
    (∀ e ∈ atomicTable, ∀ (a : AArgs),
      let acq := if a.ord.getLsbD 0 then some a.scope.toNat else none
      let rel := if a.ord.getLsbD 1 then some a.scope.toNat else none
      let n := e.2.2
      let as := x.active.map (fun l => (⟨l, x.pair l a.a.toNat, 4 * n, x.group l a.b.toNat n, x.group l a.d.toNat n, 0⟩ : Access))
      let free := rel = none ∨ s.relMayIssue ⟨k, q, w, x⟩ a.scope.toNat = true
      x.active ≠ [] → (∀ z ∈ as, isDev z.addr = true) →
      ((∀ z ∈ as, CleanAt s w .atomic (some a.scope.toNat) z) → HasRoom s k q w 4 → free →
        ∃ t, exec (e.1 a) s = .next t ∧ Entered s t k q w x (.atomic e.2.1 acq rel) as a.d.toNat n 1 (some 0) false) ∧
      (¬ free → ∃ t, exec (e.1 a) s = .next t ∧ Waits s t k q x .stall)) ∧
    ∀ (a : RArgs),
      let ls := x.guarded a
      let base := x.pair (ls.headD 0) a.a.toNat
      let route := fun l => base + (x.src l a.b).setWidth 64
      ls ≠ [] → (∀ l ∈ ls, offSpan base (route l) = false) → HasRoom s k q w 4 →
      ((∀ l ∈ ls, CleanAt s w .load none ⟨l, route l, 4, 0, 0, 0⟩) →
        ∃ t, exec (.gld a) s = .next t ∧ Entered s t k q w x (.load 4 false none)
          (ls.map (fun l => ⟨l, route l, 4, 0, 0, 0⟩)) a.d.toNat 1 a.b.size (some 0) false) ∧
      ((∀ l ∈ ls, CleanAt s w .store none ⟨l, route l, 4, 0, 0, 0⟩) →
        ∃ t, exec (.gst a) s = .next t ∧ Entered s t k q w x .store
          (ls.map (fun l => ⟨l, route l, 4, (x.reg l a.d.toNat).toNat, 0, 0⟩)) a.d.toNat 0 a.b.size none true)

/-- The scratchpad forms issue one operation on the workgroup's own allocation when every active lane's address, the offset added modulo
2^21 with CORE 31 and bits [31:26] zero, is aligned and below SLINES × 128. LSET and LCLR name the line that holds the address. When every
active lane's address is at or beyond SLINES × 128, SCRATCH_BOUND is raised for all of them, with the lowest one's address (R244, R245, R389). -/
def Claims.ScratchpadForms : Prop :=
  ∀ (s : State) (k q : Nat) (w : Wg) (x : Quad), s.Issues k q w x → x.active ≠ [] →
    ∀ e ∈ scratchTable, ∀ (a : MArgs),
      let size := e.2.1
      let v := fun l => (x.reg l a.a.toNat).toNat
      let off := fun l => ((v l % 2 ^ 21 : Nat) + a.off.toInt * size) % 2 ^ 21
      (∀ l ∈ x.active, v l / 2 ^ 21 = 31 ∧ (size < 128 → (off l).toNat % size = 0)) →
      ((∀ l ∈ x.active, (off l).toNat < w.slines * 128) → HasRoom s k q w 4 →
        ∃ (t : State) (ds : Nat → Nat), exec (e.1 a) s = .next t ∧
          Entered s t k q w x e.2.2.2.1 (x.active.map (fun l =>
            ⟨l, BitVec.ofNat 64 (if size = 128 then (off l).toNat / 128 * 128 else (off l).toNat), size, ds l, 0, 0⟩))
            a.d.toNat e.2.2.1 1 (if e.2.2.2.2 then some a.la.toNat else none) e.2.2.2.1.counted ∧
          (e.2.2.2.1 = .store → ∀ l ∈ x.active, ds l = x.group l a.d.toNat (size / 4)) ∧
          ∀ f, t.flights.find s.nextId = some f → ∀ p ∈ f.parts, p.2.place = .scratch k) ∧
      ((∀ l ∈ x.active, w.slines * 128 ≤ (off l).toNat) → w.halt = none →
        ∃ t, exec (e.1 a) s = .next t ∧ (t.wg? k).any (fun u => u.halt.any (fun h => h.origin == q && h.fault ==
          ⟨cSCRATCH_BOUND, 6, 0, 31, BitVec.ofNat 64 (31 * 2 ^ 21 + (off x.lowest).toNat), x.mask, x.cl.pc, false⟩)) = true)

/-- LDP reads the private word at once, holds a transaction, and its destination becomes pending; STP writes it at once, enters no queue and
counts nowhere (R233, R246). -/
def Claims.PrivateForms : Prop :=
  ∀ (s : State) (k q : Nat) (w : Wg) (x : Quad) (a : MArgs), s.Issues k q w x → x.active ≠ [] →
    let v := fun l => (x.reg l a.a.toNat + BitVec.ofInt 32 (a.off.toInt * 4)).toNat
    (∀ l ∈ x.active, v l % 4 = 0 ∧ v l < w.pwords * 4) →
    (HasRoom s k q w 1 → ∃ t f, exec (.ldp a) s = .next t ∧ t.flights.find s.nextId = some f ∧ f.job = .load 4 false none ∧ f.party = .quad k q ∧
      f.dst = x.phys a.d.toNat ∧ f.done = true ∧
      f.values = x.active.map (fun l => (l, (Tab.get 0 x.priv (l * 512 + v l / 4)).toNat)) ∧ t.mem = s.mem ∧
      ∃ y, t.quad? k q = some y ∧
        y = { x with cl := x.cl.next 1, await := none, got := [], wins := x.wins ++ [⟨s.nextId, [x.phys a.d.toNat], a.la.toNat⟩] }) ∧
    (256 ≤ s.transUsed w.uid (.quad k q) → ∃ t, exec (.ldp a) s = .next t ∧ Waits s t k q x .stall) ∧
    ∃ t y, exec (.stp a) s = .next t ∧ QuadBecomes s t k q y ∧
      y = { x with priv := y.priv, cl := x.cl.next 1, await := none, got := [] } ∧
      (∀ l ∈ x.active, Tab.get 0 y.priv (l * 512 + v l / 4) = x.reg l a.d.toNat) ∧
      ∀ p, (∀ l ∈ x.active, p ≠ l * 512 + v l / 4) → Tab.get 0 y.priv p = Tab.get 0 x.priv p

/-- The scratchpad and private memory forms. -/
def Obligations.ScratchpadAndPrivateForms : Prop := Claims.ScratchpadForms ∧ Claims.PrivateForms

/-- CPL4, CPL8 and CPL16 issue one lane copy for the guarded active lanes into Q2: lane L's source is the pair A, its destination the scratchpad address
v[L][D] of the own allocation, aligned to the size and below SLINES × 128; the quad goes on at once (R247, R248). -/
def Claims.LaneCopyForms : Prop :=
  ∀ (s : State) (k q : Nat) (w : Wg) (x : Quad) (a : RArgs), s.Issues k q w x →
    ∀ e ∈ laneCopyTable,
      let ls := x.guarded a
      let dst := fun l => (x.reg l a.d.toNat).toNat
      let as := ls.map (fun l => (⟨l, x.pair l a.a.toNat, e.2, 0, 0, 0⟩ : Access))
      ls ≠ [] → (∀ z ∈ as, CleanAt s w .load none z) →
      (∀ l ∈ ls, dst l / 2 ^ 21 = 31 ∧ dst l % 2 ^ 21 < w.slines * 128 ∧ dst l % e.2 = 0) →
      ∃ t b, exec (e.1 a) s = .next t ∧
        Entered s t k q w x (.cpl b (ls.map (fun l => (l, k, w.gen, dst l % 2 ^ 21)))) as 0 0 1 none false ∧
        ∀ f, t.flights.find s.nextId = some f → f.queue = 2

/-- STN allocates the cell that the placement unit chose and issues the write of lane l's registers D to D + 7, whatever the mask, at byte 32 l of
the cell's line, which HOME_ACCESS_PERFORM performs at its home; STN_NAME_WRITE, once that is performed and answered and the quad's earlier Q3
operations are performed, writes the name to the pair A of the lanes that were active, and closes the window. Without a free cell STN raises NAME_POOL_EMPTY, once those operations are performed. RLQ relinquishes each distinct name of
the active lanes once; the lowest aligned name of another module raises RANGE_PERM at level 0, and otherwise the lowest misaligned one
ALIGN (R20, R264, R265, R267, R389; that the checks go lane by lane, and that a host-half name gives label 0, are the model's choices, log entry 49). -/
def Claims.NameForms : Prop :=
  (∀ (s : State) (k q : Nat) (w : Wg) (x : Quad) (a : MArgs), s.Issues k q w x →
    (∀ stack c, s.placeName w.tenant (dieOf k) = some (stack, c) →
      let gen := (s.cell w.tenant stack c).gen
      let name := mkName (s.selfpl w.tenant).toNat stack c gen.toNat
      let block := ([0, 1, 2, 3].map (fun l => x.group l a.d.toNat 8 * 2 ^ (256 * l))).sum
      ∃ t f p, exec (.stn a) s = .next t ∧ t.mem = s.mem ∧ t.cell w.tenant stack c = ⟨true, gen⟩ ∧
        t.flights.find s.nextId = some f ∧ f.job = .stn name.toNat ∧
        f.parts = [(0, p)] ∧ p.place = .dev ∧ p.st = .flying ∧ p.accs = [⟨0, name, 128, block, 0, 0⟩] ∧
        f.lanes = maskOf x.active ∧ f.dst = x.phys a.a.toNat ∧ f.queue = 3 ∧
        ∃ y, t.quad? k q = some y ∧ y.regs = x.regs ∧ y.cl = x.cl.next 1 ∧
          y.wins = x.wins ++ [⟨s.nextId, [x.phys a.a.toNat, x.phys (a.a.toNat + 1)], a.la.toNat⟩]) ∧
    (s.placeName w.tenant (dieOf k) = none →
      (s.drained w.uid (.quad k q) 8 x.sup = true →
        exec (.stn a) s = .next (s.raise k q ⟨cNAME_POOL_EMPTY, 3, 0, 0, 0, x.mask, x.cl.pc, false⟩ x.cl x.sup false)) ∧
      (s.drained w.uid (.quad k q) 8 x.sup = false → ∃ t, exec (.stn a) s = .next t ∧ Waits s t k q x .stall))) ∧
  (∀ (s : State) (id k q : Nat) (w : Wg) (x : Quad) (f : Flight) (name : Nat), s.flights.find id = some f → f.job = .stn name →
    f.party = .quad k q → f.uid = w.uid → s.wg? k = some w → w.quads.find q = some x →
    (f.done = true → f.back = true → (∀ n ∈ s.unperformed f.uid f.party 8 f.sup, id ≤ n) →
      ∃ t y, exec (.stnNameWrite id) s = .next t ∧ t.flights.find id = none ∧ t.mem = s.mem ∧ t.quad? k q = some y ∧
        y.wins = x.wins.filter (fun v => v.op != id) ∧
        ∀ p, Tab.get 0 y.regs p =
          if ∃ l ∈ lanesOf f.lanes, p = l * 256 + f.dst % 256 then BitVec.ofNat 32 name
          else if ∃ l ∈ lanesOf f.lanes, p = l * 256 + (f.dst + 1) % 256 then BitVec.ofNat 32 (name / 2 ^ 32)
          else Tab.get 0 x.regs p) ∧
    (f.done = false ∨ f.back = false ∨ (∃ n ∈ s.unperformed f.uid f.party 8 f.sup, n < id) → exec (.stnNameWrite id) s = .next s)) ∧
  (∀ (s : State) (id : Nat) (f : Flight) (p : Part) (name stack : Nat) (a : Access), s.part? id 0 = some (f, p) → f.job = .stn name →
    p.st = .arrived → p.place = .dev → p.accs = [a] → a.size = 128 → s.mem.wf = true → s.membersOf f p = [(id, 0)] → s.mayAll [(id, 0)] = true →
    s.bridgeMet f p = true → s.isSaved f.uid = false → s.twins f p = [] → stack = stackOfDomain (s.domain f.tenant (dlOf a.addr)) →
    (s.pool f.tenant stack).isSome = true →
    let l := s.cellLoc f.tenant stack (cellOf a.addr)
    l.dual = none → l.key % 128 = 0 →
    ∃ t, exec (.homeAccessPerform id 0) s = .next t ∧ PerformedAs s t [(id, 0)] (fun as => as) ∧
      ∀ b, t.mem.read b = if l.key ≤ b ∧ b < l.key + 128 then BitVec.ofNat 8 (a.data / 2 ^ (8 * (b - l.key))) else s.mem.read b) ∧
  ∀ (s : State) (k q : Nat) (w : Wg) (x : Quad) (a : MArgs), s.Issues k q w x → x.active ≠ [] →
    let name := fun l => x.pair l a.a.toNat
    let away := x.active.filter (fun l => (name l).toNat % 128 = 0 ∧ s.isLocal w.tenant (name l) = false)
    let odd := x.active.filter (fun l => (name l).toNat % 128 ≠ 0)
    (away = [] → odd = [] → HasRoom s k q w 4 → ∃ t, exec (.rlq a) s = .next t ∧
      Entered s t k q w x .rlq ((x.active.filter (fun l => x.active.all (fun m => !(decide (m < l) && name m == name l)))).map
        (fun l => ⟨l, name l, 128, 0, 0, 0⟩)) 0 0 1 none true) ∧
    (∀ l rest, away = l :: rest → exec (.rlq a) s = .next (s.raise k q
      ⟨cRANGE_PERM, 0, 0, if isDev (name l) then plOf (name l) else 0, name l, x.mask, x.cl.pc, false⟩ x.cl x.sup false)) ∧
    ∀ l rest, away = [] → odd = l :: rest →
      exec (.rlq a) s = .next (s.raise k q ⟨cALIGN, 15, 0, 0, name l, x.mask, x.cl.pc, false⟩ x.cl x.sup false)

/-- HFREE with no guarded active lane does nothing; otherwise, with a stack below 16 in the lowest such lane and no earlier Q3
operation outstanding, it waits, and HFREE_PERFORMED gives every such lane the free cells in the low word of D and the pool's cells in the high one; a stack of 16 or
more raises ILL_FIELD (R20, R269). -/
def Claims.FreeCountForm : Prop :=
  (∀ (s : State) (k q : Nat) (w : Wg) (x : Quad) (a : RArgs), s.Issues k q w x →
    (x.guarded a = [] → ∃ t y, exec (.hfree a) s = .next t ∧ QuadBecomes s t k q y ∧ Passes x y) ∧
    ∀ l ls, x.guarded a = l :: ls →
      (∀ e ∈ s.flights, e.2.uid = w.uid → e.2.party = .quad k q → ∀ n d, e.2.job ≠ .hfree n d) →
      (16 ≤ (x.reg l a.a.toNat).toNat → s.Raises k q x (.hfree a) cILL_FIELD) ∧
      ((x.reg l a.a.toNat).toNat < 16 → s.drained w.uid (.quad k q) 8 x.sup = false →
        ∃ t, exec (.hfree a) s = .next t ∧ Waits s t k q x .stall) ∧
      ((x.reg l a.a.toNat).toNat < 16 → s.drained w.uid (.quad k q) 8 x.sup = true →
        ∃ t f y, exec (.hfree a) s = .next t ∧ t.flights.find s.nextId = some f ∧
          f.job = .hfree (x.reg l a.a.toNat).toNat a.d.toNat ∧ f.pos = x.cl ∧ f.lanes = maskOf (x.guarded a) ∧
          t.quad? k q = some y ∧ y.cl = x.cl.issued ∧ y.regs = x.regs)) ∧
  ∀ (s : State) (k q id : Nat) (w : Wg) (x : Quad) (f : Flight) (stack d : Nat), s.wg? k = some w → w.quads.find q = some x →
    (s.opsOf w.uid (.quad k q)).find? (fun e => match e.2.job with
      | .hfree _ _ => true
      | _ => false) = some (id, f) → f.job = .hfree stack d → x.cl.issued = f.pos.issued → x.resume = none →
    ∃ t y, exec (.hfreePerformed k q) s = .next t ∧ t.quad? k q = some y ∧ y.cl = x.cl.next 1 ∧ y.await = none ∧
      t.flights.find id = none ∧
      WritesPair x y (lanesOf f.lanes) d
        (fun _ => BitVec.ofNat 64 (s.poolFree w.tenant stack % 2 ^ 32 + 2 ^ 32 * (s.poolSize w.tenant stack % 2 ^ 32)))

/-- The naming forms and the count of free frames. -/
def Obligations.NamesAndFreeCount : Prop := Claims.NameForms ∧ Claims.FreeCountForm

/-- WAITV reads the location that the lowest active lane names, once for the quad, and stands in a counted wait; when the read returns and the
comparison with that lane's C holds, the wait ends; otherwise the read is made again, checked at level 0 as the first was, where a refusal is
a precise fault of the quad (R251). -/
def Obligations.WaitForValueForm : Prop :=
  (∀ (s : State) (k q : Nat) (w : Wg) (x : Quad) (a c : BitVec 6) (cc : BitVec 3), s.Issues k q w x → HasRoom s k q w 1 →
    (∀ e ∈ s.flights, x.standsIn e.1 = false) →
    let r := x.pair x.lowest a.toNat
    CleanAt s w .load none ⟨x.lowest, r, 4, 0, 0, 0⟩ →
    ∃ t f y n, exec (.waitv a c cc) s = .next t ∧ t.flights.find s.nextId = some f ∧ f.job = .waitv cc (x.reg x.lowest c.toNat) ∧
      f.party = .quad k q ∧ (∃ e ∈ f.parts, e.2.accs = [⟨x.lowest, r, 4, 0, 0, 0⟩] ∧ e.2.st = .flying) ∧ t.mem = s.mem ∧
      t.quad? k q = some y ∧
      y = { x with cl := x.cl.issued, await := some ⟨.waitv s.nextId r cc (x.reg x.lowest c.toNat), 0, n⟩ }) ∧
  ∀ (s : State) (id k q : Nat) (w : Wg) (x : Quad) (f : Flight) (cc : BitVec 3) (cmp : Word) (v : Nat) (n l : Nat) (p : Part),
    s.flights.find id = some f → f.job = .waitv cc cmp → f.party = .quad k q → f.uid = w.uid → s.resident w.uid = some (k, w) → s.wg? k = some w →
    w.quads.find q = some x → x.live = true → x.standsIn id = true → x.resume = none → w.halt = none → f.done = true → f.back = true →
    f.faults = [] → f.parts = [(n, p)] → f.values = [(l, v)] →
    let holds := ccTable cc.toNat (BitVec.ofNat 32 v).toInt cmp.toInt (BitVec.ofNat 32 v).toNat cmp.toNat = true
    (holds → ∃ t y, exec (.waitvReadReturn id) s = .next t ∧ t.quad? k q = some y ∧ y.cl = x.cl.next 1 ∧ y.await = none ∧ y.regs = x.regs ∧
        t.flights.find id = none) ∧
    (¬ holds → (∃ e, s.level0 f.tenant .load none p.route = .ok e) →
      ∃ t f', exec (.waitvReadReturn id) s = .next t ∧ t.quad? k q = some x ∧ t.flights.find id = some f' ∧
        ∀ e ∈ f'.parts, e.2.st = .flying ∧ e.2.route = p.route) ∧
    ∀ r, ¬ holds → s.level0 f.tenant .load none p.route = .error r →
      ∃ t, exec (.waitvReadReturn id) s = .next t ∧ t.flights.find id = none ∧ (t.wg? k).any (fun u => u.halt.any (fun h =>
        h.origin == q && h.fault == ⟨r.cause, r.level, 0, r.label, p.route, x.mask, f.pos.pc, false⟩)) = true

/-! ### Memory: what is performed and what returns (10_memory_ops, 09_routes) -/

/-- HOME_ACCESS_PERFORM at a home whose levels accept: a load, WAITV's and KLD's reads among them, reads the bytes that its accesses name and
changes no memory; a store, KST among them, writes the bytes of every lane, the highest lane's where several write one, and every other byte
reads as before; an atomic runs lane by lane, each answering the old value and writing the new one; a relinquish frees the cell and advances its
generation, and what it leaves of the line alone may change (R206, R213, R226, R234, R241, R251, R267, R278). -/
def Claims.AccessesPerformAtHome : Prop :=
  ∀ (s : State) (id j : Nat) (f : Flight) (p : Part) (l : Loc) (ms : List (Nat × Nat)) (a0 : Access) (rest : List Access),
    s.AtHome id j f p l ms a0 rest → (∀ c, f.job ≠ .copy c) →
    let key := fun (a : Access) => keyIn l a0.addr a.addr
    (f.job.kind = .load → ∃ t, exec (.homeAccessPerform id j) s = .next t ∧ t.mem = s.mem ∧
      PerformedAs s t ms (fun as => as.map (fun a => { a with got := s.mem.readN (key a) a.size }))) ∧
    (f.job.kind = .store → ∃ t, exec (.homeAccessPerform id j) s = .next t ∧ PerformedAs s t ms (fun as => as) ∧
      ∀ b, t.mem.read b = (lineByte key (a0 :: rest) b).getD (s.mem.read b)) ∧
    (f.job.kind = .atomic → ∃ t, exec (.homeAccessPerform id j) s = .next t ∧
      t.mem = (atomicRun f.job.aop key s.mem (a0 :: rest)).1 ∧ t.accsOf ms = (atomicRun f.job.aop key s.mem (a0 :: rest)).2) ∧
    (f.job = .rlq → ∃ t, exec (.homeAccessPerform id j) s = .next t ∧ PerformedAs s t ms (fun as => as) ∧
      (let stack := stackOfDomain (s.domain f.tenant (dlOf a0.addr))
       t.cell f.tenant stack (cellOf a0.addr) = ⟨false, (s.cell f.tenant stack (cellOf a0.addr)).gen + 1⟩ ∧
       ∀ b, b / 128 ≠ l.key / 128 → t.mem.read b = s.mem.read b))

/-- HOME_ACCESS_PERFORM in a scratchpad: a load waits until every line that its lanes read is full, and then reads; a store writes the bytes of
every lane, and no full bit; LSET and LCLR set and clear the full bits of their lines, and write no byte (R244, R245). -/
def Claims.AccessesPerformInScratchpads : Prop :=
  ∀ (s : State) (id j m : Nat) (f : Flight) (p : Part) (w : Wg), s.part? id j = some (f, p) → p.place = .scratch m → p.st = .flying →
    s.isSaved f.uid = false → s.wg? m = some w →
    (∀ b sx acq, f.job = .load b sx acq →
      ((∃ e ∈ f.parts, ∃ n, e.2.place = .scratch n ∧ e.2.st ≠ .performed ∧ s.isFull n e.2.line = false) →
        exec (.homeAccessPerform id j) s = .next s) ∧
      (s.mayAll (s.membersOf f p) = true → ∃ t, exec (.homeAccessPerform id j) s = .next t ∧ t.mem = s.mem ∧ t.wgs = s.wgs ∧
        PerformedAs s t [(id, j)] (fun as => as.map (fun a => { a with got := w.scratch.bytes a.addr.toNat a.size })))) ∧
    (f.job = .store → s.mayAll (s.membersOf f p) = true → ∃ t v, exec (.homeAccessPerform id j) s = .next t ∧ t.mem = s.mem ∧
      PerformedAs s t [(id, j)] (fun as => as) ∧ WgBecomes { s with flights := t.flights } t m v ∧ v = { w with scratch := v.scratch } ∧
      ∀ b, Tab.get 0 v.scratch b = (lineByte (fun a => a.addr.toNat) p.accs b).getD (Tab.get 0 w.scratch b)) ∧
    ∀ set, f.job = .lset set → s.mayAll (s.membersOf f p) = true → ∃ t v, exec (.homeAccessPerform id j) s = .next t ∧ t.mem = s.mem ∧
      PerformedAs s t [(id, j)] (fun as => as) ∧ WgBecomes { s with flights := t.flights } t m v ∧ v = { w with full := v.full } ∧
      ∀ n, v.full.has n = if ∃ a ∈ p.accs, a.addr.toNat / 128 = n then set else w.full.has n

/-- A line access as it is performed at its home, in memory and in a scratchpad. -/
def Obligations.AccessesPerformAtHome : Prop := Claims.AccessesPerformAtHome ∧ Claims.AccessesPerformInScratchpads

/-- Table 10-4: the new value of each integer atomic, from the old value, the operand and the comparand, in 4 or 8 bytes. -/
def Claims.AtomicTable : Prop :=
  ∀ n ∈ [4, 8], ∀ (old b c : Nat), old < 2 ^ (8 * n) → b < 2 ^ (8 * n) →
    AtomicOp.xchg.apply n old b c = b ∧
    AtomicOp.cas.apply n old b c = (if old = c then b else old) ∧
    AtomicOp.add.apply n old b c = (old + b) % 2 ^ (8 * n) ∧
    ((BitVec.ofNat (8 * n) (AtomicOp.min.apply n old b c)).toInt = min (BitVec.ofNat (8 * n) old).toInt (BitVec.ofNat (8 * n) b).toInt) ∧
    ((BitVec.ofNat (8 * n) (AtomicOp.max.apply n old b c)).toInt = max (BitVec.ofNat (8 * n) old).toInt (BitVec.ofNat (8 * n) b).toInt) ∧
    BitVec.ofNat (8 * n) (AtomicOp.and.apply n old b c) = BitVec.ofNat (8 * n) old &&& BitVec.ofNat (8 * n) b ∧
    BitVec.ofNat (8 * n) (AtomicOp.or.apply n old b c) = BitVec.ofNat (8 * n) old ||| BitVec.ofNat (8 * n) b ∧
    BitVec.ofNat (8 * n) (AtomicOp.xor.apply n old b c) = BitVec.ofNat (8 * n) old ^^^ BitVec.ofNat (8 * n) b

/-- The atomics and gathers as they are issued, and the value each atomic leaves. -/
def Obligations.AtomicsAndGathers : Prop := Claims.AtomicAndGatherForms ∧ Claims.AtomicTable

/-- LOAD_DATA_RETURN of a load or an atomic whose lanes met no fault, once its answers have crossed back: in each of its lanes the destination
registers take the value read, sign-extended where Table 10-2 says so, no other register changes, and the window closes. STORE_ACKNOWLEDGEMENT:
the quad's counter for the ordering point's side drops by one and the line access is gone (R8, R66, R226, R232). -/
def Obligations.ReturnsAndAcknowledgements : Prop :=
  ∀ (s : State) (id k q : Nat) (w : Wg) (x : Quad) (f : Flight), s.flights.find id = some f → f.party = .quad k q → f.uid = w.uid →
    s.resident w.uid = some (k, w) → s.wg? k = some w → w.quads.find q = some x → f.faults = [] →
    ((∃ op aq rel, f.job = .atomic op aq rel) ∨ (∃ b sx aq, f.job = .load b sx aq) →
      let vals := (f.parts.map (fun e => e.2.accs.map (fun a => (a.key, match f.job with
        | .load b true _ => (BitVec.ofInt 32 (signed (8 * b) a.got)).toNat
        | _ => a.got)))).flatten
      (f.done = true → f.back = true → f.size ≤ 4 → (vals.map (·.1)).Nodup →
        ∃ t y, exec (.loadDataReturn id) s = .next t ∧ t.flights.find id = none ∧ t.mem = s.mem ∧ t.quad? k q = some y ∧
          y = { x with regs := y.regs, wins := x.wins.filter (fun v => v.op != id) } ∧
          (∀ v ∈ vals, ∀ i, i < f.size → Tab.get 0 y.regs (v.1 * 256 + (f.dst + i) % 256) = BitVec.ofNat 32 (v.2 / 2 ^ (32 * i))) ∧
          ∀ p, (∀ v ∈ vals, ∀ i, i < f.size → p ≠ v.1 * 256 + (f.dst + i) % 256) → Tab.get 0 y.regs p = Tab.get 0 x.regs p) ∧
      (f.done = false ∨ f.back = false → exec (.loadDataReturn id) s = .next s)) ∧
    ∀ (j : Nat) (p : Part), f.job.counted = true → f.parts.find j = some p → p.st = .performed → (p.place = .dev → p.back = true) →
      ∃ t y, exec (.storeAcknowledgement id j) s = .next t ∧ t.mem = s.mem ∧ t.quad? k q = some y ∧
        y = { x with uad := if p.onDie then x.uad - 1 else x.uad, uap := if p.onDie then x.uap else x.uap - 1 } ∧
        (t.flights.find id).all (fun f' => (f'.parts.find j).isNone) = true

/-- Memory: a read after a write gives the bytes written, a write of `n` bytes leaves every other byte alone, and every operation keeps
the canonical form. -/
def Claims.MemoryLaws : Prop :=
  ∀ (m : Memory), m.wf = true →
    (∀ a n x, (m.writeN a n x).readN a n = x % 2 ^ (8 * n)) ∧
    (∀ a n x b, b < a ∨ a + n ≤ b → (m.writeN a n x).read b = m.read b) ∧
    (∀ dst src n b, (m.copy dst src n).read b =
      if dst ≤ b ∧ b < dst + n then m.read (b - dst + src) else m.read b) ∧
    (∀ a n b, (m.zero a n).read b = if a ≤ b ∧ b < a + n then 0 else m.read b) ∧
    (∀ a n x, (m.writeN a n x).wf = true) ∧ (∀ a n, (m.zero a n).wf = true) ∧ ∀ dst src n, (m.copy dst src n).wf = true

/-- Two memories in canonical form that read alike at every address are equal. -/
def Claims.EqualReadsAreEqualMemories : Prop :=
  ∀ (m n : Memory), m.wf = true → n.wf = true → (∀ a, m.read a = n.read a) → m = n

/-- What memory reads after a write, and that memory in canonical form is what it reads. -/
def Obligations.MemoryReadsAndWrites : Prop := Claims.MemoryLaws ∧ Claims.EqualReadsAreEqualMemories

/-! ### The itinerary's instructions (19_itinerary) -/

/-- ITOUT hands the names of the guarded active lanes, in lane order, to a started entry that is not finished and has room for all
of them; ITDONE finishes it; with no such lane each does nothing. An index above 255 raises ILL_FIELD; of the names the lowest aligned one of another module decides
(RANGE_PERM), and without one the lowest that is misaligned (ALIGN) or outside the pool domains (DOMAIN_PERM), an order that is log entry 49; an open region raises
IDEM_NEST; a table that a lost peer failed IT_PEER_LOST; an entry that is not open IT_TABLE_BAD; and names beyond OUTN a seat or a stash overflow (R352, R358; log
entry 28 for no test without a lane). -/
def Claims.ItineraryHandoverForms : Prop :=
  ∀ (s : State) (k q : Nat) (w : Wg) (x : Quad) (a : RArgs), s.Issues k q w x →
    (x.guarded a = [] → ∀ c ∈ ([.itout, .itdone] : List (RArgs → Instr)), ∃ t y, exec (c a) s = .next t ∧ QuadBecomes s t k q y ∧
      y = { x with cl := x.cl.next a.b.size, await := none, got := [] }) ∧
    (∀ l0 ls e r, x.guarded a = l0 :: ls → (x.src l0 a.b).toNat = e → e < 256 → x.idem = none → s.itin.owner = some w.tenant →
      ¬ (s.itin.st = 5 ∧ s.itin.gone = true) → s.itin.run? e = some r → r.done = false →
      (let names := (x.guarded a).map (fun l => x.pair l a.a.toNat)
       (∀ n ∈ names, n.toNat % 128 = 0 ∧ s.isLocal w.tenant n = true ∧ 0xC0 ≤ dlOf n ∧ dlOf n ≤ 0xCF) →
       r.names.length + names.length ≤ eOutn (s.itin.d1 e) →
       ∃ t y, exec (.itout a) s = .next t ∧ t.itin.run? e = some { r with names := r.names ++ names } ∧
         t.quad? k q = some y ∧ y = { x with cl := x.cl.next a.b.size, await := none, got := [] } ∧ { t with itin := s.itin, wgs := s.wgs } = s) ∧
      ∃ t y, exec (.itdone a) s = .next t ∧ t.itin.run? e = some { r with done := true } ∧
        t.quad? k q = some y ∧ y = { x with cl := x.cl.next a.b.size, await := none, got := [] } ∧ { t with itin := s.itin, wgs := s.wgs } = s) ∧
    ∀ l0 ls e, x.guarded a = l0 :: ls → (x.src l0 a.b).toNat = e →
      let names := (x.guarded a).map (fun l => x.pair l a.a.toNat)
      let poolName := fun (n : W64) => 0xC0 ≤ dlOf n ∧ dlOf n ≤ 0xCF
      let clean := ∀ n ∈ names, n.toNat % 128 = 0 ∧ s.isLocal w.tenant n = true ∧ poolName n
      let both := fun (cause : Nat) => (clean → s.Raises k q x (.itout a) cause) ∧ s.Raises k q x (.itdone a) cause
      let at' := fun (cause level label : Nat) (r : W64) (i : Instr) =>
        exec i s = .next (s.raise k q ⟨cause, level, 0, label, r, x.mask, x.cl.pc, false⟩ x.cl x.sup false)
      let lost := s.itin.owner = some w.tenant ∧ s.itin.st = 5 ∧ s.itin.gone = true
      let isOpen := s.itin.owner = some w.tenant ∧ ∃ r, s.itin.run? e = some r ∧ r.done = false
      (256 ≤ e → s.Raises k q x (.itout a) cILL_FIELD ∧ s.Raises k q x (.itdone a) cILL_FIELD) ∧
      (e < 256 →
        (∀ before n after, names = before ++ n :: after → n.toNat % 128 = 0 → s.isLocal w.tenant n = false →
          (∀ m ∈ before, m.toNat % 128 = 0 → s.isLocal w.tenant m = true) →
          at' cRANGE_PERM 0 (if isDev n = true then plOf n else 0) n (.itout a)) ∧
        (∀ before n after, names = before ++ n :: after → (∀ m ∈ names, m.toNat % 128 = 0 → s.isLocal w.tenant m = true) →
          (∀ m ∈ before, m.toNat % 128 = 0 ∧ poolName m) →
          (n.toNat % 128 ≠ 0 → at' cALIGN 15 0 n (.itout a)) ∧
          (n.toNat % 128 = 0 → ¬ poolName n → at' cDOMAIN_PERM 2 (dlOf n) n (.itout a))) ∧
        (x.idem ≠ none → both cIDEM_NEST) ∧
        (x.idem = none → lost → (clean → at' cIT_PEER_LOST 1 0 0 (.itout a)) ∧ at' cIT_PEER_LOST 1 0 0 (.itdone a)) ∧
        (x.idem = none → ¬ lost → ¬ isOpen → both cIT_TABLE_BAD) ∧
        ∀ r, x.idem = none → ¬ lost → s.itin.owner = some w.tenant → s.itin.run? e = some r → r.done = false → clean →
          eOutn (s.itin.d1 e) < r.names.length + names.length →
          s.Raises k q x (.itout a) (if eSd (s.itin.d1 e) = true ∨ eSu (s.itin.d1 e) = true then cIT_SEAT_OVF else cIT_STASH_OVF))

/-- ITLD, ITGO and ITSTOP wait for the engine, and Q5_OPERATION_PERFORMED writes the engine's status to D of every active lane: ITLD with route 0 empties the owner's
idle engine (status 0); ITLD answers 1 while the tenant's own table runs or has an entry that is started and not closed, and 2 for another tenant's table, both
before it reads the image (log entry 28: the model's order); a read of the image that is refused is the fault of the lowest active lane; ITGO starts a loaded table (0), or answers 1 while it runs; ITSTOP stops a running one (0), and answers 1
otherwise. An ITLD route that is not 0 must be local and 64-byte aligned (R347 to R349). -/
def Claims.ItineraryEngineForms : Prop :=
  ∀ (s : State) (k q : Nat) (w : Wg) (x : Quad) (a : LArgs), s.Issues k q w x →
    (let r := x.pair x.lowest a.a.toNat
     ((r = 0 ∨ (s.isLocal w.tenant r = true ∧ r.toNat % 64 = 0)) →
       ∃ t y, exec (.itld a) s = .next t ∧ QuadBecomes s t k q y ∧ y.cl = x.cl.issued ∧ ∃ n m, y.await = some ⟨.q5 (.itld a), n, m⟩) ∧
     (r ≠ 0 → (s.isLocal w.tenant r = false ∨ r.toNat % 64 ≠ 0) →
       s.Raises k q x (.itld a) cILL_FIELD)) ∧
    (∀ c ∈ ([.itgo, .itstop] : List (LArgs → Instr)), ∃ t y, exec (c a) s = .next t ∧ QuadBecomes s t k q y ∧ y.cl = x.cl.issued ∧
      ∃ n m, y.await = some ⟨.q5 (c a), n, m⟩) ∧
    (x.resume = none →
      let answers := fun (i : Instr) (status : Nat) (engine : Itin) => ∀ n m, x.await = some ⟨.q5 i, n, m⟩ →
        ∃ t y, exec (.q5OperationPerformed k q) s = .next t ∧ t.itin = engine ∧ t.quad? k q = some y ∧ y.cl = x.cl.next 1 ∧ y.await = none ∧
          WritesReg x y x.active a.d.toNat (fun _ => BitVec.ofNat 32 status)
      let bad := fun (i : Instr) => ∀ n m, x.await = some ⟨.q5 i, n, m⟩ →
        exec (.q5OperationPerformed k q) s = .next ((s.updQuad k q (fun z => { z with await := none })).raise k q
          (whole cIT_TABLE_BAD x.cl.pc x.mask) x.cl x.sup false)
      (s.itin.owner = none ∨ s.itin.owner = some w.tenant → s.itin.st ≠ 2 → s.itin.open = [] → x.pair x.lowest a.a.toNat = 0 →
        answers (.itld a) 0 s.itin.empty) ∧
      (∀ img, s.itin.owner = none ∨ s.itin.owner = some w.tenant → s.itin.st ≠ 2 → s.itin.open = [] → x.pair x.lowest a.a.toNat ≠ 0 →
        s.readImage w.tenant (x.pair x.lowest a.a.toNat) = .ok img →
        (s.imageBad w.tenant img = false → answers (.itld a) 0 (s.itin.loaded w.tenant img)) ∧
        (s.imageBad w.tenant img = true → bad (.itld a))) ∧
      (∀ (e : Refuse) n m, s.itin.owner = none ∨ s.itin.owner = some w.tenant → s.itin.st ≠ 2 → s.itin.open = [] → x.pair x.lowest a.a.toNat ≠ 0 →
        s.readImage w.tenant (x.pair x.lowest a.a.toNat) = .error e → x.await = some ⟨.q5 (.itld a), n, m⟩ →
        exec (.q5OperationPerformed k q) s = .next ((s.updQuad k q (fun z => { z with await := none })).raise k q
          ⟨e.cause, e.level, 0, e.label, x.pair x.lowest a.a.toNat, maskOf [x.lowest], x.cl.pc, false⟩ x.cl x.sup false)) ∧
      (s.itin.owner.any (fun o => o != w.tenant) = true → answers (.itld a) 2 s.itin) ∧
      (s.itin.owner = some w.tenant → (s.itin.st = 2 ∨ s.itin.open ≠ []) → answers (.itld a) 1 s.itin) ∧
      (s.itin.owner = some w.tenant → s.itin.hostMark = false → s.isReady 640 = true →
        (s.itin.st = 2 → answers (.itgo a) 1 s.itin) ∧ (s.itin.st = 3 → answers (.itgo a) 0 { s.itin with st := 2 }) ∧
        (s.itin.st = 1 ∨ s.itin.st = 4 → answers (.itgo a) 0 s.itin.restart)) ∧
      (s.itin.owner = some w.tenant → s.itin.st ≠ 0 → s.itin.st ≠ 5 → s.itin.hostMark = true ∨ s.isReady 640 = false →
        answers (.itgo a) 3 s.itin) ∧
      (s.itin.owner ≠ some w.tenant ∨ s.itin.st = 0 ∨ s.itin.st = 5 → bad (.itgo a)) ∧
      (s.itin.owner = some w.tenant → s.itin.st = 2 → answers (.itstop a) 0 { s.itin with st := 3 }) ∧
      (¬ (s.itin.owner = some w.tenant ∧ s.itin.st = 2) → answers (.itstop a) 1 s.itin))

/-- ITSTAT writes the selected value to the pair D of every active lane, 0 for a tenant that does not own the engine; with WAIT it waits for its condition, and
ITSTAT_WAIT_COMPLETE writes the value read then. v[A] is read for the selectors 6 and 7, and for 1 with WAIT, and raises ILL_FIELD there beyond the last entry
and, for 1, beyond a count of 511 (R357). -/
def Claims.ItineraryStatusForm : Prop :=
  ∀ (s : State) (k q : Nat) (w : Wg) (x : Quad) (a : IArgs), s.Issues k q w x →
    let sel := a.imm.toNat % 256
    let wait := a.imm.toNat / 256 % 2 = 1
    let v := (x.reg x.lowest a.a.toNat).toNat
    let value := if s.itin.owner = some w.tenant then s.itin.stat sel v else 0
    let holds := s.itin.owner ≠ some w.tenant ∨ s.itin.statDone sel v = true
    let beyond := ((sel = 6 ∨ sel = 7) ∧ 256 ≤ v) ∨ (sel = 1 ∧ wait ∧ 512 ≤ v)
    (beyond → s.Raises k q x (.itstat a) cILL_FIELD) ∧
    (¬ beyond → (¬ wait ∨ holds) → ∃ t y, exec (.itstat a) s = .next t ∧ QuadBecomes s t k q y ∧ AdvancesRegs x y 1 ∧
      WritesPair x y x.active a.d.toNat (fun _ => BitVec.ofNat 64 value)) ∧
    (¬ beyond → wait → ¬ holds → ∃ t, exec (.itstat a) s = .next t ∧ Waits s t k q x (.itstat a)) ∧
    (x.resume = none → w.halt = none → holds → ∀ n m, x.await = some ⟨.itstat a, n, m⟩ →
      ∃ t y, exec (.itstatWaitComplete k q) s = .next t ∧ t.quad? k q = some y ∧ y.cl = x.cl.next 1 ∧ y.await = none ∧
        WritesPair x y x.active a.d.toNat (fun _ => BitVec.ofNat 64 value))

/-- The forms that hand over, drive and read the itinerary engine. -/
def Obligations.ItineraryForms : Prop := Claims.ItineraryHandoverForms ∧ Claims.ItineraryEngineForms ∧ Claims.ItineraryStatusForm

/-! ### Exceptions, supervisor instructions and tables (05_traps, 09_routes) -/

/-- HANDLER_ENTRY, once the workgroup has stopped: the origin's trap record names the fault, its state goes into the shadow, the window base moves by 64 (a spill past
word 511 ends the unit with WIN_SPILL), the mask becomes TLANES, supervisor mode is set, and the PC becomes TVEC, a target; frame stack and reconvergence stack are
empty. A load that waits behind held stores is withdrawn, for RETT to execute again; every other pending destination is waited for. Every live sibling records
HALT_SIBLING with the PC of its resume point, the first instruction that it then executes, and its skid, and a blocked one counts as stopped where it stands (R105, R109, R111, R112, R389; log entry 21: that the
handler begins with the predicates of the faulting code, and that its entry waits for the origin's HFREE and Q5 operations, is the model's choice). -/
def Obligations.HandlerEntry : Prop :=
  ∀ (s : State) (k q : Nat) (w : Wg) (x : Quad) (h : Halt), s.Keyed → s.wg? k = some w → w.quads.find q = some x → w.halt = some h →
    h.stage = .stopping → h.origin = q →
    let l := s.withdrawn w.uid (.quad k q) false
    let tvec := (s.csr (dieOf k) w.tenant).tvec
    ((s.stoppedFor k w h x = false ∨ ∃ v ∈ x.wins, ∀ e ∈ l, e.1 ≠ v.op) → exec (.handlerEntry k) s = .next s) ∧
    (s.stoppedFor k w h x = true → l = [] → x.wins = [] → tvec ≠ 0 → 448 < x.depth + 64 →
      exec (.handlerEntry k) s = .next (s.endUnit w.unit k q { h.fault with cause := 0x08, level := 7, inner := h.fault.cause, label := 0, route := 0 }
        h.pos true h.imprecise)) ∧
    (s.stoppedFor k w h x = true → (∀ v ∈ x.wins, ∃ e ∈ l, e.1 = v.op) → tvec ≠ 0 → x.depth + 64 ≤ 448 →
      ∃ t y sh v, exec (.handlerEntry k) s = .next t ∧ t.quad? k q = some y ∧ y.shadow = some sh ∧ t.wg? k = some v ∧
        y.sup = true ∧ y.cl = Cl.start tvec ∧ y.entered = some tvec ∧
        y.mask = h.fault.lanes ∧ y.depth = x.depth + 64 ∧ y.frames = [] ∧ y.recon = [] ∧ y.wins = [] ∧ y.preds = x.preds ∧ y.regs = x.regs ∧
        y.trap = ⟨BitVec.ofNat 32 h.fault.cause, BitVec.ofNat 32 (h.fault.level + h.fault.inner * 2 ^ 8), BitVec.ofNat 32 h.fault.label,
          h.fault.tpc, h.fault.route, h.fault.lanes.setWidth 32, BitVec.ofNat 32 (q * 16 + 8)⟩ ∧
        sh.preds = x.preds ∧ sh.fpstat = x.fpstat ∧ sh.recon = x.recon ∧ sh.depth = x.depth ∧ sh.frames = x.frames ∧ sh.entered = x.entered ∧
        (x.resume = none → sh.resume = x.cl ∧ sh.mask = x.mask ∧ sh.rest = []) ∧
        (∀ c m, x.resume = some (c, m) → sh.resume = c ∧ sh.mask = m ∧ sh.rest = x.redo) ∧
        sh.fault = h.fault ∧ sh.pos = h.pos ∧
        sh.withdrawn = (l.filter (fun e => match e.2.job with
          | .waitv _ _ => false
          | _ => true)).map (fun e => ⟨e.2.pos, e.2.lanes, e.1, false⟩) ∧
        (∀ e ∈ l, t.flights.find e.1 = none) ∧
        v.halt = some { h with stage := .handler } ∧
        (∀ q' z, q' ≠ q → w.quads.find q' = some z → z.live = true →
          (z.await = none ∨ ∀ e ∈ s.flights, e.2.uid = w.uid → e.2.party = .quad k q' → s.withdrawable e = false) →
          ∃ z', v.quads.find q' = some z' ∧ z' = { (if z.await = none then z else z.rewoken) with
            trap := ⟨BitVec.ofNat 32 cHALT_SIBLING, 15, 0, z.cl.pc, 0, 0, BitVec.ofNat 32 (q * 16 + z.skid)⟩
            skid := 0 }) ∧
        t.mem = s.mem)

/-- RETT gives the faulting code its state back, supervisor mode ends, TCAUSE reads 0, and the halt is over. After a precise fault the quad executes again, alone and in program order, the
withdrawn instructions, with mode 00 the faulting one, and what an earlier RETT had left, then goes on where it had stopped; skip leaves the faulting one out (not after a refused
fetch; after a header it takes the word that follows as a header: log entry 57, the model's choice). After an imprecise one, or PREEMPT, mode 00 sends the held entries to their homes again, in order, and mode 01 discards them and lowers the counters. Mode 10 ends the unit
with the faulting record (R105, R115, R116, R175). -/
def Claims.ReturnFromHandler : Prop :=
  ∀ (s : State) (k q : Nat) (w : Wg) (x : Quad) (sh : Shadow) (h : Halt) (mode : BitVec 2), s.Keyed → s.Issues k q w x → x.shadow = some sh →
    w.halt = some h → (∀ e ∈ s.wgs, e.2.unit = w.unit → e.2.preempt = none) →
    let skip := mode.toNat = 1 ∧ sh.fault.fetch = false
    let past := if sh.resume.rem = 0 then Cl.start (sh.resume.pc + 4)
      else sh.resume.next (if 2 ≤ sh.resume.rem ∧ ∃ a, s.fetch w.tenant x.got sh.resume.pc = .word a ∧ decode [a] = .error .short then 2 else 1)
    let left := fun (y : Quad) => y.preds = sh.preds ∧ y.fpstat = sh.fpstat ∧ y.recon = sh.recon ∧ y.frames = sh.frames ∧ y.depth = sh.depth ∧
      y.entered = sh.entered ∧ y.sup = false ∧ y.shadow = none ∧ y.trap.cause = 0 ∧ (x.depth + 64 ≤ 256 → y.regs = x.regs) ∧
      (x.depth ≤ 448 → ∀ l i, l < 4 → sh.depth ≤ i + 192 → i + 192 < x.depth → Tab.get 0 y.regs (l * 256 + i) = Tab.get 0 x.priv (l * 512 + 256 + i))
    let goesOn := fun (y : Quad) (again : List Redo) (place : Cl) => ∃ rs : List Redo, rs.Perm again ∧ rs.Pairwise (fun a b => a.ord ≤ b.ord) ∧
      (rs = [] → y.cl = place ∧ y.mask = sh.mask ∧ y.resume = none) ∧
      ∀ r rest, rs = r :: rest → y.cl = r.pos.issued ∧ y.mask = r.lanes ∧ y.redo = rs ∧ y.resume = some (place, sh.mask)
    let own : List Redo := if sh.pos.rem = 0 then [] else [⟨sh.pos, sh.fault.lanes, sh.ord, true⟩]
    (mode.toNat < 2 → h.imprecise = false → sh.fault.cause ≠ cPREEMPT →
      (skip → sh.resume.rem ≠ 0 → s.fetch w.tenant x.got sh.resume.pc ≠ .ask) →
      ∃ t y v, exec (.rett mode) s = .next t ∧ t.quad? k q = some y ∧ t.wg? k = some v ∧ v.halt = none ∧ left y ∧ t.mem = s.mem ∧
        (sh.rest = [] → sh.pos = sh.resume.issued →
          (skip → goesOn y sh.withdrawn past) ∧ (¬ skip → goesOn y (sh.withdrawn ++ own) sh.resume)) ∧
        (∀ r rest, sh.rest = r :: rest → sh.pos = r.pos.issued →
          (skip → goesOn y (sh.withdrawn ++ rest) (if r.here = true then past else sh.resume)) ∧ (¬ skip → goesOn y (sh.withdrawn ++ sh.rest) sh.resume)) ∧
        ((∀ r rest, sh.rest = r :: rest → sh.pos ≠ r.pos.issued) → (sh.rest = [] → sh.pos ≠ sh.resume.issued) →
          (skip → goesOn y (sh.withdrawn ++ sh.rest) sh.resume) ∧
          (¬ skip → goesOn y (sh.withdrawn ++ ⟨sh.pos, sh.fault.lanes, sh.ord, false⟩ :: sh.rest) sh.resume)) ∧
        ∀ q' z, q' ≠ q → w.quads.find q' = some z → ∃ z', v.quads.find q' = some z' ∧
          z' = { z with trap := { z.trap with cause := if z.trap.cause = BitVec.ofNat 32 cHALT_SIBLING then 0 else z.trap.cause } }) ∧
    (mode.toNat < 2 → h.imprecise = false → sh.fault.cause ≠ cPREEMPT → skip → sh.resume.rem ≠ 0 → s.fetch w.tenant x.got sh.resume.pc = .ask →
      exec (.rett mode) s = .next (s.askFor (.quad k q) .fetch sh.resume.pc 4 x.cl true x.mask)) ∧
    (let mine := fun (f : Flight) => f.uid = w.uid ∧ f.party = .quad k q
     let gone := fun (e : Nat × Flight) (p : Nat × Part) => p.2.st = .held ∨ s.joinsHeld e.1 e.2 p.2 = true
     (∀ e ∈ s.flights, mine e.2 → (e.2.parts.map (·.1)).Nodup) → h.imprecise = true ∨ sh.fault.cause = cPREEMPT →
     (mode.toNat = 1 → ∃ t y v, exec (.rett mode) s = .next t ∧ t.quad? k q = some y ∧ t.wg? k = some v ∧ v.halt = none ∧ left y ∧ t.mem = s.mem ∧
        goesOn y (sh.withdrawn ++ sh.rest) sh.resume ∧
        (∀ e ∈ s.flights, mine e.2 → ∀ p ∈ e.2.parts, (gone e p → (t.part? e.1 p.1).isNone = true) ∧
          (¬ gone e p → ∃ f, t.part? e.1 p.1 = some (f, p.2))) ∧
        (∀ e ∈ s.flights, ¬ mine e.2 → t.flights.find e.1 = some e.2) ∧
        let n := fun (onDie : Bool) => (((s.opsOf w.uid (.quad k q)).map (fun e =>
          e.2.parts.filter (fun p => (p.2.st == .held || s.joinsHeld e.1 e.2 p.2) && p.2.onDie == onDie))).flatten).length
        y.uad = x.uad - n true ∧ y.uap = x.uap - n false) ∧
     (mode.toNat = 0 → (∀ e ∈ s.flights, mine e.2 → ∀ c, e.2.job ≠ .copy c) → ∃ (u : State) (y : Quad), u.quad? k q = some y ∧ left y ∧ goesOn y (sh.withdrawn ++ sh.rest) sh.resume ∧ { u with wgs := s.wgs } = s ∧
        let v := u.absorb w.uid (.quad k q)
        let held := ((v.opsOf w.uid (.quad k q)).map (fun e => (e.2.parts.filter (fun p => p.2.st == .held)).map (fun p => (e.1, p.1)))).flatten
        let sent := held.foldl (fun s e => s.resent e.1 e.2) v
        exec (.rett mode) s = .next ((held.foldl (fun s e => match exec (.homeAccessPerform e.1 e.2) s with
          | .next t => t
          | _ => s) sent).resumeWg k))) ∧
    (mode.toNat = 2 → exec (.rett mode) s = .next (s.endUnit w.unit k q sh.fault sh.pos false false))

/-- Held entries: a store of one line whose extent is absent is held at its home, with no byte written and one report to its quad, naming the store; a later entry
of the quad's store buffer whose route names the same extent is held with it when it would be performed; an STO is held with it at the RETT, since it waits for it
till then (R104, R105, R235). -/
def Claims.HeldStores : Prop :=
  ∀ (s : State) (id j k q : Nat) (f : Flight) (p : Part) (w : Wg) (x : Quad), s.part? id j = some (f, p) → p.place = .dev → p.st = .arrived →
    (f.job = .store ∨ f.job = .sto ∨ ∃ n, f.job = .strl n) → f.sup = false → f.uid = w.uid → f.party = .quad k q → s.resident w.uid = some (k, w) → s.wg? k = some w →
    w.quads.find q = some x → s.isSaved f.uid = false → s.mayAll (s.membersOf f p) = true → s.bridgeMet f p = true →
    (f.job ≠ .sto → (∃ e ∈ s.flights, e.1 < id ∧ e.2.uid = f.uid ∧ e.2.party = f.party ∧ ∃ h ∈ e.2.parts, h.2.st = .held ∧
        dlOf h.2.route = dlOf p.route ∧ slOf h.2.route = slOf p.route ∧ xlOf h.2.route = xlOf p.route ∧
        (plOf h.2.route = plOf p.route ∨ (s.isLocal f.tenant h.2.route = true ∧ s.isLocal f.tenant p.route = true))) →
      ∃ t g, exec (.homeAccessPerform id j) s = .next t ∧ t.mem = s.mem ∧ t.wgs = s.wgs ∧
        t.part? id j = some (g, { p with st := .held })) ∧
    ((∀ e ∈ s.flights, e.1 < id → e.2.uid = f.uid → e.2.party = f.party → ∀ h ∈ e.2.parts, h.2.st ≠ .held) →
      f.parts = [(j, p)] → f.faults = [] → s.membersOf f p = [(id, j)] → s.twins f p = [] → (∀ a ∈ p.accs, a.key < 4) →
      (∀ a as, p.accs = a :: as → ∃ xl, s.lookup f.tenant f.job.kind a.addr = .error ⟨cEXTENT_ABSENT, 4, xl⟩) →
      ∀ a as, p.accs = a :: as → (∀ b ∈ as, a.key < b.key) →
        ∃ t y g i, exec (.homeAccessPerform id j) s = .next t ∧ t.mem = s.mem ∧ t.part? id j = some (g, { p with st := .held }) ∧
          t.quad? k q = some y ∧ y = { x with reports := x.reports ++ [(i, f.pos.issued)] } ∧
          i.cause = cEXTENT_ABSENT ∧ i.level = 4 ∧ i.route = a.addr ∧ i.lanes = maskOf (p.accs.map (·.key)) ∧ i.tpc = f.pos.pc)

/-- The return from the handler, and what becomes of the stores held for it. -/
def Obligations.ReturnFromHandler : Prop := Claims.ReturnFromHandler ∧ Claims.HeldStores

/-- A unit that ends: every member that was not ending already halts in the ending stage with the fault's record, and nothing
else of the module changes (R113). -/
def Claims.EndingAUnit : Prop :=
  ∀ (s : State) (unit k q : Nat) (f : FaultInfo) (pos : Cl) (sup imprecise : Bool) (t : State), t = s.endUnit unit k q f pos sup imprecise →
    { t with wgs := s.wgs } = s ∧
    (∀ j w, s.wg? j = some w → w.unit ≠ unit → t.wg? j = some w) ∧
    ∀ j w, s.wg? j = some w → w.unit = unit →
      ((∀ h, w.halt = some h → h.stage ≠ .ending) →
        t.wg? j = some { w with was := w.halt, halt := some ⟨if j = k then q else 127, f, pos, sup, imprecise, .ending, 0, none, s.nextId⟩ }) ∧
      ∀ h, w.halt = some h → h.stage = .ending → t.wg? j = some w

/-- A fault ends the unit when Table 5-1 gives its cause disposition T, when a sequencer or supervisor code raises it, or when TVEC is 0; a refused fetch of a quad never does for its
cause alone; any other fault of an unhalted workgroup starts a halt with the quad as origin. In a workgroup that halts already a quad's fault leaves no trace, and the quad stops there, but
for the lowest of several in one cycle, which becomes the origin, of a halt or of an end that no fault in a handler began; a fault of the handler, or of a sequencer, ends the unit (R103, R108,
R110, R112, R113, R275, R387; log entry 56: that a sequencer's fault in a halt ends the unit is the model's choice). -/
def Claims.RaisingAFault : Prop :=
  ∀ (s : State) (k q : Nat) (w : Wg) (f : FaultInfo) (pos : Cl) (sup imprecise : Bool), s.wg? k = some w →
    let ends := (f.cause ∈ [0x1C, 0x25, 0x26, 0x29, 0x2A, 0x2B, 0x2C, 0x2D, 0x2E, 0x33, 0x37] ∧ f.fetch = false) ∨ 64 ≤ q ∨ sup = true ∨
      (s.csr (dieOf k) w.tenant).tvec = 0
    let t := s.raise k q f pos sup imprecise
    let stood := fun (x : Quad) => if x.cl = pos then { x with cl := pos.issued } else x
    let s0 := s.updQuad k q stood
    let halt := fun (stage : HaltStage) => some (Halt.mk q f pos.issued sup imprecise stage 0 none s.nextId)
    (w.halt = none → (ends → t = s0.endUnit w.unit k q f pos.issued sup imprecise) ∧
      (¬ ends → WgBecomes s t k { w with quads := w.quads.upd q stood, was := none, halt := halt .stopping })) ∧
    ∀ h, w.halt = some h →
      let yields := (h.stage = .stopping ∨ (h.stage = .ending ∧ h.sup = false)) ∧ h.cycles = 0 ∧ q < h.origin ∧ h.origin < 64 ∧
        ∀ z, w.quads.find h.origin = some z → z.shadow = none
      (64 ≤ q ∨ (sup = true ∧ h.stage = .handler) → t = s0.endUnit w.unit k q f pos.issued sup imprecise) ∧
      (q < 64 → ¬ (sup = true ∧ h.stage = .handler) → ¬ yields → t = s0.updQuad k q (fun x => { x with await := some ⟨.stopped, 0, 0⟩ })) ∧
      (yields → ∃ v, t.wg? k = some v ∧ (¬ ends → v.halt = halt .stopping) ∧ (ends → v.halt = halt .ending) ∧
        (∀ z, w.quads.find h.origin = some z → ∃ z', v.quads.find h.origin = some z' ∧ z'.await = some ⟨.stopped, 0, 0⟩ ∧
          (h.imprecise = true → z'.reports = (h.fault, h.pos) :: z.reports) ∧
          (h.imprecise = false → z.cl.issued = h.pos → z' = { z with await := z'.await })) ∧
        ∀ j u, j ≠ k → s.wg? j = some u → u.unit = w.unit → ¬ ends →
          (u.halt.any (fun g => g.stage == .ending && g.cycles == 0) = true → t.wg? j = some { u with halt := u.was }) ∧
          (u.halt.any (fun g => g.stage == .ending && g.cycles == 0) = false → t.wg? j = some u))

/-- Raising a fault in a unit, and ending a unit. -/
def Obligations.FaultsAndUnitEnds : Prop := Claims.EndingAUnit ∧ Claims.RaisingAFault

/-- SCSRR reads the supervisor CSRs of Table 5-2, to a pair when the CSR is 64 bits wide; SCSRW writes TVEC, WAITCAP, CTXBASE and PREEMPTCFG of the
tenant on the die. An unknown id, an odd register for a 64-bit CSR, or a bad value raises ILL_FIELD; then a write of any other CSR raises PRIV (R107, R117, R388). -/
def Obligations.SupervisorCsrForms : Prop :=
  ∀ (s : State) (k q : Nat) (w : Wg) (x : Quad) (a : IArgs), s.Issues k q w x →
    let id := a.imm.toNat
    let c := s.csr (dieOf k) w.tenant
    let v := x.reg x.lowest a.a.toNat
    let p := x.pair x.lowest a.a.toNat
    let wide := id ∈ [0x800, 0x804, 0x805, 0x80A]
    (∀ e ∈ ([(0x801, x.trap.cause), (0x802, x.trap.level), (0x803, x.trap.label), (0x806, x.trap.lanes), (0x807, x.trap.skid),
        (0x808, c.waitcap), (0x809, c.weight), (0x80B, c.preemptcfg)] : List (Nat × Word)),
      id = e.1 → ∃ t y, exec (.scsrr a) s = .next t ∧ QuadBecomes s t k q y ∧ AdvancesRegs x y 1 ∧
        WritesReg x y x.active a.d.toNat (fun _ => e.2)) ∧
    (a.d.toNat % 2 = 0 →
      ∀ e ∈ ([(0x800, c.tvec), (0x804, x.trap.pc), (0x805, x.trap.route), (0x80A, c.ctxbase)] : List (Nat × W64)),
        id = e.1 → ∃ t y, exec (.scsrr a) s = .next t ∧ QuadBecomes s t k q y ∧ AdvancesRegs x y 1 ∧
          WritesPair x y x.active a.d.toNat (fun _ => e.2)) ∧
    ((id < 0x800 ∨ 0x80B < id) → s.Raises k q x (.scsrr a) cILL_FIELD ∧ s.Raises k q x (.scsrw a) cILL_FIELD) ∧
    (wide → (a.d.toNat % 2 = 1 → s.Raises k q x (.scsrr a) cILL_FIELD) ∧ (a.a.toNat % 2 = 1 → s.Raises k q x (.scsrw a) cILL_FIELD)) ∧
    (let writes := fun (new : SupCsr) => ∃ t y, exec (.scsrw a) s = .next t ∧ t.csr (dieOf k) w.tenant = new ∧ t.quad? k q = some y ∧
        Passes x y ∧ { t with wgs := s.wgs, sched := { t.sched with csrs := s.sched.csrs } } = s ∧
        ∀ d u, (d ≠ dieOf k ∨ u ≠ w.tenant) → u < 16 → w.tenant < 16 → t.csr d u = s.csr d u
     (id = 0x800 → a.a.toNat % 2 = 0 → writes { c with tvec := p }) ∧
     (id = 0x808 → writes { c with waitcap := v }) ∧
     (id = 0x80A → a.a.toNat % 2 = 0 → isDev p = true → offOf p = 0 → xlOf p % 2 = 0 → writes { c with ctxbase := p }) ∧
     (id = 0x80B → v.toNat / 2 % 2 ^ 7 = 0 → writes { c with preemptcfg := v })) ∧
    (id ∈ [0x801, 0x802, 0x803, 0x806, 0x807, 0x809] ∨ (id ∈ [0x804, 0x805] ∧ a.a.toNat % 2 = 0) → s.Raises k q x (.scsrw a) cPRIV) ∧
    (id = 0x80A → a.a.toNat % 2 = 0 → ¬ (isDev p = true ∧ offOf p = 0 ∧ xlOf p % 2 = 0) → s.Raises k q x (.scsrw a) cILL_FIELD) ∧
    (id = 0x80B → v.toNat / 2 % 2 ^ 7 ≠ 0 → s.Raises k q x (.scsrw a) cILL_FIELD)

/-- RTSET writes the range entry that an image describes, keeping DIS and MDIS, and gives 0 once no access that passed the old entry is outstanding, at once where the write takes
nothing away; it is the hypervisor tenant's, PRIV otherwise, and answers 8 unless the target's TDI is in CONFIG_UNLOCKED, 8 for a bad image, 9 for one that overlaps; with CLR it
clears V (R203, R368). DMSET writes a domain entry from a pair (R207), and RGSET a region entry (R211), each with the codes of its rule in their order, and nothing written then. -/
def Obligations.TableForms : Prop :=
  ∀ (s : State) (k q : Nat) (w : Wg) (x : Quad) (a : LArgs), s.Issues k q w x → (∀ ops d, x.await.map (·.what) ≠ some (.drain ops d)) →
    let v := (x.reg x.lowest a.b.toNat).toNat
    let r := x.pair x.lowest a.a.toNat
    let answers := fun (i : Instr) (u : State) (code : Nat) => ∃ t, exec i s = .next t ∧ GivesStatus u t k q x a.d code
    (let i := Instr.rtset a
     let target := v / 256 % 16
     let idx := v % 32
     let old := s.range target idx
     let ops := s.passed target idx
     let settles := fun (u : State) (takes : Prop) => (takes → ops ≠ [] → ∃ t, exec i s = .next t ∧ Waits u t k q x (.drain ops a.d.toNat)) ∧
       (¬ takes ∨ ops = [] → answers i u 0)
     (v / 32 % 8 ≠ 0 ∨ 2 ^ 13 ≤ v → s.Raises k q x i cILL_FIELD) ∧
     (v / 32 % 8 = 0 → v < 2 ^ 13 → s.tab.hypervisor ≠ some w.tenant → s.Raises k q x i cPRIV) ∧
     (v / 32 % 8 = 0 → v < 2 ^ 13 → s.tab.hypervisor = some w.tenant →
       (4096 ≤ v → (s.tdi target ≠ .unlocked → answers i s 8) ∧ (s.tdi target = .unlocked → settles (s.clearRange target idx) (old.v = true))) ∧
       (v < 4096 → s.ReadsImage k q w x i r 4 (fun ds =>
         let e : RangeImage := ⟨BitVec.ofNat 64 (ds.getD 0 0), BitVec.ofNat 64 (ds.getD 1 0), BitVec.ofNat 64 (ds.getD 2 0), BitVec.ofNat 64 (ds.getD 3 0)⟩
         let bad := s.tdi target ≠ .unlocked ∨ e.d0.toNat / 2 ^ 38 ≠ 0 ∨ e.d3 ≠ 0 ∨ (∃ j, j < 8 ∧ e.path j / 2 ^ 12 % 8 ≠ 0) ∨ e.hi < e.lo ∨
           (e.v = true ∧ ∀ j, j < 4 → e.path j < 2 ^ 15) ∨ (e.mir = true ∧ ((∀ j, 4 ≤ j → j < 8 → e.path j < 2 ^ 15) ∨ e.d0.getLsbD 28 = true))
         let overlaps := (∃ j, j < 32 ∧ j ≠ idx ∧ (s.range target j).v = true ∧ e.lo ≤ (s.range target j).hi ∧ (s.range target j).lo ≤ e.hi) ∨
           e.lo = 0 ∨ (e.lo ≤ (s.selfpl target).toNat ∧ (s.selfpl target).toNat ≤ e.hi)
         let takes := old.v = true ∧ (e.v = false ∨ (∃ b, (25 ≤ b ∧ b ≤ 28 ∨ 32 ≤ b ∧ b ≤ 37) ∧ old.d0.getLsbD b = true ∧ e.d0.getLsbD b = false) ∨
           old.lo < e.lo ∨ e.hi < old.hi ∨ ∃ j, j < 8 ∧ 2 ^ 15 ≤ old.path j ∧ old.path j ≠ e.path j)
         (bad → answers i s 8) ∧ (¬ bad → overlaps → answers i s 9) ∧ (¬ bad → ¬ overlaps → settles (s.setRange target idx e) takes))))) ∧
    (∀ target idx (e : RangeImage), target < 16 → idx < 32 →
      let t := s.setRange target idx e
      let n := t.range target idx
      n.d1 = e.d1 ∧ n.d2 = e.d2 ∧ n.d3 = e.d3 ∧ n.dis = (s.range target idx).dis ∧ n.mdis = (s.range target idx).mdis ∧
        (∀ b, b ≠ 30 → b ≠ 31 → n.d0.getLsbD b = e.d0.getLsbD b) ∧
        (∀ b, ((s.clearRange target idx).range target idx).d0.getLsbD b = if b = 24 then false else (s.range target idx).d0.getLsbD b) ∧
        (∀ tt j, (tt ≠ target ∨ j ≠ idx) → tt < 16 → j < 32 → t.range tt j = s.range tt j) ∧
        { t with tab := { t.tab with ranges := s.tab.ranges } } = s) ∧
    (let i := Instr.rgset a
     let sl := v % 2 ^ 12
     let stack := v / 2 ^ 12
     let o := s.region stack sl
     let gr := s.grant w.tenant stack
     (2 ^ 16 ≤ v → s.Raises k q x i cILL_FIELD) ∧
     (v < 2 ^ 16 → s.ReadsImage k q w x i r 2 (fun ds =>
       let e := (BitVec.ofNat 64 (ds.getD 0 0), BitVec.ofNat 64 (ds.getD 1 0))
       let lo := rgXbase e
       let hi := rgXbase e + rgLimit e
       let present := fun xl => rgV o = true ∧ xl < rgLimit o ∧ xtP (s.extent stack (rgXbase o + xl)) = true
       let foreign := sl < gr.sl ∨ gr.sl + gr.slN ≤ sl ∨ lo < gr.x ∨ gr.x + gr.xN < hi ∨ (rgV o = true ∧ rgOwner o ≠ w.tenant)
       let bad := e.1.toNat / 2 ^ 43 ≠ 0 ∨ e.1.toNat / 2 ^ 30 % 4 ≠ 0 ∨ e.2.toNat / 2 ^ 17 ≠ 0 ∨ rgOwner e ≠ w.tenant ∨ rgLimit e = 0 ∨ 1024 < rgLimit e ∨
         (rgEnc e = true ∧ (s.keySlot stack (rgKey e)).tdi ≠ some w.tenant)
       let overlaps := rgV e = true ∧ ∃ z ∈ s.tab.regions, z.1 / Config.regions = stack ∧ z.1 % Config.regions ≠ sl ∧ rgV z.2 = true ∧
         lo < rgXbase z.2 + rgLimit z.2 ∧ rgXbase z.2 < hi
       let loses := ∃ xl, present xl ∧ (rgV e = false ∨ rgXbase e ≠ rgXbase o ∨ rgLimit e ≤ xl ∨ rgHmask e ≠ rgHmask o)
       let migrates := (∃ xl, present xl ∧ xtMig (s.extent stack (rgXbase o + xl)) = true) ∧
         ((∃ b, (b < 5 ∨ 8 < b) ∧ o.1.getLsbD b ≠ e.1.getLsbD b) ∨ o.2 ≠ e.2)
       (foreign → answers i s 7) ∧ (¬ foreign → bad → answers i s 8) ∧ (¬ foreign → ¬ bad → overlaps → answers i s 9) ∧
       (¬ foreign → ¬ bad → ¬ overlaps → loses → answers i s 10) ∧ (¬ foreign → ¬ bad → ¬ overlaps → ¬ loses → migrates → answers i s 5) ∧
       (¬ foreign → ¬ bad → ¬ overlaps → ¬ loses → ¬ migrates → ∃ t, exec i s = .next t ∧ GivesStatus (s.setRegion stack sl e) t k q x a.d 0 ∧
         t.region stack sl = e ∧ t.mem = s.mem ∧ t.tab.extents = s.tab.extents ∧
         ∀ st n, (st ≠ stack ∨ n ≠ sl) → n < Config.regions → t.region st n = s.region st n)))) ∧
    (let i := Instr.dmset a
     let n := r.toNat
     let stack := n / 2 ^ 6 % 16
     let pool := r.getLsbD 5 = true
     let bad := n / 2 ^ 21 ≠ 0 ∨ n / 2 ^ 12 % 16 ≠ 0 ∨ n / 2 ^ 10 % 4 ≠ stack / 4 ∨ (r.getLsbD 20 = true ∧ n / 2 ^ 16 % 16 ≠ w.tenant) ∨
       (r.getLsbD 0 = true ∧ pool ∧ v ≠ 0xC0 + stack) ∨ (r.getLsbD 0 = true ∧ ¬ pool ∧ 0xC0 ≤ v ∧ v ≤ 0xCF) ∨
       s.isReady (18 * 32 + stack) = false
     (256 ≤ v → s.Raises k q x i cILL_FIELD) ∧
     (v < 256 → (bad → answers i s 8) ∧ (¬ bad → pool → s.poolSize w.tenant stack = 0 → answers i s 11) ∧
       (¬ bad → (pool → s.poolSize w.tenant stack ≠ 0) → ∃ t, exec i s = .next t ∧
         t.domain w.tenant v = r ∧ GivesStatus { s with tab := { s.tab with domains := t.tab.domains } } t k q x a.d 0 ∧
         ∀ tt dl, (tt ≠ w.tenant ∨ dl ≠ v) → dl < 256 → t.domain tt dl = s.domain tt dl)))

/-- MAPX and MIGX send a request to the base die of the stack that their argument names, with a completion word counted as a store, and wait at issue while there is no room for it;
UNMAPX unmaps a present extent at once with code 0, its frame's contents kept, and answers 2, 1 or 5 otherwise; a bad argument or completion route raises ILL_FIELD (R202, R215, R217,
R218). -/
def Claims.ExtentForms : Prop :=
  ∀ (s : State) (k q : Nat) (w : Wg) (x : Quad) (a : LArgs), s.Issues k q w x →
    let v := x.reg x.lowest a.b.toNat
    let f := x.reg x.lowest (a.b.toNat + 1)
    let r := x.pair x.lowest a.a.toNat
    (∀ c ∈ ([(.mapx, false), (.migx, true)] : List ((LArgs → Instr) × Bool)),
      let good := v.toNat < 2 ^ 28 ∧ (c.2 = true → v.getLsbD 26 = false) ∧ f.toNat < 2 ^ 17 ∧ s.isLocal w.tenant r = true ∧ r.toNat % 8 = 0
      (¬ good → s.Raises k q x (c.1 a) cILL_FIELD) ∧
      (good → 256 ≤ s.transUsed w.uid (.quad k q) → ∃ t, exec (c.1 a) s = .next t ∧ Waits s t k q x .stall) ∧
      (good → HasRoom s k q w 1 →
        let stack := v.toNat / 2 ^ 22 % 16
        ∃ t g y, exec (c.1 a) s = .next t ∧
          Tab.get [] t.tab.reqs stack = Tab.get [] s.tab.reqs stack ++ [⟨c.2, w.tenant, v, f, s.nextId⟩] ∧
          t.flights.find s.nextId = some g ∧ g.job = .word ∧ t.mem = s.mem ∧ t.quad? k q = some y ∧
          y.cl = x.cl.next 1 ∧ y.regs = x.regs ∧ y.uad + y.uap = x.uad + x.uap + 1)) ∧
    (2 ^ 26 ≤ v.toNat → s.Raises k q x (.unmapx a) cILL_FIELD) ∧
    (v.toNat < 2 ^ 26 →
      let sl := v.toNat % 2 ^ 12
      let xl := v.toNat / 2 ^ 12 % 2 ^ 10
      let stack := v.toNat / 2 ^ 22 % 16
      let g := s.region stack sl
      let i := rgXbase g + xl
      let e := s.extent stack i
      let found := rgV g = true ∧ rgOwner g = w.tenant ∧ xl < rgLimit g
      (¬ found → ∃ t, exec (.unmapx a) s = .next t ∧ GivesStatus s t k q x a.d 2) ∧
      (found → xtP e = false → ∃ t, exec (.unmapx a) s = .next t ∧ GivesStatus s t k q x a.d 1) ∧
      (found → xtP e = true → xtMig e = true → ∃ t, exec (.unmapx a) s = .next t ∧ GivesStatus s t k q x a.d 5) ∧
      (found → xtP e = true → xtMig e = false → ∃ t y, exec (.unmapx a) s = .next t ∧ t.extent stack i = 0 ∧
        t.frame stack (xtFrame e) = { s.frame stack (xtFrame e) with mapped := false, pool := false } ∧ t.mem = s.mem ∧
        t.quad? k q = some y ∧ AdvancesRegs x y 1 ∧ WritesReg x y x.active a.d.toNat (fun _ => 0)))

/-- At the base die: MAPX_AT_BASE_DIE and MIGX_AT_BASE_DIE take the request at the head, check it in the order of their rule, and finish with the code of the first check that
fails; otherwise MAPX maps the frame, with Z a frame of zeros, and finishes with code 0 and the frame; MIGX takes one of four slots and marks the extent. MIGRATION_LINE_COPY copies
the next line; MIGRATION_SWITCH, after the last line, points the extent at the new frame and unmaps the old (R215, R218, R219). -/
def Claims.BaseDieForms : Prop :=
  (∀ (s : State) (stack choice : Nat) (r : BaseReq) (rest : List BaseReq), Tab.get [] s.tab.reqs stack = r :: rest →
    let g := s.region stack (r.arg.toNat % 2 ^ 12)
    let xl := r.arg.toNat / 2 ^ 12 % 2 ^ 10
    let i := rgXbase g + xl
    let e := s.extent stack i
    let named := r.frame.toNat % 2 ^ 17
    let found := rgV g = true ∧ rgOwner g = r.tenant ∧ xl < rgLimit g
    let free := fun f => ∃ z ∈ s.tab.frames, z.1 / Config.frames = stack ∧ z.1 % Config.frames = f ∧ z.2.owner = some r.tenant ∧ z.2.mapped = false ∧
      z.2.pool = false
    let any := r.arg.getLsbD 27 = true
    let frames := fun f => (any ∧ free f) ∨ (¬ any ∧ f = named ∧ f < Config.frames ∧ free f)
    let noFrame := if any then 4 else 3
    let finishes := fun (t : State) (code f : Nat) => Tab.get [] t.tab.reqs stack = rest ∧ ∀ fl, s.flights.find r.op = some fl →
      ∃ fl', t.flights.find r.op = some fl' ∧ ∀ p ∈ fl'.parts, p.2.st = .flying ∧ ∀ z ∈ p.2.accs, z.data = 2 ^ 31 + code * 2 ^ 20 + f
    let refuses := fun (i : Instr) (code : Nat) => ∃ t, exec i s = .next t ∧ finishes t code 0 ∧ t.mem = s.mem ∧ t.tab.extents = s.tab.extents ∧
      t.tab.frames = s.tab.frames ∧ t.tab.migs = s.tab.migs
    (r.migrate = false →
      let m := Instr.mapxAtBaseDie stack choice
      (¬ found → refuses m 2) ∧ (found → xtP e = true → refuses m 1) ∧
      (found → xtP e = false → (∀ f, ¬ frames f) → refuses m noFrame) ∧
      (found → xtP e = false → (∃ f, frames f) → ∃ t f, exec m s = .next t ∧ frames f ∧ finishes t 0 f ∧ t.extent stack i = mkExtent f ∧
        (t.frame stack f).mapped = true ∧
        ∀ b, t.mem.read b = if r.arg.getLsbD 26 = true ∧ Memory.key stack (f * 2 ^ 21) ≤ b ∧ b < Memory.key stack (f * 2 ^ 21) + 2 ^ 21 then 0
          else s.mem.read b)) ∧
    (r.migrate = true →
      let m := Instr.migxAtBaseDie stack choice
      let slots := fun j => j < 4 ∧ (s.tab.migs.find (stack * 4 + j)).isNone = true
      (¬ found → refuses m 2) ∧ (found → xtP e = false → refuses m 1) ∧ (found → xtP e = true → xtMig e = true → refuses m 5) ∧
      (found → xtP e = true → xtMig e = false → (∀ j, ¬ slots j) → refuses m 6) ∧
      (found → xtP e = true → xtMig e = false → (∃ j, slots j) → (∀ f, ¬ frames f) → refuses m noFrame) ∧
      (found → xtP e = true → xtMig e = false → (∃ j, slots j) → (∃ f, frames f) → ∃ t j f, exec m s = .next t ∧ slots j ∧ frames f ∧
        t.tab.migs.find (stack * 4 + j) = some ⟨i, xtFrame e, f, 0, r.op, s.isPoolRegion r.tenant stack (r.arg.toNat % 2 ^ 12), r.arg.toNat % 2 ^ 12⟩ ∧
        xtMig (t.extent stack i) = true ∧ xtSlot (t.extent stack i) = j ∧ xtFrame (t.extent stack i) = xtFrame e ∧ (t.frame stack f).mapped = true ∧
        t.mem = s.mem))) ∧
  ∀ (s : State) (stack slot : Nat) (m : Mig), s.tab.migs.find (stack * 4 + slot) = some m → s.mem.wf = true →
    (m.lines < 16384 → m.old ≠ m.new → ∃ t, exec (.migrationLineCopy stack slot) s = .next t ∧
      t.tab.migs.find (stack * 4 + slot) = some { m with lines := m.lines + 1 } ∧
      ∀ b, t.mem.read b =
        (let dst := Memory.key stack (m.new * 2 ^ 21 + m.lines * 128)
         let src := Memory.key stack (m.old * 2 ^ 21 + m.lines * 128)
         if dst ≤ b ∧ b < dst + 128 then s.mem.read (b - dst + src) else s.mem.read b)) ∧
    (m.lines < 16384 → exec (.migrationSwitch stack slot) s = .next s) ∧
    (16384 ≤ m.lines → m.new < 2 ^ 17 → m.old ≠ m.new → ∃ t, exec (.migrationSwitch stack slot) s = .next t ∧ t.extent stack m.ext = mkExtent m.new ∧
      xtFrame (t.extent stack m.ext) = m.new ∧ (m.old < Config.frames → m.new < Config.frames → (t.frame stack m.old).mapped = false ∧ (t.frame stack m.new).mapped = true) ∧
      (t.tab.migs.find (stack * 4 + slot)).isNone = true ∧ t.mem = s.mem)

/-- The forms that map, unmap and migrate extents, and what the base dies do of them. -/
def Obligations.ExtentsAndBaseDie : Prop := Claims.ExtentForms ∧ Claims.BaseDieForms

/-- PREEMPT: a slot number with a bad core or cluster raises ILL_FIELD; an empty slot or another tenant's gives status 1, a unit without PE 2, one that is being saved, ended or
discarded 3, the issuer's own workgroup 4, and one for which no save slot is free 5, each with nothing else done (log entry 58 for the order); an accepted request gives 0 and halts
every member of a unit that is not halted, to be saved; where a member is halted it waits (R118, R122). -/
def Claims.PreemptForm : Prop :=
  ∀ (s : State) (k q : Nat) (w : Wg) (x : Quad) (a : LArgs), s.Issues k q w x →
    let v := (x.reg x.lowest a.a.toNat).toNat
    let target := ((v / 2 ^ 10 % 4 * 6 + v / 2 ^ 7 % 8) * 24 + v / 2 ^ 2 % 32) * 4 + v % 4
    let bad := 2 ^ 12 ≤ v ∨ 24 ≤ v / 2 ^ 2 % 32 ∨ 6 ≤ v / 2 ^ 7 % 8
    let answers := fun (code : Nat) => ∃ t, exec (.preempt a) s = .next t ∧ GivesStatus s t k q x a.d code
    (bad → s.Raises k q x (.preempt a) cILL_FIELD) ∧
    (¬ bad → (∀ u, s.wg? target = some u → u.tenant ≠ w.tenant) → answers 1) ∧
    ∀ u, ¬ bad → s.wg? target = some u → u.tenant = w.tenant →
      let going := ∃ e ∈ s.wgs, e.2.unit = u.unit ∧ (e.2.preempt ≠ none ∨ ∃ h, e.2.halt = some h ∧ (h.stage = .ending ∨ ∃ c l, h.stage = .saving c l))
      let accepted := ∃ t y, exec (.preempt a) s = .next t ∧ t.quad? k q = some y ∧ AdvancesRegs x y 1 ∧ WritesReg x y x.active a.d.toNat (fun _ => 0) ∧
        ∀ j z, s.wg? j = some z → z.unit = u.unit → ∃ z', t.wg? j = some z' ∧
          ((∀ e ∈ s.wgs, e.2.unit = u.unit → e.2.halt = none) →
            z'.preempt = none ∧ z'.halt = some ⟨127, whole cPREEMPT 0 0, Cl.start 0, false, false, .saving cPREEMPT [], 0, none, 0⟩) ∧
          ((∃ e ∈ s.wgs, e.2.unit = u.unit ∧ e.2.halt ≠ none) → z'.preempt = some cPREEMPT ∧ z'.halt = z.halt)
      (u.pe = false → answers 2) ∧ (u.pe = true → going → answers 3) ∧ (u.pe = true → ¬ going → target = k → answers 4) ∧
      (u.pe = true → ¬ going → target ≠ k →
        (s.slotRoom (dieOf target) w.tenant (s.unitWgs u.unit).length = false → answers 5) ∧
        (s.slotRoom (dieOf target) w.tenant (s.unitWgs u.unit).length = true → accepted))

/-- CTXSV and CTXLD: a route that is no slot's raises ILL_FIELD, and one that level 0 refuses its fault. CTXSV waits until Q0 and Q2 of the workgroup are performed, then writes the save record of the
workgroup as it stood at handler entry, line by line, and gives status 0 when all is written. CTXLD reads a record; with a card or SHAPE that is not the workgroup's own it changes nothing and gives
status 1, and otherwise replaces the workgroup's context and gives 0. A record begins with the card, and has the SHAPE at offset 208 (R119, R120, Table 5-5). The model's choices are the offset
of the SHAPE (log entry 12), the save cause in the record, that of the trap that the handler handles (log entry 64), and that a record outside the module is accessed line by line (log entry
33). -/
def Claims.ContextForms : Prop :=
  ∀ (s : State) (k q : Nat) (w : Wg) (x : Quad) (a : LArgs), s.Issues k q w x →
    let r := x.pair x.lowest a.a.toNat
    let good := isDev r = true ∧ offOf r = 0 ∧ xlOf r % 2 = 0
    let enters := fun (i : Instr) (kind : AccKind) (as : List Access) => ∃ t f y, exec i s = .next t ∧ t.flights.find s.nextId = some f ∧
      f.job = .words kind ∧ f.party = .quad k q ∧ f.tenant = w.tenant ∧
      f.parts.map (fun e => e.2.accs) = as.map (fun z => [{ z with key := (lanesOf x.mask).headD 0 }]) ∧ t.mem = s.mem ∧
      t.quad? k q = some y ∧ y.cl = x.cl.issued ∧ y.regs = x.regs ∧ y.await.map (·.what) = some (.words s.nextId)
    let reached := ∃ e ∈ x.got, e.1 = r
    (∀ c ∈ ([(.ctxsv, .store), (.ctxld, .load)] : List ((LArgs → Instr) × AccKind)),
      (¬ good → s.Raises k q x (c.1 a) cILL_FIELD) ∧
      ∀ e, good → s.level0 w.tenant c.2 none r = .error e →
        exec (c.1 a) s = .next (s.raise k q ⟨e.cause, e.level, 0, e.label, r, x.mask, x.cl.pc, false⟩ x.cl x.sup false)) ∧
    (good → (∃ o, s.level0 w.tenant .store none r = .ok o) →
      (reached → ∃ t, exec (.ctxsv a) s = .next t ∧ GivesStatus s t k q x a.d 0) ∧
      (¬ reached → (∃ e ∈ s.flights, e.2.uid = w.uid ∧
          ((∃ c, e.2.job = .copy c) ∨ (∃ b d, e.2.job = .cpl b d) ∨ (∃ d, e.2.job = .kld d) ∨ (e.2.job = .kst ∧ e.2.done = false))) →
        ∃ t, exec (.ctxsv a) s = .next t ∧ Waits s t k q x .other) ∧
      (¬ reached → s.copiesDone w.uid = true →
        ∃ image, let rec' := s.recordOf k ((w.halt.map (fun h => h.fault.cause)).getD 0) (w.updQuad q (·.trapped)) image
          enters (.ctxsv a) .store (recordWrites r w.sections rec') ∧
          ((∀ e ∈ w.quads, e.1 < 64) → rec'.readN 0 8 = w.card.toNat ∧ rec'.readN 208 8 = w.shape.toNat))) ∧
    (good → (∃ o, s.level0 w.tenant .load none r = .ok o) →
      (¬ reached → enters (.ctxld a) .load (recordReads r w.sections)) ∧
      (reached →
        let m := recordRead r x.got
        let own := m.readN 0 8 = w.card.toNat ∧ m.readN 208 8 = w.shape.toNat
        (¬ own → ∃ t, exec (.ctxld a) s = .next t ∧ GivesStatus s t k q x a.d 1) ∧
        (own → x.shadow ≠ none → ∃ t v y, exec (.ctxld a) s = .next t ∧ t.wg? k = some v ∧ v.card = w.card ∧ v.shape = w.shape ∧ v.halt = w.halt ∧ v.uid = w.uid ∧
          v.gen = w.gen ∧ t.mem = s.mem ∧ t.quad? k q = some y ∧ y.cl = x.cl.next 1 ∧ y.mask = x.mask ∧ y.preds = x.preds ∧
          (∀ b, b < w.slines * 128 → Tab.get 0 v.scratch b = m.read (oScratch + b)) ∧
          ∀ n, n < w.slines → v.full.has n = ((m.readN (oFull + n / 8) 1) / 2 ^ (n % 8) % 2 == 1))))

/-- PREEMPT and the forms that save and load contexts. -/
def Obligations.PreemptionAndContexts : Prop := Claims.PreemptForm ∧ Claims.ContextForms

/-! ### Sequencers, copies, products (14_copy, 15_matrix) -/

/-- The scalar forms of the sequencers write k[KD] of k[KA] and k[KB], or the sign-extended literal, and nothing else; KCMP combines a 64-bit comparison into kp[KD]; KBR goes
to h + 4 × SignExt(OFF16) when kp[KP] XOR NEG is 1, and passes otherwise; a bad target raises BR_TARGET (R276, R277). -/
def Obligations.SequencerScalarForms : Prop :=
  ∀ (s : State) (k p : Nat) (w : Wg) (x : Seq), s.SeqIssues k p w x →
    (∀ (a : KArgs),
      let u := x.reg a.ka.toNat
      let v := x.src a.kb
      (∀ e ∈ seqTable, ∃ t y, exec (e.1 a) s = .next t ∧ WgBecomes s t k (w.withSeq p y) ∧
        y = { x with k := y.k, cl := x.cl.next a.kb.size, await := none, got := [] } ∧
        ∀ n, y.reg n = if n = a.kd.toNat then e.2 u v else x.reg n) ∧
      ∃ t y, exec (.kcmp a) s = .next t ∧ WgBecomes s t k (w.withSeq p y) ∧
        y = { x with kp := y.kp, cl := x.cl.next a.kb.size, await := none, got := [] } ∧
        ∀ n, y.pred n = if n = a.kd.toNat % 8 then
          cmbTable (a.imm.toNat / 8 % 4) (x.pred n) (ccTable (a.imm.toNat % 8) u.toInt v.toInt u.toNat v.toNat) else x.pred n) ∧
    ∀ (b : KbrArgs),
      (x.pred b.kp.toNat = b.neg → ∃ t y, exec (.kbr b) s = .next t ∧ WgBecomes s t k (w.withSeq p y) ∧ SeqPasses x y 1) ∧
      (x.pred b.kp.toNat ≠ b.neg → s.SeqTransfers k p w x (.kbr b) (x.cl.hdr + BitVec.ofInt 64 (4 * b.off.toInt)))

/-- KLD and KST access 8 bytes at k[KA] + SignExt(IMM8) × 8: KLD waits at its place, and LOAD_DATA_RETURN writes k[KD]; KST completes as it enters the queue. An
unaligned address raises ALIGN, a host-half address with bits [62:57] set HOST_XLATE, and one that level 0 refuses its fault (R194, R278, R389). -/
def Claims.SequencerMemoryForms : Prop :=
  (∀ (s : State) (k p : Nat) (w : Wg) (x : Seq) (a : KArgs), s.SeqIssues k p w x →
    (∀ e ∈ s.flights, e.2.uid = w.uid → e.2.party = seqParty k p → ∀ n, e.2.job ≠ .kld n) →
    let r := x.reg a.ka.toNat + BitVec.ofInt 64 (a.imm.toInt * 8)
    (CleanAt s w .load none ⟨0, r, 8, 0, 0, 0⟩ →
      ∃ t y e, exec (.kld a) s = .next t ∧
        SeqEntered s t k p w x (.kld a.kd.toNat) [(0, e)] (w.withSeq p y) ∧ e.accs = [⟨0, r, 8, 0, 0, 0⟩] ∧ e.st = .flying ∧
        y = { x with cl := x.cl.issued, await := y.await }) ∧
    (CleanAt s w .store none ⟨0, r, 8, 0, 0, 0⟩ →
      ∃ t y e, exec (.kst a) s = .next t ∧
        SeqEntered s t k p w x .kst [(0, e)] (w.withSeq p y) ∧ e.accs = [⟨0, r, 8, (x.src a.kb).toNat, 0, 0⟩] ∧ e.st = .flying ∧
        SeqPasses x y a.kb.size) ∧
    (∀ c ∈ ([(.kld, .load), (.kst, .store)] : List ((KArgs → Instr) × AccKind)),
      (r.toNat % 8 ≠ 0 → exec (c.1 a) s = .next (s.raise k p ⟨cALIGN, 15, 0, 0, r, 0, x.cl.pc, false⟩ x.cl false false)) ∧
      (r.toNat % 8 = 0 → hostBad r = true → exec (c.1 a) s = .next (s.raise k p ⟨cHOST_XLATE, 5, 0, 0, r, 0, x.cl.pc, false⟩ x.cl false false)) ∧
      ∀ e, r.toNat % 8 = 0 → hostBad r = false → s.level0 w.tenant c.2 none r = .error e →
        exec (c.1 a) s = .next (s.raise k p ⟨e.cause, e.level, 0, e.label, r, 0, x.cl.pc, false⟩ x.cl false false))) ∧
  ∀ (s : State) (id k p : Nat) (w : Wg) (f : Flight) (n v : Nat), p = 64 ∨ p = 65 → s.flights.find id = some f → f.job = .kld n →
    f.party = seqParty k p → f.uid = w.uid → s.resident w.uid = some (k, w) → s.wg? k = some w → f.done = true → f.back = true → f.values = [(0, v)] →
    ∃ t u, exec (.loadDataReturn id) s = .next t ∧ t.mem = s.mem ∧ t.flights.find id = none ∧ t.wg? k = some u ∧ u.quads = w.quads ∧
      (u.seqOf p).cl = (w.seqOf p).cl.next 1 ∧ (u.seqOf p).await = none ∧
      ∀ m, (u.seqOf p).reg m = if m = n then BitVec.ofNat 64 v else (w.seqOf p).reg m

/-- KBARA, after the operations of its queue, arrives at a barrier that expects its context, and KBARW passes when the context's arrival does not stand; KEND, after the
operations of its queue, ends the context. A barrier that does not expect the context, or a second arrival, raises BAR_MISUSE (R279, R280). -/
def Claims.SequencerBarrierForms : Prop :=
  ∀ (s : State) (k p : Nat) (w : Wg) (x : Seq) (a : KArgs), s.SeqIssues k p w x →
    let n := a.imm.toNat % 16
    let bar := Tab.get (⟨0, []⟩ : Barrier) w.bars n
    let expects := (if p = 64 then w.mseq.getLsbD n else w.cseq.getLsbD n) = true
    let parties := w.barq.getD n 0 + (if w.mseq.getLsbD n then 1 else 0) + (if w.cseq.getLsbD n then 1 else 0)
    let arrived : Tab Barrier := Tab.set ⟨0, []⟩ w.bars n
      (if bar.arrived.length + 1 = parties then ⟨bar.phase + 1, []⟩ else ⟨bar.phase, bar.arrived ++ [p]⟩)
    (expects → p ∉ bar.arrived → s.seqIdle k p w →
      ∃ t y, exec (.kbara a) s = .next t ∧ WgBecomes s t k { w.withSeq p y with bars := arrived } ∧ SeqPasses x y 1) ∧
    (expects → p ∉ bar.arrived → ∃ t y, exec (.kbarw a) s = .next t ∧ WgBecomes s t k (w.withSeq p y) ∧ SeqPasses x y 1) ∧
    (expects → p ∈ bar.arrived → ∃ t, exec (.kbarw a) s = .next t ∧ SeqWaits s t k p w x .stall) ∧
    (expects → p ∉ bar.arrived → ¬ s.seqIdle k p w → ∃ t, exec (.kbara a) s = .next t ∧ SeqWaits s t k p w x .stall) ∧
    (¬ expects ∨ p ∈ bar.arrived → s.SeqRaises k p x (.kbara a) cBAR_MISUSE) ∧
    (¬ expects → s.SeqRaises k p x (.kbarw a) cBAR_MISUSE) ∧
    (s.seqIdle k p w → (∃ e ∈ w.quads, e.2.live = true) →
      ∃ t, exec (.kend a) s = .next t ∧ WgBecomes s t k (w.withSeq p { x with mode := .ended, await := none })) ∧
    (¬ s.seqIdle k p w → ∃ t, exec (.kend a) s = .next t ∧ SeqWaits s t k p w x .stall)

/-- The sequencers' loads, stores and barriers. -/
def Obligations.SequencerMemoryAndBarriers : Prop := Claims.SequencerMemoryForms ∧ Claims.SequencerBarrierForms

/-- TDEF defines tile IMM8[5:0] from k[KA], or with no lines undefines it, and clears the full bits of the lines it had; a reserved bit raises
ILL_FIELD, and lines outside the allocation SCRATCH_BOUND; it waits while the tile is filling or draining. LRDEF takes a layout record from four scalars or from the scratchpad of a member,
and refuses a bad one with LAYOUT_BAD, and an address by ALIGN, SCRATCH_BOUND or SCRATCH_CORE (R244, R284, R286, R298). -/
def Obligations.TileAndLayoutForms : Prop :=
  ∀ (s : State) (k p : Nat) (w : Wg) (x : Seq) (a : KArgs), s.SeqIssues k p w x →
    (let v := (x.reg a.ka.toNat).toNat
     let n := a.imm.toNat % 64
     let base := v % 2 ^ 14
     let nl := v / 2 ^ 14 % 2 ^ 14
     (v < 2 ^ 28 → nl = 0 ∨ base + nl ≤ w.slines →
       (w.tiles.find n = none ∨ ∃ t0, FreeTile s w n t0) →
       ∃ t u y, exec (.tdef a) s = .next t ∧ WgBecomes s t k u ∧ SeqPasses x y 1 ∧
         u = { w.withSeq p y with tiles := u.tiles, full := u.full } ∧
         (∀ m, u.tiles.find m = if m = n then (if nl = 0 then none else some ⟨base, nl⟩) else w.tiles.find m) ∧
         ∀ l, u.full.has l = (w.full.has l && !(w.tiles.find n).any (fun o => decide (o.base ≤ l) && decide (l < o.base + o.nl)))) ∧
     (v < 2 ^ 28 → nl = 0 ∨ base + nl ≤ w.slines → (w.tiles.find n).isSome = true → w.halt = none →
       (∃ e ∈ s.flights, ∃ c, e.2.uid = w.uid ∧ e.2.job = .copy c ∧ c.tile = n ∧ (c.kind = .cpt ∨ c.todo ≠ [])) →
       ∃ t, exec (.tdef a) s = .next t ∧ SeqWaits s t k p w x .stall) ∧
     (2 ^ 28 ≤ v → s.SeqRaises k p x (.tdef a) cILL_FIELD) ∧
     (v < 2 ^ 28 → nl ≠ 0 → w.slines < base + nl →
       exec (.tdef a) s = .next (s.raise k p ⟨cSCRATCH_BOUND, 6, 0, 31, 0, 0, x.cl.pc, false⟩ x.cl false false))) ∧
    (p = 65 →
      let regs : Layout := ⟨x.reg a.ka.toNat, x.reg (a.ka.toNat + 1), x.reg (a.ka.toNat + 2), x.reg (a.ka.toNat + 3)⟩
      let at' := (x.reg a.ka.toNat).toNat % 2 ^ 32
      let faults := fun (cause level label : Nat) =>
        exec (.lrdef a) s = .next (s.raise k p ⟨cause, level, 0, label, BitVec.ofNat 64 at', 0, x.cl.pc, false⟩ x.cl false false)
      let takes := fun (l : Layout) =>
        (l.bad = false → ∃ t u y, exec (.lrdef a) s = .next t ∧ WgBecomes s t k u ∧ SeqPasses x y 1 ∧
          u = { w with cpy := { w.cpy with seq := y, ly := u.cpy.ly } } ∧
          ∀ m, u.cpy.layout m = if m = a.kd.toNat % 8 then l else w.cpy.layout m) ∧
        (l.bad = true → s.SeqRaises k p x (.lrdef a) cLAYOUT_BAD)
      (a.imm.toNat % 2 = 0 → takes regs) ∧
      (a.imm.toNat % 2 = 1 → at' % 32 ≠ 0 → faults cALIGN 15 0) ∧
      (a.imm.toNat % 2 = 1 → at' % 32 = 0 →
        (at' / 2 ^ 26 ≠ 0 ∨ w.slines * 128 ≤ at' % 2 ^ 21 → faults cSCRATCH_BOUND 6 (at' / 2 ^ 21 % 32)) ∧
        (at' / 2 ^ 26 = 0 → at' % 2 ^ 21 < w.slines * 128 →
          (s.member k w (at' / 2 ^ 21 % 32) = none → faults cSCRATCH_CORE 6 (at' / 2 ^ 21 % 32)) ∧
          ∀ m v, s.member k w (at' / 2 ^ 21 % 32) = some m → s.wg? m = some v →
            let d := fun (n : Nat) => BitVec.ofNat 64 (v.scratch.bytes (at' % 2 ^ 21 + 8 * n) 8)
            takes ⟨d 0, d 1, d 2, d 3⟩)))

/-- CPT takes a free tile that the layout record fits, clears its full bits, and enters a copy of the record's 16-byte pieces; CPTO and CPR, from a ready
tile, enter a copy of 16-byte pieces, or of single elements; CPMC enters a copy to the other members whose cores its mask names; CPWT answers the drop count once few
enough copies are left, and waits till then, as each does for its tile. An undefined tile raises TILE_UNDEF, a record that does not fit LAYOUT_BAD, CPR of a workgroup with PE
ILLEGAL_IN_PREEMPTIBLE (R285, R288 to R292). -/
def Obligations.CopyForms : Prop :=
  ∀ (s : State) (k : Nat) (w : Wg) (x : Seq) (a : KArgs), s.SeqIssues k 65 w x →
    let n := a.imm.toNat % 64
    let b := x.reg a.ka.toNat
    let l := w.cpy.layout (a.kd.toNat % 8)
    let passed := { x with cl := x.cl.next 1, await := none, got := [] }
    let fails := fun (i : Instr) (cause : Nat) => s.SeqRaises k 65 x i cause
    let waits := fun (i : Instr) => ∃ t, exec i s = .next t ∧ SeqWaits s t k 65 w x .stall
    (w.tiles.find n = none → ∀ c ∈ ([.cpt, .cpto, .cpr] : List (KArgs → Instr)), fails (c a) cTILE_UNDEF) ∧
    (∀ t0, w.tiles.find n = some t0 →
      let lines := (List.range t0.nl).map (fun i => t0.base + i)
      (l.fits b t0.nl = true → FreeTile s w n t0 → ∃ t u ps, exec (.cpt a) s = .next t ∧
        SeqEntered s t k 65 w x (.copy ⟨.cpt, n, t0.base, t0.nl, false, false, l, b, lines, [], [], [], 0, a.ka.toNat⟩) ps u ∧
        CopyLines ps l b 16 ∧ u = { w.withSeq 65 passed with full := u.full } ∧
        ∀ m, u.full.has m = (w.full.has m && !lines.contains m)) ∧
      (l.fits b t0.nl = false → fails (.cpt a) cLAYOUT_BAD) ∧
      (w.halt = none → (∃ e ∈ s.flights, ∃ c, e.2.uid = w.uid ∧ e.2.job = .copy c ∧ c.tile = n ∧ (c.kind = .cpt ∨ c.todo ≠ [])) →
        (l.fits b t0.nl = true → waits (.cpt a)) ∧ waits (.cpto a) ∧ waits (.cpr a) ∧ (b.toNat < 2 ^ 24 → waits (.cpmc a))) ∧
      ((∃ i, i < t0.nl ∧ w.full.has (t0.base + i) = false) → waits (.cpto a) ∧ waits (.cpr a) ∧ (b.toNat < 2 ^ 24 → waits (.cpmc a))) ∧
      (ReadyTile s w n t0 →
        (l.fits b t0.nl = false → fails (.cpto a) cLAYOUT_BAD ∧ fails (.cpr a) cLAYOUT_BAD) ∧
        (l.fits b t0.nl = true →
          (∃ t ps, exec (.cpto a) s = .next t ∧ CopyLines ps l b 16 ∧
            SeqEntered s t k 65 w x (.copy ⟨.cpto, n, t0.base, t0.nl, a.imm.getLsbD 6, false, l, b, lines, [], [], [], 0, a.ka.toNat⟩) ps
              (w.withSeq 65 passed)) ∧
          (w.pe = false → ∃ t ps, exec (.cpr a) s = .next t ∧ CopyLines ps l b (if a.imm.getLsbD 6 then 2 else 4) ∧
            SeqEntered s t k 65 w x (.copy ⟨.cpr, n, t0.base, t0.nl, true, a.imm.getLsbD 6, l, b, lines, [], [], [], 0, a.ka.toNat⟩) ps
              (w.withSeq 65 passed)) ∧
          (w.pe = true → fails (.cpr a) cILLEGAL_IN_PREEMPTIBLE)) ∧
        (b.toNat < 2 ^ 24 → ∃ t gens, exec (.cpmc a) s = .next t ∧
          SeqEntered s t k 65 w x (.copy ⟨.cpmc, n, t0.base, t0.nl, true, false, ⟨0, 0, 0, 0⟩, 0, lines, [], gens, [], 0, a.ka.toNat⟩) []
            (w.withSeq 65 passed) ∧
          (∀ c, (∃ g, (c, g) ∈ gens) ↔ c < 24 ∧ b.toNat / 2 ^ c % 2 = 1 ∧ c ≠ coreOf k) ∧
          ∀ c m g, (c, some (m, g)) ∈ gens → coreOf m = c ∧ ∃ v, (m, v) ∈ s.wgs ∧ v.unit = w.unit ∧ v.gen = g))) ∧
    (2 ^ 24 ≤ b.toNat → fails (.cpmc a) cILL_FIELD) ∧
    (b.toNat < 2 ^ 24 → w.tiles.find n = none → fails (.cpmc a) cTILE_UNDEF) ∧
    (let left := s.flights.filter (fun e => e.2.uid == w.uid && e.2.party == .cpy k && !e.2.performed)
     (left.length ≤ a.imm.toNat → ∃ t u y, exec (.cpwt a) s = .next t ∧ WgBecomes s t k u ∧
       u = { w with cpy := { w.cpy with drops := 0, seq := y } } ∧ y = { x with k := y.k, cl := x.cl.next 1, await := none, got := [] } ∧
       ∀ m, y.reg m = if m = a.kd.toNat then w.cpy.drops.setWidth 64 else x.reg m) ∧
     (a.imm.toNat < left.length → ∃ t, exec (.cpwt a) s = .next t ∧ SeqWaits s t k 65 w x .cpwt))

/-- MMA, MMAG and MMAM issue when their tiles are ready and R301, R304, R305 and R308 refuse nothing: MMA and MMAM enter Q1 with their accumulator pending under
LA; MMAG begins to gather, and with its rows in the latch it enters Q1, or raises GATHER_INDEX for a row index out of range, after the checks of its tile B. ACLR empties an accumulator under a tag; ACST enters the lines
of the accumulator; ACLD, SXLD and CBLD enter Q1. An undefined tile raises TILE_UNDEF, a bad descriptor or size FMT_BAD, a tag that does not fit ACC_BAD, VQ16 before CBLD
CODEBOOK_UNSET; a tile that is not ready is waited for (R301, R303 to R305, R307, R308, R310 to R313, R388; log entry 25: that the rows stand in the latch from the gather's end on is
the model's choice). -/
def Obligations.MatrixForms : Prop :=
  ∀ (s : State) (k : Nat) (w : Wg) (x : Seq), s.SeqIssues k 64 w x →
    (∀ (a : XArgs),
      let d := x.reg a.kf.toNat
      let q := x.reg (a.kf.toNat + 1)
      let fails := fun (i : Instr) (cause : Nat) => s.SeqRaises k 64 x i cause
      let waits := fun (i : Instr) => ∃ t, exec i s = .next t ∧ SeqWaits s t k 64 w x .stall
      let latched := w.mtx.gather = some a ∧ w.mtx.latch ≠ none
      let unready := fun (n : Nat) => ∃ t, w.tiles.find n = some t ∧ ∃ i, i < t.nl ∧ w.full.has (t.base + i) = false
      let enters := fun (t : State) (m : MatMul) =>
        SeqEntered s t k 64 w x (.matmul m) [] { w with mtx := w.mtx.entered x s.nextId [a.acc.toNat] a.la.toNat 2 }
      (w.tiles.find a.tb.toNat = none → ∀ c ∈ ([.mma, .mmag, .mmam] : List (XArgs → Instr)), fails (c a) cTILE_UNDEF) ∧
      (w.tiles.find a.ta.toNat = none → fails (.mma a) cTILE_UNDEF ∧ fails (.mmag a) cTILE_UNDEF ∧ fails (.mmam a) cTILE_UNDEF) ∧
      (w.tiles.find a.ti.toNat = none → fails (.mmag a) cTILE_UNDEF) ∧
      ((w.tiles.find a.ta.toNat).isSome = true → (w.tiles.find a.tb.toNat).isSome = true → unready a.ta.toNat ∨ unready a.tb.toNat →
        waits (.mma a) ∧ waits (.mmam a) ∧ ((w.tiles.find a.ti.toNat).isSome = true → unready a.tb.toNat ∨ ¬ latched → waits (.mmag a))) ∧
      ((w.tiles.find a.ta.toNat).isSome = true → (w.tiles.find a.tb.toNat).isSome = true → unready a.ti.toNat → ¬ latched → waits (.mmag a)) ∧
      ∀ ta tb fa fb, ReadyTile s w a.ta.toNat ta → ReadyTile s w a.tb.toNat tb →
        (GoodDesc d fa fb ta.nl tb.nl → GoodAcc w.mtx a.acc.toNat d →
          ∃ t, exec (.mma a) s = .next t ∧ enters t ⟨0, a, d, 0, w.mtx.sx, ta.base, tb.base, [], []⟩) ∧
        ((∀ ga gb, ¬ GoodDesc d ga gb ta.nl tb.nl) → fails (.mma a) cFMT_BAD) ∧
        (GoodDesc d fa fb ta.nl tb.nl →
          let tag := (w.mtx.get a.acc.toNat).tag
          let wrong := (dMode d = 0 ∧ tag ≠ .f) ∨ (dMode d = 2 ∧ tag ≠ .i)
          (wrong → fails (.mma a) cACC_BAD) ∧
          (¬ wrong → (dFa d = 15 ∨ dFb d = 15) → w.mtx.bookSet = false → fails (.mma a) cCODEBOOK_UNSET)) ∧
        (∀ ti, ReadyTile s w a.ti.toNat ti → (∀ ga gb, ¬ GoodDesc d ga gb 24 tb.nl) → fails (.mmag a) cFMT_BAD) ∧
        (∀ ti, ReadyTile s w a.ti.toNat ti → ¬ latched → GoodDesc d fa fb 24 tb.nl → GoodAcc w.mtx a.acc.toNat d →
          ∃ t y, exec (.mmag a) s = .next t ∧ WgBecomes s t k { w with mtx := { w.mtx with gather := some a, latch := none, seq := y } } ∧
            y = { x with await := y.await }) ∧
        (∀ l, (w.tiles.find a.ti.toNat).isSome = true → w.mtx.gather = some a → w.mtx.latch = some l → GoodDesc d fa fb 24 tb.nl →
          GoodAcc w.mtx a.acc.toNat d → (l.bad = true → fails (.mmag a) cGATHER_INDEX) ∧
          (l.bad = false → ∃ t, exec (.mmag a) s = .next t ∧
            SeqEntered s t k 64 w x (.matmul ⟨1, a, d, 0, w.mtx.sx, ta.base, tb.base, l.rows, l.zeros⟩) []
              { w with mtx := ({ w.mtx with gather := none, latch := none } : Mtx).entered x s.nextId [a.acc.toNat] a.la.toNat 2 })) ∧
        (d.toNat / 2 ^ 32 = 0 → d.toNat % 2 ^ 12 = 0 → dScf d = 1 → dMode d = 3 → dK d ∈ [4, 8, 16] → dK d ≤ ta.nl → dK d ≤ tb.nl →
          (2 ≤ q.toNat → q.toNat < 2 ^ 62 → (w.mtx.get a.acc.toNat).tag = .m →
            ∃ t, exec (.mmam a) s = .next t ∧ enters t ⟨2, a, d, q, [], ta.base, tb.base, [], []⟩) ∧
          ((w.mtx.get a.acc.toNat).tag ≠ .m → fails (.mmam a) cACC_BAD) ∧
          ((w.mtx.get a.acc.toNat).tag = .m → (q.toNat < 2 ∨ 2 ^ 62 ≤ q.toNat) → fails (.mmam a) cMOD_BAD))) ∧
    ∀ (a : KArgs),
      let n := a.imm.toNat % 64
      let v := (x.src a.kb).toNat
      (∃ t u, exec (.aclr a) s = .next t ∧ WgBecomes s t k u ∧
        u = { w with mtx := { w.mtx with acc := u.mtx.acc, seq := { x with cl := x.cl.next 1, await := none, got := [] } } } ∧
        ∀ m, u.mtx.get m = if m = a.kd.toNat % 8 then
          ⟨if a.imm.toNat % 4 = 0 then .f else if a.imm.toNat % 4 = 1 then .i else .m, []⟩ else w.mtx.get m) ∧
      (w.tiles.find n = none → ∀ c ∈ ([.acst, .acld, .sxld, .cbld] : List (KArgs → Instr)),
        s.SeqRaises k 64 x (c a) cTILE_UNDEF) ∧
      (∀ t0, FreeTile s w n t0 → (w.mtx.get (a.kd.toNat % 8)).tag ≠ .f → v = 0 →
        let m := (w.mtx.get (a.kd.toNat % 8)).tag = .m
        (if m then 16 else 32) ≤ t0.nl →
        ∃ t data, exec (.acst a) s = .next t ∧
          SeqEntered s t k 64 w x (.acst n t0.base ((List.range (if m then 16 else 32)).map (fun i => t0.base + i)) data) []
            (w.withSeq 64 { x with cl := x.cl.next 1, await := none, got := [] }) ∧
          ∀ i j, (m → i < 16 → j < 16 → (Tab.get 0 (w.mtx.get (a.kd.toNat % 8)).el (i * 16 + j)) < 2 ^ 64 →
              (∀ h, h < 16 → Tab.get 0 (w.mtx.get (a.kd.toNat % 8)).el (i * 16 + h) < 2 ^ 64) →
              data.bytes (i * 128 + j * 8) 8 = Tab.get 0 (w.mtx.get (a.kd.toNat % 8)).el (i * 16 + j)) ∧
            (¬ m → i < 32 → j < 32 → (∀ h, h < 32 → Tab.get 0 (w.mtx.get (a.kd.toNat % 8)).el (i * 32 + h) < 2 ^ 32) →
              data.bytes (i * 128 + j * 4) 4 = Tab.get 0 (w.mtx.get (a.kd.toNat % 8)).el (i * 32 + j))) ∧
      ∀ t0, ReadyTile s w n t0 →
        let enters := fun (t : State) (j : Job) (dst : List Nat) (la words : Nat) =>
          SeqEntered s t k 64 w x j [] { w with mtx := w.mtx.entered x s.nextId dst la words }
        (v % 4 ≠ 3 → v / 4 % 8 = 0 → v < 2 ^ 6 → (if v % 4 = 2 then 16 else 32) ≤ t0.nl →
          ∃ t, exec (.acld a) s = .next t ∧ enters t (.acld (a.kd.toNat % 8) n t0.base
            (if v % 4 = 0 then .f else if v % 4 = 1 then .i else .m) (v / 2 ^ 5 % 2 == 1)) [a.kd.toNat % 8] (a.imm.toNat / 64) 1) ∧
        (v % 4 = 3 ∨ v / 4 % 8 ≠ 0 ∨ 2 ^ 6 ≤ v ∨ t0.nl < (if v % 4 = 2 then 16 else 32) → s.SeqRaises k 64 x (.acld a) cFMT_BAD) ∧
        (t0.nl ≤ v → s.SeqRaises k 64 x (.sxld a) cFMT_BAD) ∧ (t0.nl < 8 → s.SeqRaises k 64 x (.cbld a) cFMT_BAD) ∧
        (v < t0.nl → ∃ t, exec (.sxld a) s = .next t ∧ enters t (.sxld (a.kd.toNat % 8) n (t0.base + v)) [] 0 a.kb.size) ∧
        (8 ≤ t0.nl → ∃ t, exec (.cbld a) s = .next t ∧ enters t (.cbld n t0.base) [] 0 1)

/-- TILE_LINE_WRITE writes a line of CPT's tile whole, once every piece of it has been read, and sets its full bit; TILE_READ_COMPLETE gives a copy out of a
tile every line that it has not read, and CPTO without KEEP then clears the tile's full bits; MULTICAST_DELIVERY writes a line of CPMC in a member that still
has its generation, with its full bit, or counts a drop; COPY_PERFORMED ends a copy with nothing left to do, in the order of Q0, and its lost lines count then. A copy waits for a tile line that an earlier copy of
its context still needs, a delivery for an earlier one of the same line to the same core, and a copy that its engine's stop has squashed does nothing (R288, R289, R291 to R294). That lost
lines are counted at COPY_PERFORMED (log entry 51) and that the tile is read at TILE_READ_COMPLETE (log entry 25) are the model's choices. -/
def Obligations.CopyEvents : Prop :=
  ∀ (s : State) (id k : Nat) (w : Wg) (f : Flight) (c : Copy), s.flights.find id = some f → f.job = .copy c → f.uid = w.uid →
    s.resident w.uid = some (k, w) → s.wg? k = some w →
    let sends := fun (d : Copy) (core line : Nat) => d.kind = .cpmc ∧ (∃ g, Tab.find d.gens core = some g) ∧ d.base ≤ line ∧ line < d.base + d.nl ∧
      (core, line) ∉ d.wrote
    let before := fun (d : Copy) => ∃ e ∈ s.flights, e.1 < id ∧ e.2.uid = f.uid ∧ e.2.party = f.party ∧ e.2.job = .copy d
    let free := fun (line : Nat) => ∀ d, before d → line ∉ d.todo ∧ ¬ sends d (coreOf f.party.wg) line
    let left := fun (t : State) (todo : List Nat) => ∃ g d, t.flights.find id = some g ∧ g.job = .copy d ∧ d.todo = todo
    (w.stopped f.job = true → (∀ l, exec (.tileLineWrite id l) s = .next s ∧ ∀ n, exec (.multicastDelivery id n l) s = .next s) ∧
      exec (.tileReadComplete id) s = .next s ∧ exec (.copyPerformed id) s = .next s) ∧
    (w.stopped f.job = false →
    (∀ line, ¬ free line → exec (.tileLineWrite id line) s = .next s ∧ ∀ n, exec (.multicastDelivery id n line) s = .next s) ∧
    (∀ line, c.kind = .cpt → line ∈ c.todo → c.base ≤ line → free line →
      (∀ e ∈ f.parts, (∃ z ∈ e.2.accs, z.key / 128 = line - c.base) → e.2.st = .performed ∧ (e.2.place = .dev → e.2.back = true)) →
      let mine := fun (z : Access) => (∃ e ∈ f.parts, z ∈ e.2.accs) ∧ z.key / 128 = line - c.base
      (∀ z, mine z → z.key % 128 + z.size ≤ 128) →
      (∀ y z, mine y → mine z → y ≠ z → y.key + y.size ≤ z.key ∨ z.key + z.size ≤ y.key) →
      ∃ t v, exec (.tileLineWrite id line) s = .next t ∧ t.wg? k = some v ∧ v = { w with scratch := v.scratch, full := v.full } ∧
        left t (c.todo.filter (fun l => l != line)) ∧ t.mem = s.mem ∧
        (∀ z, mine z → v.scratch.bytes (c.base * 128 + z.key) z.size = z.got % 2 ^ (8 * z.size)) ∧
        (∀ n, n < line * 128 ∨ line * 128 + 128 ≤ n → Tab.get 0 v.scratch n = Tab.get 0 w.scratch n) ∧
        ∀ l, v.full.has l = (w.full.has l || l == line)) ∧
    (c.kind ≠ .cpt → c.todo ≠ [] → (∀ l ∈ c.todo, free l ∧ c.base ≤ l) → (c.kind = .cpto → c.keep = false → s.heldByMatrix w c.tile = false) →
      ∃ t v g d, exec (.tileReadComplete id) s = .next t ∧ t.wg? k = some v ∧ v = { w with full := v.full } ∧ t.mem = s.mem ∧
        t.flights.find id = some g ∧ g.job = .copy d ∧ d.todo = [] ∧
        (∀ l ∈ c.todo, ∀ i, i < 128 → Tab.get 0 d.buf ((l - c.base) * 128 + i) = Tab.get 0 w.scratch (l * 128 + i)) ∧
        ∀ l, v.full.has l = (w.full.has l && !(c.kind == .cpto && !c.keep && decide (c.base ≤ l) && decide (l < c.base + c.nl)))) ∧
    (∀ core line dest, c.kind = .cpmc → Tab.find c.gens core = some dest → (core, line) ∉ c.wrote → c.base ≤ line → line < c.base + c.nl →
      line ∈ c.todo → free line → (∀ d, before d → ¬ sends d core line) →
      (∀ m g v, dest = some (m, g) → s.wg? m = some v → v.gen = g → ∃ t u, exec (.multicastDelivery id core line) s = .next t ∧
        t.wg? m = some u ∧ u = { v with scratch := u.scratch, full := u.full } ∧ left t (c.todo.filter (fun l => l != line)) ∧
        (∀ i, i < 128 → Tab.get 0 u.scratch (line * 128 + i) = Tab.get 0 w.scratch (line * 128 + i)) ∧
        (∀ n, n < line * 128 ∨ line * 128 + 128 ≤ n → Tab.get 0 u.scratch n = Tab.get 0 v.scratch n) ∧
        ∀ l, u.full.has l = (v.full.has l || l == line)) ∧
      ((∀ m g, dest = some (m, g) → ∀ v, s.wg? m = some v → v.gen ≠ g) → ∃ t g d, exec (.multicastDelivery id core line) s = .next t ∧
        t.wgs = s.wgs ∧ t.flights.find id = some g ∧ g.job = .copy d ∧ d.todo = c.todo.filter (fun l => l != line) ∧ d.lost = c.lost + 1)) ∧
    (∀ core line, (∃ d, before d ∧ sends d core line) → exec (.multicastDelivery id core line) s = .next s) ∧
    (c.todo = [] → f.done = true → (∀ g ∈ c.gens, ∀ i, i < c.nl → (g.1, c.base + i) ∈ c.wrote) →
      (∀ e ∈ s.flights, e.1 < id → e.2.uid = f.uid → e.2.party = f.party → e.2.performed = true) →
      ∃ t, exec (.copyPerformed id) s = .next t ∧ t.flights.find id = none ∧ { t with flights := s.flights, wgs := s.wgs } = s ∧
        t.wg? k = some { w with cpy := { w.cpy with drops := w.cpy.drops + BitVec.ofNat 32 c.lost } }))

/-- LANE_COPY_BATCH_COMPLETE of a batch of one quad's lane: its bytes are written where the slot still has its generation, and the line's full bit is set;
else the core that issued it counts DROPPED. The operation is then over. It waits for the lane's read, for the batches before it, and for its gang to have issued the
instruction whole, unless its workgroup has completed (R125, R248). That a batch closes when its gang has issued whole, and outlives its workgroup, is the model's choice (log entry 24). -/
def Claims.LaneCopyEvent : Prop :=
  ∀ (s : State) (id k q b l m g off j : Nat) (w : Wg) (f : Flight) (p : Part) (z : Access), s.flights.find id = some f →
    f.job = .cpl b [(l, m, g, off)] → f.party = .quad k q →
    f.parts = [(j, p)] → p.accs = [z] → z.key = l → (s.flights.map (·.1)).Nodup →
    (∀ e ∈ s.flights, e.2.uid = f.uid → (∃ d, e.2.job = .cpl b d) → e = (id, f)) →
    let read := p.st = .performed ∧ (p.place = .dev → p.back = true) ∧ f.faults = []
    let turn := ∀ e ∈ s.flights, e.1 < b → e.2.uid = f.uid → e.2.party = f.party → e.2.queue ≠ 2
    let whole' := (s.resident f.uid = some (k, w) ∧ w.stopped f.job = false ∧ ((w.gang q).parted = true ∨ (w.gang q).issued = [])) ∨
      (s.resident f.uid = none ∧ s.isSaved f.uid = false)
    ((¬ read ∨ ¬ turn ∨ (s.resident f.uid = some (k, w) ∧ ((w.gang q).parted = false ∧ (w.gang q).issued ≠ [] ∨ w.stopped f.job = true))) →
      exec (.laneCopyBatchComplete id) s = .next s) ∧
    (read → turn → whole' →
    (∀ v, s.wg? m = some v → v.gen = g → ∃ t u, exec (.laneCopyBatchComplete id) s = .next t ∧ t.flights.find id = none ∧ t.wg? m = some u ∧
      u = { v with scratch := u.scratch, full := u.full } ∧ t.mem = s.mem ∧ (∀ c, Tab.get 0 t.host.dropped c = Tab.get 0 s.host.dropped c) ∧
      u.scratch.bytes off z.size = z.got % 2 ^ (8 * z.size) ∧
      (∀ n, n < off ∨ off + z.size ≤ n → Tab.get 0 u.scratch n = Tab.get 0 v.scratch n) ∧
      ∀ n, u.full.has n = (v.full.has n || n == off / 128)) ∧
    ((∀ v, s.wg? m = some v → v.gen ≠ g) → ∃ t, exec (.laneCopyBatchComplete id) s = .next t ∧ t.flights.find id = none ∧ t.wgs = s.wgs ∧
      t.mem = s.mem ∧ Tab.get 0 t.host.dropped (coreIx k) = Tab.get 0 s.host.dropped (coreIx k) + 1))

/-- The lane copies as they are issued and as they complete. -/
def Obligations.LaneCopies : Prop := Claims.LaneCopyForms ∧ Claims.LaneCopyEvent

/-- MATRIX_OP_COMPLETE, in the order of Q1: SXLD fills a scale vector, CBLD the codebook, ACLD an accumulator; an integer product adds the exact sum of its products
modulo 2^32 to each element, MMAM the sum of products modulo q; a floating product takes the sum of its terms, the accumulator's old value among them
in mode 00. A NaN term, or infinities of both signs, give the canonical NaN, an infinity itself, and no nonzero term +0 (R304, R305, R308, R312, R313, R316). That tiles are
read and accumulators written at the completion is the model's choice (log entry 25). -/
def Obligations.MatrixResults : Prop :=
  (∀ (s : State) (id k : Nat) (w : Wg) (f : Flight), s.flights.find id = some f → f.uid = w.uid → s.resident w.uid = some (k, w) →
    s.wg? k = some w → (∀ e ∈ s.flights, e.1 < id → e.2.uid = f.uid → e.2.party = f.party → e.2.performed = true) →
    let becomes := fun (holds : Mtx → Prop) => ∃ t v, exec (.matrixOpComplete id) s = .next t ∧ t.flights.find id = none ∧ t.mem = s.mem ∧
      t.wg? k = some v ∧ v = { w with mtx := v.mtx } ∧ v.mtx.seq = w.mtx.seq ∧ v.mtx.wins = w.mtx.wins.filter (fun x => x.op != id) ∧ holds v.mtx
    let word := fun (a : Nat) => BitVec.ofNat 32 (w.scratch.bytes a 4)
    let others := fun (m : Mtx) (n : Nat) => ∀ o, o ≠ n → m.get o = w.mtx.get o
    (∀ n tile line, f.job = .sxld n tile line → becomes (fun m => m.acc = w.mtx.acc ∧
      ∀ i, Tab.get 0 m.sx i = if i / 32 = n then word (line * 128 + 4 * (i % 32)) else Tab.get 0 w.mtx.sx i)) ∧
    (∀ tile base, f.job = .cbld tile base → becomes (fun m => m.acc = w.mtx.acc ∧ m.bookSet = true ∧
      ∀ i, i < 256 → Tab.get 0 m.book i = word (base * 128 + 4 * i))) ∧
    (∀ n tile base tag tr, f.job = .acld n tile base tag tr → becomes (fun m => others m n ∧ (m.get n).tag = tag ∧
      ∀ i j, (tag = .m → i < 16 → j < 16 → Tab.get 0 (m.get n).el (i * 16 + j) =
          w.scratch.bytes (base * 128 + 8 * (if tr then j * 16 + i else i * 16 + j)) 8) ∧
        (tag ≠ .m → i < 32 → j < 32 → Tab.get 0 (m.get n).el (i * 32 + j) =
          w.scratch.bytes (base * 128 + 4 * (if tr then j * 32 + i else i * 32 + j)) 4))) ∧
    (∀ p : MatMul, f.job = .matmul p → p.form = 0 → dMode p.desc = 2 → dFa p.desc ∈ [10, 11] → dFb p.desc ∈ [10, 11] →
      let n := p.x.acc.toNat
      let kk := dK p.desc
      becomes (fun m => others m n ∧ (m.get n).tag = .i ∧ ∀ i j, i < 32 → j < 32 →
        ((Tab.get 0 (m.get n).el (i * 32 + j) : Nat) : Int) = ((Tab.get 0 (w.mtx.get n).el (i * 32 + j) : Nat) +
          ((List.range kk).map (fun h => int8 (dFa p.desc) (elemBits w p.baseA kk 8 i h) * int8 (dFb p.desc) (elemBits w p.baseB kk 8 j h))).sum) % 2 ^ 32)) ∧
    (∀ p : MatMul, f.job = .matmul p → p.form = 2 → 0 < p.q.toNat →
      let n := p.x.acc.toNat
      let kk := dK p.desc
      becomes (fun m => others m n ∧ (m.get n).tag = .m ∧ ∀ i j, i < 16 → j < 16 →
        Tab.get 0 (m.get n).el (i * 16 + j) = (Tab.get 0 (w.mtx.get n).el (i * 16 + j) +
          ((List.range kk).map (fun h => elemBits w p.baseA (8 * kk) 64 i h * elemBits w p.baseB (8 * kk) 64 j h)).sum) % p.q.toNat)) ∧
    ∀ p : MatMul, f.job = .matmul p → p.form = 0 → dMode p.desc < 2 →
      let n := p.x.acc.toNat
      let d := p.desc
      let row := fun (base fmt i : Nat) => some (w.scratch.bytes (base * 128 + i * (dK d * widthOf fmt / 8)) (dK d * widthOf fmt / 8))
      becomes (fun m => others m n ∧ (m.get n).tag = .f ∧ ∀ i j, i < 32 → j < 32 →
        let zero : Terms := ⟨false, false, false, []⟩
        Tab.get 0 (m.get n).el (i * 32 + j) =
          ((List.range (dK d)).foldl (fun t h => t.product (element w.mtx.book (dFa d) (row p.baseA (dFa d) i) h)
            (element w.mtx.book (dFb d) (row p.baseB (dFb d) j) h)
            (scaleExp p.sx (dScf d) p.x.sa.toNat i p.x.ba.toNat p.x.sstep.toNat (dBla d) h)
            (scaleExp p.sx (dScf d) p.x.sb.toNat j p.x.bb.toNat p.x.sstep.toNat (dBlb d) h))
            (if dMode d = 0 then zero.add (F32.value (Tab.get 0 (w.mtx.get n).el (i * 32 + j))) else zero)).sum)) ∧
  ∀ (t : Terms),
    (t.nan = true ∨ (t.pos = true ∧ t.neg = true) → t.sum = 0x7FC00000) ∧
    (t.nan = false → t.pos = true → t.neg = false → t.sum = 0x7F800000) ∧
    (t.nan = false → t.pos = false → t.neg = true → t.sum = 0xFF800000) ∧
    (t.nan = false → t.pos = false → t.neg = false → t.ts = [] → t.sum = 0)

/-- MMAG_GATHER_END puts into the latch, for row i of A, the row of tile A that index i of tile I names, +0 for 0xFFFF, once the earlier ACSTs have written both tiles; an index out
of range is kept there for the MMAG to raise, and a halted workgroup gives the gather up. That the rows are read then, and the MMAG issues with them later, is the model's choice (log entry 25).
ACST_LINE_WRITE writes a line of an ACST whole with its full bit, in the order of Q1, and its last line ends it. TABLE_CHANGE_DRAINED gives 0 to RTSET's D once every operation that passed the
old entry is answered (R203, R223, R307, R311, R315, R316). -/
def Obligations.EngineEvents : Prop :=
  (∀ (s : State) (k : Nat) (w : Wg) (a : XArgs) (ta ti : Tile) (fa fb : Nat × Nat), s.wg? k = some w → w.mtx.gather = some a →
    w.tiles.find a.ta.toNat = some ta → w.tiles.find a.ti.toNat = some ti →
    let d := w.mtx.seq.reg a.kf.toNat
    GoodDesc d fa fb 24 24 → 0 < dK d →
    let rb := dK d * fa.1 / 8
    let ix := fun (i : Nat) => w.scratch.bytes (ti.base * 128 + 2 * i) 2
    let inside := ∀ i, i < 32 → ix i = 0xFFFF ∨ ix i < ta.nl * 128 / rb
    let writes := ∃ e ∈ s.flights, e.2.uid = w.uid ∧ ∃ n b todo data, e.2.job = .acst n b todo data ∧
      ∃ l ∈ todo, (ta.base ≤ l ∧ l < ta.base + ta.nl) ∨ (ti.base ≤ l ∧ l < ti.base + ti.nl)
    (w.mtx.latch ≠ none → exec (.mmagGatherEnd k) s = .next s) ∧
    (w.mtx.latch = none → w.halt ≠ none → ∃ t, exec (.mmagGatherEnd k) s = .next t ∧
      WgBecomes s t k { w with mtx := { w.mtx with gather := none, latch := none, seq := { w.mtx.seq with await := none } } }) ∧
    (w.mtx.latch = none → w.halt = none →
      (writes → exec (.mmagGatherEnd k) s = .next s) ∧
      (¬ writes → inside → ∃ t rows zeros, exec (.mmagGatherEnd k) s = .next t ∧
        WgBecomes s t k { w with mtx := { w.mtx with latch := some ⟨rows, zeros, false⟩ } } ∧
        ∀ i, i < 32 → (i ∈ zeros ↔ ix i = 0xFFFF) ∧ (ix i ≠ 0xFFFF → rows.bytes (i * rb) rb = w.scratch.bytes (ta.base * 128 + ix i * rb) rb)) ∧
      (¬ writes → ¬ inside → ∃ t, exec (.mmagGatherEnd k) s = .next t ∧
        WgBecomes s t k { w with mtx := { w.mtx with latch := some ⟨[], [], true⟩ } }))) ∧
  (∀ (s : State) (id k line tile base : Nat) (w : Wg) (f : Flight) (todo : List Nat) (data : Tab Byte), s.flights.find id = some f →
    f.job = .acst tile base todo data → f.uid = w.uid → s.resident w.uid = some (k, w) → s.wg? k = some w → line ∈ todo →
    (∀ e ∈ s.flights, e.1 < id → e.2.uid = f.uid → e.2.party = f.party → e.2.performed = true) →
    ∃ t v, exec (.acstLineWrite id line) s = .next t ∧ t.mem = s.mem ∧ t.wg? k = some v ∧
      v = { w with scratch := v.scratch, full := v.full } ∧
      (∀ i, i < 128 → Tab.get 0 v.scratch (line * 128 + i) = Tab.get 0 data ((line - base) * 128 + i)) ∧
      (∀ n, n < line * 128 ∨ line * 128 + 128 ≤ n → Tab.get 0 v.scratch n = Tab.get 0 w.scratch n) ∧
      (∀ l, v.full.has l = (w.full.has l || l == line)) ∧
      ((∀ l ∈ todo, l = line) → t.flights.find id = none) ∧
      ((∃ l ∈ todo, l ≠ line) → ∃ g, t.flights.find id = some g ∧ g.job = .acst tile base (todo.filter (fun l => l != line)) data)) ∧
  ∀ (s : State) (k q d n c : Nat) (w : Wg) (x : Quad) (ops : List Nat), s.wg? k = some w → w.quads.find q = some x → x.resume = none →
    x.await = some ⟨.drain ops d, n, c⟩ →
    let open' := (∃ e ∈ s.flights, e.1 ∈ ops ∧ e.2.done = false) ∨ ∃ o ∈ s.itin.unanswered, o.op ∈ ops
    (open' → exec (.tableChangeDrained k q) s = .next s) ∧ (¬ open' →
    ∃ t y, exec (.tableChangeDrained k q) s = .next t ∧ t.quad? k q = some y ∧ y.cl = x.cl.next 1 ∧ y.await = none ∧ t.mem = s.mem ∧
      WritesReg x y x.active d (fun _ => 0))

/-! ### Cards, units, scheduling (04_execution, 05_traps, 08_quad_control) -/

/-- A clause header moves the quad to the first instruction of its clause, COUNT words, and no other quad and no memory changes; POST, after what a release
covers, enters the card at the end of the queue of the cluster named at PRIO, or waits while the ring is full, until POST_RING_SPACE enters it; EXIT waits, and EXIT_COMPLETE, with both
counters zero and no store left, ends the quad, and with the last part the workgroup, whose successor is then owed a decrement
(R47, R81, R87 to R90, R185, R186). The form of a queued card in its ring (log entry 7) and TLABEL 0 of a host-half card route (log entry 49, for POST) are the model's choices. -/
def Obligations.HeaderPostExit : Prop :=
  (∀ (s : State) (k q : Nat) (w : Wg) (x : Quad) (h : Word), s.Issues k q w x → s.gate = .header h →
    ∃ t y, exec .clauseHeaderIssue s = .next t ∧ t.quad? k q = some y ∧
      y = { x with cl := ⟨x.cl.pc, 1, h.toNat / 2 ^ 28, h.toNat / 2 ^ 25 % 8, some h⟩, entered := none } ∧
      (∀ k' q', k' ≠ k ∨ q' ≠ q → t.quad? k' q' = s.quad? k' q') ∧ { t with wgs := s.wgs, nextId := s.nextId } = s) ∧
  (∀ (s : State) (k q : Nat) (w : Wg) (x : Quad) (c : BitVec 6) (target : BitVec 2) (r : BitVec 6) (prio : BitVec 2), s.Issues k q w x →
    let card := x.pair x.lowest c.toNat
    let id := (x.reg x.lowest r.toNat).toNat
    let cl := if target.toNat = 0 then k / 96 else if target.toNat = 1 then k / 576 * 6 + (k / 96 % 6 + 5) % 6
      else if target.toNat = 2 then k / 576 * 6 + (k / 96 % 6 + 1) % 6 else id / 8 * 6 + id % 8
    let i := Instr.post c target r prio
    let known := target.toNat = 3 → id < 32 ∧ id % 8 < 6
    (known → card.toNat % 64 = 0 → s.isLocal w.tenant card = true →
      (s.releaseReady ⟨k, q, w, x⟩ 3 = false → ∃ t, exec i s = .next t ∧ Waits s t k q x .stall) ∧
      (s.releaseReady ⟨k, q, w, x⟩ 3 = true →
        (s.ringRoom cl prio.toNat = true → ∃ t y, exec i s = .next t ∧ t.quad? k q = some y ∧ Passes x y ∧
          CardQueued s t (cl * 4 + prio.toNat) card w.tenant none ∧ ∀ k' q', k' ≠ k ∨ q' ≠ q → t.quad? k' q' = s.quad? k' q') ∧
        (s.ringRoom cl prio.toNat = false → ∃ t, exec i s = .next t ∧ Waits s t k q x (.ring cl prio.toNat card)))) ∧
    (¬ known → s.Raises k q x i cILL_FIELD) ∧
    (known → card.toNat % 64 ≠ 0 →
      exec i s = .next (s.raise k q ⟨cALIGN, 15, 0, 0, card, x.mask, x.cl.pc, false⟩ x.cl x.sup false)) ∧
    (known → card.toNat % 64 = 0 → s.isLocal w.tenant card = false → exec i s = .next (s.raise k q
      ⟨cRANGE_PERM, 0, 0, if isDev card then plOf card else 0, card, x.mask, x.cl.pc, false⟩ x.cl x.sup false)) ∧
    ∃ t y c, exec .exit s = .next t ∧ QuadBecomes s t k q y ∧ y = { x with cl := x.cl.issued, await := some c } ∧ (x.await = none → c.what = .exit)) ∧
  ∀ (s : State) (k q : Nat) (w : Wg) (x : Quad), s.wg? k = some w → w.quads.find q = some x → w.halt = none →
    (∀ cl prio card n m, x.await = some ⟨.ring cl prio card, n, m⟩ →
      (s.ringRoom cl prio = false → exec (.postRingSpace k q) s = .next s) ∧
      (s.ringRoom cl prio = true → x.resume = none → ∃ t y, exec (.postRingSpace k q) s = .next t ∧ t.quad? k q = some y ∧
        y.cl = x.cl.next 1 ∧ y.await = none ∧ y.regs = x.regs ∧ CardQueued s t (cl * 4 + prio) card w.tenant none)) ∧
    (∀ n m, x.await = some ⟨.exit, n, m⟩ → x.live = true →
      (x.reports ≠ [] ∨ x.uad ≠ 0 ∨ x.uap ≠ 0 ∨ s.entriesUsed w.uid (.quad k q) ≠ 0 → exec (.exitComplete k q) s = .next s) ∧
      (x.reports = [] → x.uad = 0 → x.uap = 0 → s.entriesUsed w.uid (.quad k q) = 0 →
        ((∃ e ∈ w.quads, e.1 ≠ q ∧ e.2.live = true ∧ w.quads.find e.1 = some e.2) →
          ∃ t y, exec (.exitComplete k q) s = .next t ∧ t.quad? k q = some y ∧ y.live = false ∧ y.regs = x.regs ∧ t.mem = s.mem) ∧
        ((∀ e ∈ w.quads, e.1 ≠ q → e.2.live = false) → (w.quads.map (·.1)).Nodup → w.mtx.seq.mode ≠ .started → w.cpy.seq.mode ≠ .started →
          (∀ e ∈ s.wgs, e.2.unit = w.unit → e.1 = k) → w.entry = none →
          ∃ t, exec (.exitComplete k q) s = .next t ∧ t.wg? k = none ∧ t.mem = s.mem ∧
            t.sched.joins = if w.succ = 0 then s.sched.joins else s.sched.joins ++ [⟨w.succ, w.tenant, k / 576, k / 96 % 6, w.card⟩])))

/-- CARD_ADMISSION of a card of one workgroup on a core with room: the queue loses it, and a free slot of the core gets a workgroup of the card whose quads stand
before the clause header at CODE with every lane active, v0 and v1 holding FRAME and every other register and predicate zero; a refused card leaves its queue with
a record of the first case that refuses it, and the card that comes to the head is read then. JOIN_DECREMENT takes 1 from the successor's JOIN, and the one that takes it from 1 to 0
enters the successor's card; a JOIN at zero, and a decrement that a level refuses, are reported. No card of a tenant that is not in RUN runs (R80, R86, R87, R90 to R92, R367). The model's
choices are the ring (log entry 7), that a decrement to zero waits for room in it (log entry 32), CARD and the empty trap fields of the records (log entry 53), and that a card is read when
it becomes the head (log entry 54). -/
def Obligations.AdmissionAndJoin : Prop :=
  (∀ (s : State) (cluster p core : Nat) (e : Queued) (rest : List Queued) (r : CardRead),
    (∀ u ∈ s.sched.saved, u.cluster = cluster → u.passed = false) →
    s.isReady (18 * 32 + 16 + cluster / 6) = true → p < 4 → s.queue (cluster * 4 + p) = e :: rest →
    (∀ h, p < h → h < 4 → s.queue (cluster * 4 + h) = []) → e.card = some r → e.entry = none →
    let popped := fun (t : State) => (∀ x ∈ rest, x.ring = none) → (∀ x more, rest = x :: more → x.card = none) →
      t.queue (cluster * 4 + p) = match rest with
        | [] => []
        | x :: more => { x with card := some (match s.readDwords x.tenant x.route 8 with
            | .ok c => .card c
            | .error _ => .unreadable) } :: more
    let refused := fun (n : Nat) => s.host.ringUsed < s.host.ringSize →
      ∀ cores, ∃ t r, exec (.cardAdmission cluster cores) s = .next t ∧ t.wgs = s.wgs ∧ t.mem = s.mem ∧ popped t ∧
        Recorded s t r ∧ r.kind = 2 ∧ r.case = n ∧ r.card = e.route ∧ r.tenant = e.tenant
    (r = .unreadable ∨ s.tdi e.tenant ≠ .run → refused 1) ∧
    ∀ c, r = .card c → s.tdi e.tenant = .run →
      (∀ n, n ≤ 8 → s.refusesCard e.tenant c n → (∀ m, m < n → ¬ s.refusesCard e.tenant c m) → refused n) ∧
      ((∀ n, n ≤ 8 → ¬ s.refusesCard e.tenant c n) → cd c 4 / 2 ^ 36 % 2 ^ 5 ≤ 1 → core < 24 → s.isReady (cluster * 24 + core) = true →
        (s.hasRoom (cluster * 24 + core) (cd c 4 % 2 ^ 7) (cd c 4 / 2 ^ 7 % 2 ^ 14) →
          ∃ t slot v, exec (.cardAdmission cluster [core]) s = .next t ∧ slot / 4 = cluster * 24 + core ∧ s.wg? slot = none ∧ t.wg? slot = some v ∧
            (∀ k, k ≠ slot → t.wg? k = s.wg? k) ∧ t.mem = s.mem ∧ popped t ∧
            v.tenant = e.tenant ∧ v.card = e.route ∧ v.wgid = 0 ∧ v.succ = BitVec.ofNat 64 (cd c 2) ∧ v.shape = BitVec.ofNat 64 (cd c 4) ∧
            v.scratch = [] ∧ v.full = [] ∧ v.bars = [] ∧ v.tiles = [] ∧ v.halt = none ∧
            (∀ q, (v.quads.find q).isSome = decide (q < cd c 4 % 2 ^ 7)) ∧
            ∀ q y, v.quads.find q = some y → y.live = true ∧ y.cl = Cl.start (BitVec.ofNat 64 (cd c 0)) ∧ y.mask = 15 ∧ y.depth = 0 ∧
              y.fpstat = 0 ∧ y.uad = 0 ∧ y.uap = 0 ∧ y.sup = false ∧
              ∀ l n, l < 4 → n < 64 → y.reg l n = (if n = 0 then BitVec.ofNat 32 (cd c 1) else if n = 1 then BitVec.ofNat 32 (cd c 1 / 2 ^ 32) else 0) ∧
                y.pred l n = false) ∧
        (¬ s.hasRoom (cluster * 24 + core) (cd c 4 % 2 ^ 7) (cd c 4 / 2 ^ 7 % 2 ^ 14) → exec (.cardAdmission cluster [core]) s = .next s))) ∧
  ∀ (s : State) (n : Nat) (j : Join), s.sched.joins[n]? = some j →
    let gone := fun (t : State) => t.sched.joins = s.sched.joins.eraseIdx n ∧ t.wgs = s.wgs
    let told := fun (t : State) (holds : ErrRec → Prop) => s.host.ringUsed < s.host.ringSize →
      ∃ r, Recorded s t r ∧ r.kind = 2 ∧ r.tenant = j.tenant ∧ holds r
    (∀ x, s.lookup j.tenant .atomic (j.succ + 0x18) = .error x → ∃ t, exec (.joinDecrement n) s = .next t ∧ gone t ∧ t.mem = s.mem ∧
      t.sched.queues = s.sched.queues ∧ told t (fun r => r.case = 10 ∧ r.card = j.card ∧ r.trap.cause = BitVec.ofNat 32 x.cause ∧
        r.trap.level = BitVec.ofNat 32 x.level ∧ r.trap.label = BitVec.ofNat 32 x.label ∧ r.trap.route = j.succ + 0x18)) ∧
    ∀ l, s.lookup j.tenant .atomic (j.succ + 0x18) = .ok l → s.poisoned l.key = false → l.dual = none →
      s.veiled l.enc (l.key / 128 * 128) 128 = [] →
      let old := s.mem.readN l.key 4
      (1 < old → ∃ t, exec (.joinDecrement n) s = .next t ∧ gone t ∧ t.sched.queues = s.sched.queues ∧ t.mem = s.mem.writeN l.key 4 (old - 1)) ∧
      (old = 0 → s.mem.wf = true → ∃ t, exec (.joinDecrement n) s = .next t ∧ gone t ∧ t.sched.queues = s.sched.queues ∧ t.mem = s.mem ∧
        told t (fun r => r.case = 9 ∧ r.card = j.card)) ∧
      ∀ d, s.readDwords j.tenant (j.succ + 0x20) 1 = .ok [d] → old = 1 →
        let cl := j.die * 6 + j.cluster
        let prio := d / 2 ^ 30 % 4
        (s.tdi j.tenant = .run → s.ringRoom cl prio = true → ∃ t u, exec (.joinDecrement n) s = .next t ∧ gone t ∧
          u.mem = s.mem.writeN l.key 4 0 ∧ { u with mem := s.mem, cache := s.cache, host := s.host, tab := s.tab, sched := s.sched, fab := s.fab, free := s.free } = s ∧
          u.sched.queues = s.sched.queues ∧ u.sched.rings = s.sched.rings ∧ CardQueued u t (cl * 4 + prio) j.succ j.tenant none) ∧
        (s.tdi j.tenant = .run → s.ringRoom cl prio = false → exec (.joinDecrement n) s = .next s) ∧
        (s.tdi j.tenant ≠ .run → ∃ t, exec (.joinDecrement n) s = .next t ∧ gone t ∧ t.sched.queues = s.sched.queues ∧
          told t (fun r => r.case = 1 ∧ r.card = j.succ))

/-- A unit of one workgroup that ends: TERMINATION_COMPLETE squashes its incomplete copies and lane copies, and discards its held entries, each taken off its counter. It waits while a counter is not
zero, a local atomic or a remote KST is left, or a name or an operation of Q5 is outstanding; then it frees the slot and sends a record of KIND 1 with the fault and TSKID of every quad. WATCHDOG_EXPIRY, once
the halt has lasted longer than PREEMPTCFG[31:16] × 4,096 cycles, ends it with cause WATCHDOG and the accesses still pending. A saved unit that ends does the same, from its
save slots. IMPRECISE_REPORT_DELIVERY starts a halt of a user-mode quad with the oldest report (R104, R110, R113, R114). The model's choices are SUP of a WATCHDOG record (log entry 63), the
waits beyond the counters (log entry 71), and the ending of a saved unit (log entry 44). -/
def Obligations.UnitEndings : Prop :=
  (∀ (s : State) (k : Nat) (w : Wg) (h : Halt), s.wg? k = some w → w.halt = some h → h.stage = .ending → w.entry = none →
    (∀ e ∈ s.wgs, e.2.unit = w.unit ∨ e.2.uid = w.uid → e = (k, w)) → s.Keyed → s.host.ringUsed < s.host.ringSize →
    (∀ e ∈ s.flights, (e.2.parts.map (·.1)).Nodup) →
    let pending := fun (u : State) => ((u.wg? k).map (fun v => (v.quads.map (fun e => e.2.uad + e.2.uap)).sum)).getD 0
    let d := (s.csr (dieOf k) w.tenant).preemptcfg.toNat / 2 ^ 16
    let ends := fun (i : Instr) (holds : ErrRec → Prop) => ∃ t r, exec i s = .next t ∧ t.wg? k = none ∧ t.mem = s.mem ∧
      (∀ e ∈ s.flights, e.2.uid ≠ w.uid → t.flights.find e.1 = some e.2) ∧ Recorded s t r ∧ r.kind = 1 ∧ r.tenant = w.tenant ∧ r.card = w.card ∧
      r.tskid.length = 64 ∧
      (∀ q x, q < 64 → w.quads.find q = some x → r.tskid.getD q 0 = if x.live = false then 0
        else if h.origin = q then (if (x.shadow.any (fun z => z.fault.cause == cPREEMPT) && !h.sup) = true then x.trap.skid else BitVec.ofNat 32 (q * 16 + 8))
        else if x.trap.cause = BitVec.ofNat 32 cHALT_SIBLING then x.trap.skid else BitVec.ofNat 32 (h.origin * 16 + x.skid)) ∧ holds r
    (∃ u, UnitDiscards s u k w ∧
      let waits := pending u ≠ 0 ∨ u.storesLeft [w.uid] = true ∨ u.continues [w.uid] = false
      (waits → exec (.terminationComplete w.unit) s = .next u) ∧
      (¬ waits → ends (.terminationComplete w.unit) (fun r => r.trap.cause = BitVec.ofNat 32 (h.fault.cause + if h.sup then 64 else 0) ∧
        r.trap.pc = h.fault.tpc ∧ r.trap.route = h.fault.route ∧ r.trap.label = BitVec.ofNat 32 h.fault.label ∧ r.trap.lanes = h.fault.lanes.setWidth 32 ∧ r.pending = 0)) ∧
      (d ≠ 0 → d * 4096 < h.cycles → ends (.watchdogExpiry w.unit) (fun r =>
        r.trap.cause = BitVec.ofNat 32 (cWATCHDOG + if h.sup then 64 else 0) ∧ r.pending = pending u))) ∧
    (d = 0 ∨ h.cycles ≤ d * 4096 → (∀ x ∈ s.sched.saved, x.unit ≠ w.unit) → exec (.watchdogExpiry w.unit) s = .next s)) ∧
  (∀ (s : State) (u : Saved) (v : SavedWg) (e : Ending), s.sched.saved.find? (fun x => x.unit == u.unit) = some u → u.ended = some e → u.wgs = [v] →
    e.uid = v.wg.uid → v.record = none → v.wg.entry = none → (∀ x ∈ s.wgs, x.2.unit ≠ u.unit) → (∀ x ∈ s.flights, x.2.uid ≠ v.wg.uid) →
    s.host.ringUsed < s.host.ringSize →
    let pending := (v.wg.quads.map (fun e => e.2.uad + e.2.uap)).sum
    let d := (s.csr (dieOf v.place) v.wg.tenant).preemptcfg.toNat / 2 ^ 16
    let ends := fun (i : Instr) (cause left : Nat) => ∃ t r, exec i s = .next t ∧ t.sched.saved = s.sched.saved.filter (fun x => x.unit != u.unit) ∧
      t.wgs = s.wgs ∧ t.mem = s.mem ∧ Recorded s t r ∧ r.kind = 1 ∧ r.tenant = v.wg.tenant ∧ r.card = v.wg.card ∧
      r.trap.cause = BitVec.ofNat 32 cause ∧ r.pending = left
    (pending = 0 → ends (.terminationComplete u.unit) e.fault.cause 0) ∧
    (pending ≠ 0 → exec (.terminationComplete u.unit) s = .next s) ∧
    (d ≠ 0 → d * 4096 < u.cycles → ends (.watchdogExpiry u.unit) cWATCHDOG pending) ∧
    (d = 0 ∨ u.cycles ≤ d * 4096 → exec (.watchdogExpiry u.unit) s = .next s)) ∧
  ∀ (s : State) (k q : Nat) (w : Wg) (x : Quad) (f : FaultInfo) (pos : Cl) (rest : List (FaultInfo × Cl)), s.wg? k = some w → w.quads.find q = some x →
    x.reports = (f, pos) :: rest →
    (x.live = false ∨ x.sup = true ∨ w.halt ≠ none ∨ w.gangWhole (q / 8) = false → exec (.impreciseReportDelivery k q) s = .next s) ∧
    (x.live = true → x.sup = false → w.halt = none → w.gangWhole (q / 8) = true → q < 64 →
      f.cause ∉ [0x1C, 0x25, 0x26, 0x29, 0x2A, 0x2B, 0x2C, 0x2D, 0x2E, 0x33, 0x37] → (s.csr (dieOf k) w.tenant).tvec ≠ 0 →
      ∃ t, exec (.impreciseReportDelivery k q) s = .next t ∧ WgBecomes s t k { w with
        quads := w.quads.upd q (fun x => { x with reports := rest, cl := if x.cl = pos then pos.issued else x.cl })
        was := none
        halt := some ⟨q, f, pos.issued, false, true, .stopping, 0, none, s.nextId⟩ })

/-- SWAP_OUT_ON_WAIT and SWAP_SLOT_RETEST begin to save a unit that has a live quad, whose every member has PE and is not halted, and whose every live quad has stood in a counted wait for longer than its
WAITCAP, when there are save slots for its members, and do nothing to a unit of which this is not so; a host's request saves a slot's unit under PREEMPT's conditions, or is answered with the
status that refuses it, and one for a tenant also stops its itinerary engine. WAKE_TEST, 4,096 cycles after the last, notes whether a quad's wait, or its copy context's CPWT, passes (R96 to R98,
R118, R122, R360). That a unit without a live quad stays (log entry 75), that a refused read does not pass (log entry 74), and that CPWT passes the unit's test (log entry 65) are the model's choices. -/
def Claims.SwapAndWake : Prop :=
  (∀ (s : State) (unit : Nat),
    let counted := fun (a : Await) => (∃ o r c m, a.what = .waitv o r c m) ∨ (∃ p, a.what = .cbars p) ∨ a.what = .full ∨ a.what = .cpwt ∨ ∃ i, a.what = .itstat i
    let waits := fun (x : Quad) => ∃ a, x.await = some a ∧ counted a ∧ a.cap ≠ 0 ∧ max a.cap 4096 < a.count
    let mine := fun (e : Nat × Wg) => e ∈ s.wgs ∧ e.2.unit = unit
    let may := (∃ e, mine e ∧ ∃ z ∈ e.2.quads, z.2.live = true) ∧ ∀ e, mine e → e.2.pe = true ∧ e.2.halt = none ∧ e.2.preempt = none ∧
      ∀ z ∈ e.2.quads, z.2.live = true → waits z.2
    let room := ∀ e, mine e → s.slotRoom (dieOf e.1) e.2.tenant (s.unitWgs unit).length = true
    let saving := fun (w : Wg) (cause : Nat) =>
      { w with preempt := none, halt := some ⟨127, whole cause 0 0, Cl.start 0, false, false, .saving cause [], 0, none, 0⟩ }
    let saves := fun (i : Instr) (cause : Nat) => ∃ t, exec i s = .next t ∧
      (∀ j w, s.wg? j = some w → t.wg? j = some (if w.unit = unit then saving w cause else w)) ∧ { t with wgs := s.wgs } = s
    (∀ c ∈ ([.swapOutOnWait, .swapSlotRetest] : List (Nat → Instr)),
      (may → room → saves (c unit) cWAIT_SWAP) ∧
      (¬ may ∨ (∀ e, mine e → s.slotRoom (dieOf e.1) e.2.tenant (s.unitWgs unit).length = false) → exec (c unit) s = .next s)) ∧
    ∀ k w, s.wg? k = some w → w.unit = unit →
      let going := ∃ e, mine e ∧ (e.2.preempt ≠ none ∨ ∃ h, e.2.halt = some h ∧ (h.stage = .ending ∨ ∃ c a, h.stage = .saving c a))
      let ok := w.pe = true ∧ ¬ going ∧ s.slotRoom (dieOf k) w.tenant (s.unitWgs unit).length = true
      (ok → (∀ e, mine e → e.2.halt = none) → saves (.hostPreemptRequest (.slot k)) cPREEMPT) ∧
      (ok → (∃ e, mine e ∧ e.2.halt ≠ none) → ∃ t, exec (.hostPreemptRequest (.slot k)) s = .next t ∧
        (∀ j v, s.wg? j = some v → t.wg? j = some (if v.unit = unit then { v with preempt := some cPREEMPT } else v)) ∧ { t with wgs := s.wgs } = s) ∧
      (¬ ok → ∃ n, exec (.hostPreemptRequest (.slot k)) s = .next { s with host := { s.host with answers := s.host.answers ++ [.preempt k n] } } ∧
        (w.pe = false → n = 2) ∧ (w.pe = true → going → n = 3) ∧ (w.pe = true → ¬ going → n = 5))) ∧
  (∀ (s : State) (k : Nat), s.wg? k = none → exec (.hostPreemptRequest (.slot k)) s = .next s) ∧
  (∀ (s : State) (t : Nat), s.itin.owner = some t → s.itin.st = 2 → (∀ e ∈ s.wgs, e.2.tenant ≠ t) →
    exec (.hostPreemptRequest (.tenant t)) s = .next { s with itin := { s.itin with st := 3, hostMark := true } }) ∧
  ∀ (s : State) (unit : Nat) (u : Saved), s.sched.saved.find? (fun u => u.unit == unit) = some u → u.passed = false → u.ended = none →
    (u.cycles < 4096 → exec (.wakeTest unit) s = .next s) ∧
    (4096 ≤ u.cycles → (∀ m ∈ u.wgs, ∀ z ∈ m.wg.quads, ∀ o r c v n a, z.2.await = some ⟨.waitv o r c v, n, a⟩ → s.isLocal m.wg.tenant r = true) →
      ∃ t v, exec (.wakeTest unit) s = .next t ∧ t.sched.saved.find? (fun u => u.unit == unit) = some v ∧
      v = { u with cycles := 0, passed := v.passed } ∧ t.wgs = s.wgs ∧ t.mem = s.mem ∧
      (v.passed = true ↔ ∃ m ∈ u.wgs, (∃ n a, m.wg.cpy.seq.await = some ⟨.cpwt, n, a⟩) ∨
        ∃ z ∈ m.wg.quads, z.2.live = true ∧ s.WakePasses unit m.wg z.2))

/-- An engine of a workgroup that is being saved acknowledges once it has nothing left to stop, those that the quads feed after the quads; the copy engine's stop squashes the incomplete copies, to be
reissued whole, and empties the tile of a CPT. PREEMPTION_SAVE, once the six engines have acknowledged, frees the slot of a unit of one member and keeps its context with the
lowest free save slot; CARD_ADMISSION readmits a saved unit whose test has passed before any card, with its registers and predicates (R92, R98 to R100, R109, R120, R122, R293, Table 5-6). That
the lowest free slot is taken, and that the engines which the quads feed acknowledge after them, are the model's choices (log entry 70). -/
def Claims.SavingAUnit : Prop :=
  (∀ (s : State) (k : Nat) (w : Wg) (h : Halt) (cause : Nat) (acks : List Engine), s.wg? k = some w → w.halt = some h → h.stage = .saving cause acks →
    (∀ e ∈ s.wgs, e.2.uid = w.uid → e = (k, w)) →
    let stood := fun (e : Nat × Quad) => if e.2.live = true then (e.1, { e.2 with
      trap := ⟨BitVec.ofNat 32 cHALT_SIBLING, 15, 0, e.2.cl.pc, 0, 0, BitVec.ofNat 32 (127 * 16 + e.2.skid)⟩ }) else e
    let acked := fun (w : Wg) (g : Engine) => { w with
      quads := if g = .quads then w.quads.map stood else w.quads
      halt := some { h with stage := .saving cause (acks ++ [g]) } }
    ((∀ e ∈ s.flights, e.2.uid ≠ w.uid) →
      (∀ g, g ∉ acks → w.mtx.gather = none → (∀ n, n < 8 → w.gangWhole n = true) → (g ∈ [.quads, .matrix, .copy] ∨ .quads ∈ acks) →
        (∀ e ∈ w.quads, e.2.wins = [] ∧ ∀ a, e.2.await = some a → ∀ i, a.what ≠ .q5 i) →
        ∃ t, exec (.engineStopAck k g) s = .next t ∧ WgBecomes s t k (acked w g)) ∧
      (∀ g ∈ ([.coalescer, .hamper, .egress] : List Engine), g ∉ acks → .quads ∉ acks → exec (.engineStopAck k g) s = .next s)) ∧
    (∀ id f c, .copy ∉ acks → s.flights.find id = some f → f.uid = w.uid → f.job = .copy c → c.kind = .cpt → c.wrote = [] →
      (∀ e ∈ s.flights, e.2.uid = w.uid → e.1 = id) → (s.flights.map (·.1)).Nodup → (f.parts.map (·.1)).Nodup →
      ∃ t v g, exec (.engineStopAck k .copy) s = .next t ∧ t.wg? k = some v ∧ v = { acked w .copy with full := v.full } ∧ t.mem = s.mem ∧
        (∀ l, v.full.has l = (w.full.has l && !(decide (c.base ≤ l) && decide (l < c.base + c.nl)))) ∧
        t.flights.find (id + s.nextId) = some g ∧ g.job = .copy c.again ∧ g.parts.length = f.parts.length ∧ ∀ e ∈ g.parts, e.2.st = .flying) ∧
    ((∀ e ∈ s.flights, e.2.uid ≠ w.uid) → (∀ g : Engine, g ∈ acks) → w.inIdem = false → w.entry = none → (∀ e ∈ s.wgs, e.2.unit = w.unit → e = (k, w)) →
      (s.wgs.map (·.1)).Nodup → (∀ u ∈ s.sched.saved, u.unit ≠ w.unit) → ∀ n rest, s.slotsFree (dieOf k) w.tenant = n :: rest →
      ∃ t u v, exec (.preemptionSave w.unit) s = .next t ∧ t.wg? k = none ∧ (∀ j, j ≠ k → t.wg? j = s.wg? j) ∧
        t.sched.saved = s.sched.saved ++ [u] ∧ u = ⟨w.unit, h.fault.cause, clusterIx k, [v], 0, h.fault.cause == cPREEMPT, none⟩ ∧
        v.slot = n ∧ v.place = k ∧ (v.record = none ∧ t.mem = s.mem ∨
          v.record = some ((s.csr (dieOf k) w.tenant).ctxbase + BitVec.ofNat 64 (n * 2 ^ 22))) ∧
        v.late = [] ∧ v.reports = [] ∧ v.wg = { w with halt := none, was := none, quads := v.wg.quads } ∧
        ∀ q x, w.quads.find q = some x → v.wg.quads.find q = some { x with skid := 0 })) ∧
  ∀ (s : State) (u : Saved) (v : SavedWg) (core : Nat), s.sched.saved.find? (fun x => x.cluster == u.cluster && x.passed) = some u → u.wgs = [v] →
    v.record = none → v.late = [] → v.reports = [] → v.wg.inIdem = false → v.wg.entry = none → u.cause = cWAIT_SWAP → core < 24 → s.isReady (u.cluster * 24 + core) = true →
    (v.wg.members ≠ 1 → u.cluster * 24 + core = v.place / 4) →
    s.hasRoom (u.cluster * 24 + core) (v.wg.shape.toNat % 2 ^ 7) (v.wg.shape.toNat / 2 ^ 7 % 2 ^ 14) →
    ∃ t slot r, exec (.cardAdmission u.cluster [core]) s = .next t ∧ slot / 4 = u.cluster * 24 + core ∧ s.wg? slot = none ∧ t.wg? slot = some r ∧
      (∀ j, j ≠ slot → t.wg? j = s.wg? j) ∧ t.mem = s.mem ∧ t.sched.queues = s.sched.queues ∧
      t.sched.saved = s.sched.saved.filter (fun x => x.unit != u.unit) ∧
      r = { v.wg with gen := r.gen, quads := r.quads, mtx := r.mtx, cpy := r.cpy, full := r.full } ∧ r.mtx.acc = v.wg.mtx.acc ∧
      ((∀ e ∈ s.flights, e.2.uid = v.wg.uid → ∀ c, e.2.job ≠ .copy c) → r.full = v.wg.full) ∧
      ∀ q x, v.wg.quads.find q = some x → ∃ y, r.quads.find q = some y ∧ y = { x with await := y.await, since := none, trap := y.trap } ∧
        y.trap = if x.trap.cause = BitVec.ofNat 32 cHALT_SIBLING then { x.trap with cause := 0 } else x.trap

/-- Swapping out, saving and waking a unit. -/
def Obligations.SavingSwappingWaking : Prop := Claims.SwapAndWake ∧ Claims.SavingAUnit

/-! ### The fabric, the host link, the itinerary engine's own steps (17_fabric, 09_routes, 19_itinerary, 01_device) -/

/-- FLIT_RECEIVED at a link that is up and has nothing waiting: a bad flit, or a data flit out of sequence, is discarded with one NAK; the expected one is accepted, brings its messages
after those before it, and its ACK frees what it reaches; a NAK has every held flit sent again in order, and the sixteenth naming one SEQ takes the link down. LINK_DOWN_ACK_TIMEOUT takes
down a link that holds flits, or whose far end has gone down; LINK_READY brings one of the 32 up; SWAP_TABLE_LOAD sets one entry; a flit has the fields of Table 17-1 (R1, R321 to R324; the model's
choices: the CRC, log entry 10; both sequences start at 0, 11; the messages that come with a flit, 20). -/
def Obligations.FabricLinks : Prop :=
  (∀ (kind : Nat) (ack seq : BitVec 12) (bs : List (FabricMsg × Nat)), kind < 3 → bs.length ≤ 15 →
    let f := flitOf kind ack seq bs
    f.kind = kind ∧ f.ack = ack ∧ f.seq = seq ∧ f.bad = false ∧
      ∀ (i : Nat) (b : FabricMsg × Nat), bs[i]? = some b → f.payload.extractLsb' (128 * i) 128 = Config.beat b.1 b.2) ∧
  ∀ (s : State) (n : Nat),
    let l := s.link n
    (∀ (f : Flit) (ms : List FabricMsg), l.up = true → l.pending = [] → l.beats = [] → l.naks < 16 →
      let kept := l.retry.filter (fun e => decide (2048 ≤ (f.ack - e.1).toNat))
      let i := Instr.flitReceived n ⟨f, ms⟩
      let discards := fun (held : List (BitVec 12 × List (FabricMsg × Nat))) => ∃ t, exec i s = .next t ∧
        t.link n = { l with nakSent := true, retry := held, wire := if l.nakSent then l.wire else l.wire ++ [flitOf 2 (l.expect - 1) 0 []] }
      (f.bad = true → discards l.retry) ∧
      (f.bad = false → f.kind = 0 → f.seq ≠ l.expect → discards kept) ∧
      (f.bad = false → f.kind = 0 → f.seq = l.expect → ∃ t, exec i s = .next t ∧
        t.link n = { l with expect := l.expect + 1, nakSent := false, retry := kept, inbox := l.inbox ++ ms }) ∧
      (f.bad = false → f.kind = 1 → ∃ t, exec i s = .next t ∧ t.link n = { l with retry := kept }) ∧
      (f.bad = false → f.kind = 2 → (if l.lastNak = some f.ack then l.naks < 15 else True) → ∃ t, exec i s = .next t ∧
        (t.link n).retry = kept ∧ (t.link n).inbox = l.inbox ∧ (t.link n).wire = l.wire ++ kept.map (fun e => flitOf 0 (l.expect - 1) e.1 e.2)) ∧
      (f.bad = false → f.kind = 2 → l.lastNak = some f.ack → l.naks = 15 → ∃ t, exec i s = .next t ∧ LinkIsDown s t n)) ∧
    (∀ far : Bool, (l.up = true → far = true ∨ l.retry ≠ [] → ∃ t, exec (.linkDownAckTimeout ⟨n, far⟩) s = .next t ∧ LinkIsDown s t n) ∧
      (l.up = false ∨ (far = false ∧ l.retry = []) → exec (.linkDownAckTimeout ⟨n, far⟩) s = .next s)) ∧
    (l.up = false → n < 32 → ∃ t, exec (.linkReady n) s = .next t ∧ (t.link n).up = true ∧ (t.link n).retry = [] ∧ (t.link n).next = 0 ∧ (t.link n).expect = 0 ∧
      t.isReady (19 * 32 + n) = true ∧ t.mem = s.mem) ∧
    (32 ≤ n → exec (.linkReady n) s = .next s) ∧
    ∀ (e : W64), ∃ t, exec (.swapTableLoad n e) s = .next t ∧ { t with tab := s.tab } = s ∧
      ∀ m, t.swapEntry m = if m = n % 4096 then e else s.swapEntry m

/-- FABRIC_HOP takes the next message that a link has received on a virtual channel through the steps of R325: it is refused with the first that fails, a request being answered with the error, or forwarded under
the out label on the port of its swap entry, or popped: then it goes to its die, over a bridge where that is another one: an answer to its operation, a skip to RCV, and a packet that has to be held waits, or is refused by a full hold. A held packet is
forwarded only when RCV has reached the counts it carries, the packets counted there are performed, and the releases that its clock counts are applied; a refused one has its label looked up and is sent again no sooner than
256 cycles later; SKIP_RECEIVE counts as a packet accepted and performed (R15, R322, R325 to R327, R330 to R332; the model's choices: the error goes back on the arrival link under the request's own label, log entry 16; which
packets are counted, and which one SKIP_RECEIVE stands for, 27; a hop names its channel, 67). -/
def Claims.FabricMessages : Prop :=
  ∀ (s : State) (n : Nat),
    (∀ ch, (∀ m ∈ (s.link n).inbox, m.channel ≠ ch) → exec (.fabricHop n ch) s = .next s) ∧
    (∀ (m : FabricMsg) (ch : Nat) (before rest : List FabricMsg), (s.link n).inbox = before ++ m :: rest → m.channel = ch → (∀ b ∈ before, b.channel ≠ ch) →
      let u := s.setLink n { s.link n with inbox := before ++ rest }
      let e := s.swapEntry m.label.toNat
      let port := e.toNat / 2 ^ 12 % 32
      let good := e.getLsbD 18 = true ∧ e.getLsbD (32 + m.tenant) = true ∧ e.toNat / 2 ^ 48 = 0 ∧ e.toNat / 2 ^ 19 % 2 ^ 13 = 0
      let pops := e.getLsbD 17 = true
      let out := BitVec.ofNat 12 e.toNat
      let refused := fun (cause : Nat) => (∀ d op part, m.body.tag = some (d, op, part) → exec (.fabricHop n ch) s = .next (u.send (n / 8) (some n)
          ⟨m.tenant, m.label, 0, .answer d op part (.error m.body.slot 1 m.label.toNat cause)⟩)) ∧
        (m.body.tag = none → exec (.fabricHop n ch) s = .next u)
      let m1 : FabricMsg := { m with label := out }
      let u1 := match m.body.countedFrom with
        | some (pl, d, c) => u.accepted pl d m.tenant c
        | none => u
      let goesOn := (u1.owningDie (n / 8) m1 ≠ n / 8 → exec (.fabricHop n ch) s = .next (u1.transit (n / 8) (u1.owningDie (n / 8) m1) (.reach m1))) ∧
        (u1.owningDie (n / 8) m1 = n / 8 → (∀ d op part a, m.body ≠ .answer d op part a) → exec (.fabricHop n ch) s = .next (u1.serve (n / 8) m1))
      (¬ good → refused cRANGE_MISS) ∧
      (good → ¬ pops → 7 ≤ m.hop → refused cRANGE_MISS) ∧
      (good → ¬ pops → m.hop < 7 → s.linkUp port = false → refused cPEER_DISABLED) ∧
      (good → ¬ pops → m.hop < 7 → s.linkUp port = true →
        (port / 8 = n / 8 → (s.link port).Quiet → ∃ t, exec (.fabricHop n ch) s = .next t ∧
          OnLink u t port { m with label := out, hop := m.hop + 1 } ∧ t.fab.outbox = s.fab.outbox) ∧
        (port / 8 ≠ n / 8 → exec (.fabricHop n ch) s = .next (u.transit (n / 8) (port / 8) (.leave (some port) { m with label := out, hop := m.hop + 1 })))) ∧
      (∀ op part a, good → pops → m.body = .answer (n / 8) op part a → exec (.fabricHop n ch) s = exec (.remoteAnswerArrival (n / 8) op part a) u) ∧
      (∀ pl die c k, good → pops → m.body = .skip pl die c k → ∃ t, exec (.fabricHop n ch) s = .next t ∧ PacketCounted u t pl die m.tenant c k) ∧
      (good → pops → m.body.ordered = none → goesOn) ∧
      ∀ pl d c counts vc, good → pops → m.body.ordered = some (pl, d, c, counts, vc) →
        let free := (∀ i, i < counts.length → s.CountMet pl d m.tenant (c / 4 * 4 + i) (counts.getD i 0)) ∧ s.Applied m.tenant vc
        let held := s.fab.hold.filter (fun h => h.die == n / 8 && h.msg.tenant == m.tenant)
        (free → goesOn) ∧
        (¬ free → held.length < 64 → exec (.fabricHop n ch) s = .next { u1 with fab := { u1.fab with hold := s.fab.hold ++ [⟨n / 8, 0, m1⟩] } }) ∧
        (¬ free → 64 ≤ held.length → ∀ sd op part, m.body.tag = some (sd, op, part) →
          exec (.fabricHop n ch) s = .next (u.reply (n / 8) m.tenant out sd op part (.holdFull m.body.slot)))) ∧
    (∀ h pl sd c counts vc, s.fab.hold[n]? = some h → h.msg.body.ordered = some (pl, sd, c, counts, vc) →
      let free := (∀ i, i < counts.length → s.CountMet pl sd h.msg.tenant (c / 4 * 4 + i) (counts.getD i 0)) ∧ s.Applied h.msg.tenant vc
      let u : State := { s with fab := { s.fab with hold := s.fab.hold.eraseIdx n } }
      let to' := u.owningDie h.die h.msg
      (free → exec (.orderedPacketForward n) s = .next (if to' = h.die then u.serve h.die h.msg else u.transit h.die to' (.reach h.msg))) ∧
      (¬ free → exec (.orderedPacketForward n) s = .next s)) ∧
    (∀ h d op part, s.fab.resend[n]? = some h → h.msg.body.tag = some (d, op, part) →
      let u : State := { s with fab := { s.fab with resend := s.fab.resend.eraseIdx n } }
      let c := h.msg.body.slot
      (h.age < 256 → exec (.holdResend n) s = .next s) ∧
      ∀ f p, 256 ≤ h.age → s.part? op part = some (f, p) →
        let label := if c < 4 then p.label else p.mlabel
        (∀ out port, s.firstHop h.msg.tenant label = .ok (out, port) →
          let m : FabricMsg := { h.msg with label := BitVec.ofNat 12 out }
          let box := s.fab.outbox.map (fun x => if x.2.of op part = true ∧ x.2.body.slot = c then (some port, m) else x)
          (port / 8 = d → (s.link port).Quiet → ∃ t, exec (.holdResend n) s = .next t ∧ OnLink u t port m ∧ t.fab.outbox = box) ∧
          (port / 8 ≠ d → ∃ t, exec (.holdResend n) s = .next t ∧ t.fab.outbox = box ∧ t.fab.transit = s.fab.transit ++ [⟨d, port / 8, .leave (some port) m⟩])) ∧
        ∀ r, s.firstHop h.msg.tenant label = .error r → exec (.holdResend n) s = exec (.remoteAnswerArrival d op part (.error c r.level r.label r.cause)) u) ∧
    ∀ (pl die tenant c : Nat),
      (pl < 4096 → die < 4 → tenant < 16 → c < 8 → ∃ t, exec (.skipReceive pl die tenant c) s = .next t ∧
        PacketCounted s t pl die tenant c ((s.met pl die tenant c).2.headD (s.met pl die tenant c).1)) ∧
      (4096 ≤ pl ∨ 4 ≤ die ∨ 16 ≤ tenant ∨ 8 ≤ c → exec (.skipReceive pl die tenant c) s = .next s)

/-- HOME_ACCESS_PERFORM of a line access of another module, of one quad, whose range entry has its primary alone: a packet leaves on one of the entry's valid paths, over a bridge when its link is another die's, with the accesses,
the module's SELFPL, the die and the slot; an STO or a release carries the four SENT values of its side, and a store-class packet is counted in SENT, unless it would run more than 2^30 ahead of the
last RCV reported: then it waits (R15, R325, R329 to R331, R333, R336). -/
def Claims.PacketsLeave : Prop :=
  ∀ (s : State) (id j i : Nat) (f : Flight) (p : Part) (e : RangeImage), s.part? id j = some (f, p) → p.place = .remote → p.st = .flying →
    s.membersOf f p = [(id, j)] → s.mayAll [(id, j)] = true → s.isSaved f.uid = false → s.joinsHeld id f p = false → s.spoils f = false →
    (∀ c, f.job ≠ .copy c) → p.stamp = none → (Tab.get [] s.tab.peers f.tenant).contains (plOf p.route) = false →
    (p.accs.map (·.key)).Pairwise (· ≤ ·) → s.entryOf f p = some (i, e) → e.dis = false → e.mir = false →
    (∀ b ∈ e.paths false, ∃ out port, s.firstHop f.tenant (pathLabel e b) = .ok (out, port) ∧ (s.link port).Quiet) → e.paths false ≠ [] →
    let sent := fun (s : State) (c : Nat) => Tab.get 0 s.fab.sent (sentKey f.die f.tenant (plOf p.route) c)
    let ahead := fun (c : Nat) => 2 ^ 30 ≤ (sent s c + 2 ^ 32 - Tab.get 0 s.fab.acked (sentKey f.die f.tenant (plOf p.route) c)) % 2 ^ 32
    (f.job.storeClass = true → (∀ c ∈ e.paths false, ahead c) → exec (.homeAccessPerform id j) s = .next s) ∧
    (f.job.storeClass = true → (∀ c ∈ e.paths false, ¬ ahead c) ∨ f.job.storeClass = false →
      ∃ c ∈ e.paths false, ∃ t out port r g, exec (.homeAccessPerform id j) s = .next t ∧ s.firstHop f.tenant (pathLabel e c) = .ok (out, port) ∧
        (∃ m : FabricMsg, m = ⟨f.tenant, BitVec.ofNat 12 out, 0, .request r⟩ ∧ t.fab.outbox = s.fab.outbox ++ [(some port, m)] ∧
          (port / 8 = f.die → t.fab.transit = s.fab.transit ∧ (t.link port).wire = (s.link port).wire ++ [flitOf 0 ((s.link port).expect - 1) (s.link port).next m.beats]) ∧
          (port / 8 ≠ f.die → t.fab.links = s.fab.links ∧ t.fab.transit = s.fab.transit ++ [⟨f.die, port / 8, .leave (some port) m⟩])) ∧
        r.kind = f.job.kind ∧ r.accs = p.accs.map (fun a => ⟨a.addr, a.size, a.data, a.cmp⟩) ∧ r.srcPl = (s.selfpl f.tenant).toNat ∧ r.srcDie = f.die ∧
        r.op = id ∧ r.part = j ∧ r.slot = c ∧ r.counted = f.job.storeClass ∧ r.ord = sent s c ∧
        r.counts = (if f.job = .sto ∨ f.job.rel ≠ none then [sent s 0, sent s 1, sent s 2, sent s 3] else []) ∧
        t.part? id j = some (g, { p with
          st := .away, slot := some c, label := pathLabel e c, twin := p.twin + 1, range := some (i, e)
          ords := if f.job.storeClass = true then p.ords ++ [(c, sent s c)] else p.ords }) ∧ t.mem = s.mem ∧
        ∀ b, b < 8 → sent t b = if b = c ∧ f.job.storeClass = true then (sent s b + 1) % 2 ^ 32 else sent s b)

/-- Packets as they leave, cross links and are held. -/
def Obligations.FabricMessages : Prop := Claims.FabricMessages ∧ Claims.PacketsLeave

/-- REMOTE_ANSWER_ARRIVAL with data performs the line access, its accesses taking the values in lane order; an answer to nothing, one of a side that no longer waits, and one whose context has ended, counts as late.
REMOTE_TIMEOUT_EXPIRY, once FTIMEOUT cycles have passed, ends the unit with REMOTE_TIMEOUT, and a store leaves its counter. PEER_LOST sets DIS of a valid entry, with a record of KIND 4, and PEER_RETURN
clears it; SET_FTIMEOUT takes 2^16 to 2^30; SET_CAUSAL_GROUPS sets a die's group, of at most 64 modules, with an index below 256 (R328, R333, R334, R337; that group numbers are those below 2^16 is the
model's choice, log entry 82). -/
def Obligations.RemotePeers : Prop :=
  ∀ (s : State) (tenant : Nat),
    (∀ (op part c : Nat) (f : Flight) (p : Part) (vals : List (Nat × Nat)) (die : Nat), s.part? op part = some (f, p) → p.st = .away → p.place = .remote →
      c ∈ p.slot.toList ++ p.mslot.toList → s.membersOf f p = [(op, part)] → s.gone f = false → p.stamp = none → (p.accs.map (·.key)).Pairwise (· ≤ ·) →
      ∃ t g p', exec (.remoteAnswerArrival die op part (.data c vals [])) s = .next t ∧ t.part? op part = some (g, p') ∧
        p'.st = .performed ∧ t.mem = s.mem ∧ t.wgs = s.wgs ∧ p'.accs.length = p.accs.length ∧
        ∀ (i : Nat) (a : Access), p.accs[i]? = some a → p'.accs[i]? = some { a with got := (vals.getD i (0, 0)).2 }) ∧
    (∀ (die op part : Nat) (a : Answer),
      let late := ∃ t, exec (.remoteAnswerArrival die op part a) s = .next t ∧
        Tab.get 0 t.fab.late die = Tab.get 0 s.fab.late die + 1 ∧ { t with fab := { t.fab with late := s.fab.late } } = s
      (s.flights.find op = none → s.itin.runs = [] → s.itin.strays = [] → late) ∧
      ∀ f p, s.part? op part = some (f, p) → p.place = .remote → (p.st ≠ .away ∨ a.slot ∉ p.slot.toList ++ p.mslot.toList → late) ∧
        (p.st = .away → p.slot = some a.slot → p.mslot = none → p.twin = 1 → p.stamp = none → s.membersOf f p = [(op, part)] → s.gone f = true → (∀ c, a ≠ .holdFull c) →
          ∃ t, exec (.remoteAnswerArrival die op part a) s = .next t ∧ Tab.get 0 t.fab.late f.die = Tab.get 0 s.fab.late f.die + 1 ∧
            (t.part? op part).isNone = true ∧ t.wgs = s.wgs)) ∧
    (∀ (op part c k q : Nat) (w : Wg) (x : Quad) (f : Flight) (p : Part), s.part? op part = some (f, p) → p.st = .away →
      p.place = .remote → p.slot = some c → p.mslot = none → p.stamp = none → s.membersOf f p = [(op, part)] → f.party = .quad k q → f.uid = w.uid →
      s.resident w.uid = some (k, w) → s.wg? k = some w → w.quads.find q = some x → w.halt = none →
      (p.age < s.ftimeout f.tenant → exec (.remoteTimeoutExpiry op part) s = .next s) ∧
      (s.ftimeout f.tenant ≤ p.age → ∃ t v h y, exec (.remoteTimeoutExpiry op part) s = .next t ∧ t.wg? k = some v ∧ v.halt = some h ∧
        h.stage = .ending ∧ h.origin = q ∧ h.fault.cause = cREMOTE_TIMEOUT ∧ h.fault.level = 1 ∧ h.fault.label = p.label ∧
        ((∀ n, f.job ≠ .words n) → h.fault.lanes = p.lanes) ∧
        t.mem = s.mem ∧ (t.part? op part).isNone = true ∧ v.quads.find q = some y ∧
        y.uap = if f.job.counted = true ∧ p.onDie = false then x.uap - 1 else x.uap)) ∧
    (∀ (index : Nat), index < 32 → tenant < 16 → s.flights = [] → s.itin.owner ≠ some tenant → s.itin.unanswered = [] →
      ((s.range tenant index).v = true → (s.range tenant index).dis = false → ∃ t, exec (.peerLost tenant index false) s = .next t ∧
        (t.range tenant index).dis = true ∧ (t.range tenant index).v = true ∧ t.mem = s.mem ∧
        (∀ i, i < 32 → i ≠ index → t.range tenant i = s.range tenant i) ∧
        (s.host.ringUsed < s.host.ringSize → ∃ r, Recorded s t r ∧ r.kind = 4 ∧ r.tenant = tenant)) ∧
      ((s.range tenant index).v = false ∨ (s.range tenant index).dis = true → exec (.peerLost tenant index false) s = .next s) ∧
      ∃ t, exec (.peerReturn tenant index false) s = .next t ∧ (t.range tenant index).dis = false ∧ { t with tab := { t.tab with ranges := s.tab.ranges } } = s) ∧
    (∀ (index : Nat) (b : Bool), 32 ≤ index ∨ 16 ≤ tenant → exec (.peerLost tenant index b) s = .next s ∧ exec (.peerReturn tenant index b) s = .next s) ∧
    (∀ c, (tenant < 16 → 2 ^ 16 ≤ c → c ≤ 2 ^ 30 → ∃ t, exec (.setFtimeout tenant c) s = .next t ∧ t.ftimeout tenant = c ∧
        { t with fab := { t.fab with ftimeout := s.fab.ftimeout } } = s) ∧
      ((16 ≤ tenant ∨ c < 2 ^ 16 ∨ 2 ^ 30 < c) → exec (.setFtimeout tenant c) s = .next s)) ∧
    ∀ die g i (peers : List Nat),
      (tenant < 16 → die < 4 → g < 2 ^ 16 → i < 256 → peers.length < 64 → ∃ t, exec (.setCausalGroups tenant ⟨[(die, g, i)], peers⟩) s = .next t ∧
        t.tab.groups.find (tenant * 4 + die) = some (g, i) ∧ Tab.get [] t.tab.peers tenant = peers ∧
        { t with tab := { t.tab with groups := s.tab.groups, peers := s.tab.peers } } = s) ∧
      (16 ≤ tenant ∨ 4 ≤ die ∨ 2 ^ 16 ≤ g ∨ 256 ≤ i ∨ 64 ≤ peers.length → exec (.setCausalGroups tenant ⟨[(die, g, i)], peers⟩) s = .next s)

/-- ATS_TRANSLATION_COMPLETION caches a translation that grants some access and lets the access go on, else asks for the page; PRI_PAGE_RESPONSE lets it be translated again, or a load's lanes fault
with HOST_XLATE; ATS_INVALIDATION removes the pages of its range once no access uses them. CROSSBAR_CYCLE moves a lone request to its home slice when a slot is
free at its port, the input becoming the output's most recently granted; of the answers that wait for one output it moves up to four, those whose inputs were granted least recently; a lone message at a bridge
crosses when a slot is free at the far end: a line access, a packet to or from another die's link, a translation request (R6, R8 to R10, R15, R194; the model's choices: how the slots are counted, log
entry 60; which tenants are present, and which input an output grants first, 36 and 60; the lanes that a failed page request faults, 38). -/
def Obligations.TranslationAndCrossbar : Prop :=
  (∀ (s : State) (op part : Nat) (f : Flight) (p : Part), s.part? op part = some (f, p) →
    let page := p.route.toNat / 2 ^ 12 % 2 ^ 45
    let becomes := fun (t : State) (st : PartState) => ∃ g, t.part? op part = some (g, { p with st := st }) ∧ t.mem = s.mem
    (∀ a : Translation, p.st = .xlating →
      ((a.read = true ∨ a.write = true) → ∃ t, exec (.atsTranslationCompletion op part a) s = .next t ∧ becomes t .flying ∧
        t.tab.atc.find ((f.die * 16 + f.tenant) * 2 ^ 45 + page) = some a) ∧
      (a.read = false → a.write = false → ∃ t, exec (.atsTranslationCompletion op part a) s = .next t ∧ becomes t .asking ∧ t.tab = s.tab)) ∧
    (p.place ≠ .host → ∀ ok, exec (.priPageResponse op part ok) s = .next s) ∧
    (p.st = .asking → p.place = .host →
      (∃ t, exec (.priPageResponse op part true) s = .next t ∧ becomes t .flying) ∧
      (∀ b sx acq, f.job = .load b sx acq → f.faults = [] → ∃ t g, exec (.priPageResponse op part false) s = .next t ∧ t.flights.find op = some g ∧ t.wgs = s.wgs ∧
        g.faults = p.accs.map (fun a => (a.key, ⟨cHOST_XLATE, 5, 0, 0, a.addr, 0, f.pos.pc, false⟩))))) ∧
  (∀ (s : State) (die tenant first last : Nat), first < 2 ^ 45 → last < 2 ^ 45 →
    let key := fun (p : Nat) => (die * 16 + tenant) * 2 ^ 45 + p
    ((∀ e ∈ s.flights, e.2.die = die → e.2.tenant = tenant → ∀ p ∈ e.2.parts, p.2.place = .host → p.2.st ≠ .away) →
      ∃ t, exec (.atsInvalidation die tenant first last) s = .next t ∧ { t with tab := { t.tab with atc := s.tab.atc } } = s ∧
        ∀ k, t.tab.atc.find k = if key first ≤ k ∧ k ≤ key last then none else s.tab.atc.find k) ∧
    ((∃ e ∈ s.flights, e.2.die = die ∧ e.2.tenant = tenant ∧ ∃ p ∈ e.2.parts, p.2.place = .host ∧ p.2.st = .away ∧
        first ≤ p.2.route.toNat / 2 ^ 12 % 2 ^ 45 ∧ p.2.route.toNat / 2 ^ 12 % 2 ^ 45 ≤ last) →
      exec (.atsInvalidation die tenant first last) s = .next s)) ∧
  ∀ (s : State) (die first choice : Nat), (s.flights.map (·.1)).Nodup → (∀ e ∈ s.flights, (e.2.parts.map (·.1)).Nodup) →
    let i := Instr.crossbarCycle die first choice
    let held := s.arrivedAt die
    let order := fun (t : State) (o : Nat) => Tab.get [] t.fab.lrg (die * 192 + o)
    (s.bridgeMessages die = [] →
      (∀ m f p, s.xbarMessages die = [m] → m.answer = false → s.part? m.op m.part = some (f, p) → s.membersOf f p = [(m.op, m.part)] →
        (HasSlot s.tenantsPresent held m.output m.tenant m.cls → ∃ t g, exec i s = .next t ∧ t.mem = s.mem ∧
          t.part? m.op m.part = some (g, { p with st := .arrived, home := s.sliceOf f p }) ∧
          order t m.output = (order s m.output).filter (fun i => i != m.input) ++ [m.input] ∧ ∀ o, o ≠ m.output → o < 192 → order t o = order s o) ∧
        (¬ HasSlot s.tenantsPresent held m.output m.tenant m.cls → exec i s = .next s)) ∧
      ∀ o, (∀ m ∈ s.xbarMessages die, m.output = o ∧ m.answer = true ∧ m.input ∈ order s o ∧ HasSlot s.tenantsPresent held o m.tenant m.cls) →
        ((s.xbarMessages die).map (·.input)).Nodup → (order s o).Nodup → s.xbarMessages die ≠ [] →
        let granted := ((order s o).filter (fun i => (s.xbarMessages die).any (fun m => m.input == i))).take 4
        ∃ t, exec i s = .next t ∧ t.mem = s.mem ∧ order t o = (order s o).filter (fun i => !granted.contains i) ++ granted ∧
          ∀ m ∈ s.xbarMessages die, ∀ f p, s.part? m.op m.part = some (f, p) → ∃ g,
            t.part? m.op m.part = some (g, if m.input ∈ granted then { p with left := true, back := (s.sliceOf f p).all (fun h => h / 48 == f.die) } else p)) ∧
    ∀ m, s.xbarMessages die = [] → s.bridgeMessages die = [m] →
      (¬ HasSlot s.tenantsPresent s.bridgedAt m.output m.tenant m.cls → exec i s = .next s) ∧
      (HasSlot s.tenantsPresent s.bridgedAt m.output m.tenant m.cls →
        (∀ f p h, m.other = none → s.part? m.op m.part = some (f, p) → s.membersOf f p = [(m.op, m.part)] → s.sliceOf f p = some h →
          let n := Tab.get 0 s.fab.bsent (bridgeKey f.die (h / 48) f.tenant)
          ∃ t g, exec i s = .next t ∧ t.mem = s.mem ∧ t.part? m.op m.part = some (g, if m.answer = true then { p with back := true } else { p with
            st := .bridged, home := some h, carried := if f.job.ordered = true then some n else none, xord := if f.job.storeClass = true then some n else none })) ∧
        ∀ x, m.other = some x →
          let u : State := { s with fab := { s.fab with transit := s.fab.transit.erase x } }
          (∀ n msg, x.what = .leave (some n) msg →
            (s.linkUp n = true → (s.link n).Quiet → ∃ t, exec i s = .next t ∧ OnLink u t n msg ∧ t.fab.outbox = s.fab.outbox) ∧
            (s.linkUp n = false → exec i s = .next u)) ∧
          (∀ msg, x.what = .reach msg → (∀ d op part a, msg.body = .answer d op part a → exec i s = exec (.remoteAnswerArrival d op part a) u) ∧
            ((∀ d op part a, msg.body ≠ .answer d op part a) → exec i s = .next (u.serve x.dst msg))) ∧
          ∀ tn op part f p, x.what = .translate tn op part → s.part? op part = some (f, p) → p.st = .bridged →
            ∃ t g, exec i s = .next t ∧ t.part? op part = some (g, { p with st := .xlating }) ∧ t.mem = s.mem)

/-- The engine's own steps: an entry that needs no seat and no record starts when the table runs and MRUN allows it, at most one in a cycle: its dispatch block is written at its card's FRAME, and its card
enters its queue, or waits for room in the ring, with the table's next entry counted on; at the end entry, with every entry closed, the table ends; an entry whose copies and notice are acknowledged closes and CLOSED
rises. A seat-full notice fills an empty seat, or fails the engine with IT_SEAT_OVF; a seat return raises a credit up to its limit. The host takes its mark back, and clears a table
(R87, R348, R350, R351, R354, R355, R360; the model's choices: the form of a queued card, log entry 7; the order of a close's steps, 15; what an engine that has failed still closes, 52). -/
def Obligations.ItineraryEvents : Prop :=
  ∀ (s : State) (own : Nat), s.itin.owner = some own →
    let t0 := s.itin
    let e := t0.next
    let d := t0.d1 e
    let only := fun (t : State) => { t with itin := s.itin } = s
    let cl := eQdie d * 6 + eQclu d
    let running := (t0.runs.filter (fun r => decide (r.2.phase < 4))).length
    (t0.waiting = none → t0.st = 2 → e < t0.ents.length → eKind d ≠ 3 → eNu d = false → eNd d = false → eSd d = false → eSu d = false → eStash d = 0 →
      (running ≤ t0.mrun → t0.last ≠ some (s.cycle 0) → ∀ (fr : W64) (u : State),
        let s1 : State := { s with itin := t0.take (s.cycle 0) }
        s1.readDwords own (t0.card e + 8) 1 = .ok [fr.toNat] → s.isLocal own fr = true → fr.toNat % 64 = 0 →
        s1.writeDwords own fr [e + eKind d * 2 ^ 8 + eMb d * 2 ^ 16, 0, 0, 0, s.cycle 0, 0, 0, 0] = .ok u →
        ∃ t r, exec .itineraryEntryStart s = .next t ∧ t.itin.next = e + 1 ∧ t.itin.last = some (s.cycle 0) ∧ t.itin.run? e = some r ∧
          r.phase = 1 ∧ r.done = false ∧ r.names = [] ∧ r.start = s.cycle 0 ∧ r.queued = s.ringRoom cl (ePrio d) ∧ t.itin.closed = t0.closed ∧
          (s.ringRoom cl (ePrio d) = true → CardQueued u t (cl * 4 + ePrio d) (t0.card e) own (some (t0.serial, e))) ∧
          (s.ringRoom cl (ePrio d) = false → t.sched = s.sched)) ∧
      (t0.mrun < running ∨ t0.last = some (s.cycle 0) → exec .itineraryEntryStart s = .next s)) ∧
    (∀ n c p, t0.waiting = some (n, c, p) →
      (s.ringRoom c p = true → ∃ t, exec .itineraryEntryStart s = .next t ∧ CardQueued s t (c * 4 + p) (t0.card n) own (some (t0.serial, n)) ∧
        t.itin.next = t0.next ∧ ∃ r, t.itin.run? n = some r ∧ r.queued = true) ∧
      (s.ringRoom c p = false → exec .itineraryEntryStart s = .next s)) ∧
    (t0.waiting = none → t0.st = 2 → e < t0.ents.length → eKind d = 3 →
      (t0.open = [] → ∃ t, exec .itineraryEntryStart s = .next t ∧ only t ∧ t.itin = { t0 with st := 4 }) ∧
      (t0.open ≠ [] → exec .itineraryEntryStart s = .next s)) ∧
    (∀ n r, t0.run? n = some r → r.phase = 4 → r.sent = true →
      (r.copies = [] → r.notes = [] → ∃ t, exec (.itineraryEntryClosed n) s = .next t ∧ only t ∧
        t.itin.run? n = some { r with phase := 5 } ∧ t.itin.closed = t0.closed + 1) ∧
      (r.copies ≠ [] ∨ r.notes ≠ [] → exec (.itineraryEntryClosed n) s = .next s)) ∧
    (∀ g seat count, t0.st = 2 ∨ t0.st = 3 → bit t0.h0 (if g then 25 else 24) = true → seat < (if g then t0.ngs else t0.nas) →
      ((t0.seat g seat).st = 0 → ∃ t, exec (.seatFullNotice (if g then t0.dnpl else t0.uppl) g seat count) s = .next t ∧ only t ∧
        t.itin.seat g seat = ⟨1, count⟩ ∧ t.itin.st = t0.st) ∧
      ((t0.seat g seat).st ≠ 0 → ∃ t, exec (.seatFullNotice (if g then t0.dnpl else t0.uppl) g seat count) s = .next t ∧ only t ∧
        t.itin = { t0 with st := 5, fcause := cIT_SEAT_OVF })) ∧
    (∀ g, t0.st = 2 ∨ t0.st = 3 → bit t0.h0 (if g then 24 else 25) = true →
      ∃ t, exec (.seatReturn (if g then t0.uppl else t0.dnpl) g) s = .next t ∧ only t ∧
        t.itin = if g then { t0 with upfree := if t0.upfree < t0.upgs then t0.upfree + 1 else t0.upfree }
          else { t0 with dnfree := if t0.dnfree < t0.dnas then t0.dnfree + 1 else t0.dnfree }) ∧
    exec .hostItineraryResume s = .next { s with itin := { t0 with hostMark := false } } ∧
    ∃ t, exec .hostItineraryClear s = .next t ∧ only t ∧ t.itin.owner = none ∧ t.itin.st = 0 ∧ t.itin.runs = [] ∧ t.itin.hostMark = false

/-! ### The host, security, base dies, the clock (21_host_security, 04_execution) -/

/-- The values that the host sets take effect while the tenant's TDI is in CONFIG_UNLOCKED, each alone: a range entry, SELFPL with every range entry cleared and the module's counts restarted, grants, a frame's
grant with the frame zeroed for a new holder, a pool label; otherwise the TDI goes to ERROR, and none of them changes. A launched card is entered in RUN, else the host is told of the refusal. The hypervisor
tenant, a tenant's weight, an atomic window, the rings and the power cap are the host's to set (R87, R95, R201, R203, R209, R212, R260, R331, R338, R367 to R369, R381; the model's choices: a launch into a full ring, the form
of a queued card, log entry 7; SELFPL is frozen with the tables, 40; a frame is zeroed for its first holder too, 43; the host receives RTSET's code for its write of a range entry, 72). -/
def Obligations.HostValues : Prop :=
  ∀ (s : State) (tenant stack : Nat), tenant < 16 → stack < 16 →
    let coded := fun (code : Nat) => s.host.answers ++ [.table tenant code]
    (∀ (route : W64) (qid : Word) (prio : Nat),
      let cl := qid.toNat / 8 * 6 + qid.toNat % 8
      let good := s.tdi tenant = .run ∧ s.isLocal tenant route = true ∧ route.toNat % 64 = 0 ∧ qid.toNat < 32 ∧ qid.toNat % 8 < 6 ∧ prio < 4
      let told := fun (ok : Bool) => s.host.answers ++ [.launch tenant ok]
      (good → s.ringRoom cl prio = true → ∃ t, exec (.hostLaunch tenant route qid prio) s = .next t ∧
        CardQueued s t (cl * 4 + prio) route tenant none ∧ t.host.answers = told true ∧ t.wgs = s.wgs) ∧
      (¬ good ∨ s.ringRoom cl prio = false →
        exec (.hostLaunch tenant route qid prio) s = .next { s with host := { s.host with answers := told false } })) ∧
    (∀ h, ∃ t, exec (.setHypervisorTenant h) s = .next t ∧ t.tab.hypervisor = h ∧ { t with tab := { t.tab with hypervisor := s.tab.hypervisor } } = s) ∧
    (s.tdi tenant = .unlocked →
      (∀ (i : Nat) (e : RangeImage), i < 32 → (s.rangeCode tenant i e = 0 → ∃ t, exec (.hostRangeWrite tenant i false e) s = .next t ∧
        (t.range tenant i).v = e.v ∧ (t.range tenant i).d1 = e.d1 ∧ (t.range tenant i).d2 = e.d2 ∧ (t.range tenant i).dis = (s.range tenant i).dis ∧
        (t.range tenant i).mdis = (s.range tenant i).mdis ∧ t.host.answers = coded 0 ∧ ∀ j, j < 32 → j ≠ i → t.range tenant j = s.range tenant j) ∧
        (s.rangeCode tenant i e ≠ 0 → exec (.hostRangeWrite tenant i false e) s =
          .next { s with host := { s.host with answers := coded (s.rangeCode tenant i e) } })) ∧
      (∀ (i : Nat) (e : RangeImage), i < 32 → ∃ t, exec (.hostRangeWrite tenant i true e) s = .next t ∧ (t.range tenant i).v = false ∧ t.host.answers = coded 0) ∧
      (∀ label, ∃ t, exec (.setSelfpl tenant (.own label)) s = .next t ∧ t.selfpl tenant = label ∧ (∀ i, i < 32 → t.range tenant i = ⟨0, 0, 0, 0⟩) ∧ t.mem = s.mem ∧
        t.fab.rcv = s.fab.rcv ∧ ∀ die pl c, die < 4 → pl < 4096 → c < 8 → Tab.get 0 t.fab.sent (sentKey die tenant pl c) = 0 ∧
          Tab.get 0 t.fab.acked (sentKey die tenant pl c) = 0) ∧
      (∀ a b c d, ∃ t, exec (.setGrants tenant stack a b c d) s = .next t ∧ t.grant tenant stack = ⟨a, b, c, d⟩ ∧
        { t with tab := { t.tab with grants := s.tab.grants } } = s) ∧
      (∀ f, f < 98304 → (∀ o, (s.frame stack f).owner = some o → s.tdi o = .unlocked) → (s.frame stack f).owner ≠ some tenant → s.mem.wf = true →
        ∃ t, exec (.setFrameGrant stack f (some tenant)) s = .next t ∧
        (t.frame stack f).owner = some tenant ∧
        ∀ b, t.mem.read b = (let key := Memory.key stack (f * 2 ^ 21)
          if key ≤ b ∧ b < key + 2 ^ 21 then 0 else s.mem.read b)) ∧
      (∀ p, (p % 4 = 0 → (s.grant tenant stack).sl ≤ p → p < (s.grant tenant stack).sl + (s.grant tenant stack).slN →
        ∃ t, exec (.setPoolLabel tenant stack (some p)) s = .next t ∧ t.pool tenant stack = some p ∧ { t with tab := { t.tab with pools := s.tab.pools } } = s) ∧
        (p % 4 ≠ 0 ∨ p < (s.grant tenant stack).sl ∨ (s.grant tenant stack).sl + (s.grant tenant stack).slN ≤ p →
          exec (.setPoolLabel tenant stack (some p)) s = .next s))) ∧
    (s.tdi tenant ≠ .unlocked → ∀ c ∈ ([.setSelfpl tenant (.own 0), .setGrants tenant stack 0 0 0 0, .setPoolLabel tenant stack none,
        .hostRangeWrite tenant 0 true ⟨0, 0, 0, 0⟩, .setFrameGrant stack 0 (some tenant)] : List Instr),
      ∃ t, exec c s = .next t ∧ t.tdi tenant = .error ∧ t.tab.ranges = s.tab.ranges ∧ t.tab.selfpl = s.tab.selfpl ∧ t.tab.grants = s.tab.grants ∧
        t.tab.pools = s.tab.pools ∧ t.tab.frames = s.tab.frames) ∧
    (s.tdi tenant ≠ .unlocked → ∀ i b e, i < 32 → ∃ t, exec (.hostRangeWrite tenant i b e) s = .next t ∧ t.host.answers = coded 8) ∧
    (∀ pl, pl < 4096 → ∃ t, exec (.setSelfpl tenant (.peer pl)) s = .next t ∧ { t with fab := { t.fab with rcv := s.fab.rcv, met := s.fab.met } } = s ∧
      ∀ n die c, n < 4096 → die < 4 → c < 8 → t.rcv n die tenant c = if n = pl then 0 else s.rcv n die tenant c) ∧
    (∀ die wt, die < 4 → ∃ t, exec (.setTenantwt die tenant wt) s = .next t ∧ t.csr die tenant = { s.csr die tenant with weight := wt.setWidth 32 } ∧
      { t with sched := { t.sched with csrs := s.sched.csrs } } = s) ∧
    (∀ die i a b, die < 4 → i < 8 → ∃ t, exec (.setAtomicWindow die tenant i a b) s = .next t ∧ Tab.get (0, 0) t.tab.windows ((die * 16 + tenant) * 8 + i) = (a, b) ∧
      { t with tab := { t.tab with windows := s.tab.windows } } = s) ∧
    (∀ cl prio base n, cl < 24 → prio < 4 → ∃ t, exec (.setQueueRing cl prio base n) s = .next t ∧ t.sched.rings.find (cl * 4 + prio) = some (base, n) ∧
      { t with sched := { t.sched with rings := s.sched.rings } } = s) ∧
    (∀ n, (4 ≤ n → ∀ x ∈ ([.setTenantwt n tenant 0, .setAtomicWindow n tenant 0 0 0, .setQueueRing 0 n 0 0] : List Instr), exec x s = .next s) ∧
      (16 ≤ n → ∀ x ∈ ([.setTenantwt 0 n 0, .setAtomicWindow 0 n 0 0 0, .setGrants tenant n 0 0 0 0, .setGrants n stack 0 0 0 0, .setPoolLabel tenant n none,
        .setPoolLabel n stack none, .setFrameGrant n 0 (some tenant), .setSelfpl n (.own 0), .setSelfpl n (.peer 0), .hostRangeWrite n 0 true ⟨0, 0, 0, 0⟩] : List Instr),
        exec x s = .next s) ∧
      (98304 ≤ n → exec (.setFrameGrant stack n (some tenant)) s = .next s) ∧ (8 ≤ n → exec (.setAtomicWindow 0 tenant n 0 0) s = .next s) ∧
      (24 ≤ n → exec (.setQueueRing n 0 0 0) s = .next s) ∧ (32 ≤ n → exec (.hostRangeWrite tenant n true ⟨0, 0, 0, 0⟩) s = .next s)) ∧
    (∀ base n, exec (.setErrorRing base n) s = .next { s with host := { s.host with ringBase := base, ringSize := n, ringUsed := 0 } }) ∧
    ∀ p, (3000 ≤ p → p ≤ 6500 → exec (.setPowerCap p) s = .next { s with host := { s.host with powerCap := p } }) ∧
      ((p < 3000 ∨ 6500 < p) → exec (.setPowerCap p) s = .next s)

/-- TDI_STATE_CHANGE locks an unlocked TDI with its supervisor CSRs initial, runs a locked one, and ends a locked or running one: its keys and its queued cards are gone and each of its units ends; KEY_SET binds a slot while the TDI is
locked or runs, and its session is told; a measurement report holds the nonce, the module's blocks and the TDI's own, or for function 0 none; a change of life cycle, and a reset, leave memory zero and no workgroup, with nothing of a tenant
left; the readiness bits of Table 21-4 are set and cleared; a TLP outside its stream is counted, and an AtomicOp inside it is completed (R108, R366, R367, R371 to R376; the model's choices: the tables at reset, log entry 4;
what a reset keeps, 6; KEY_SET binds an unbound slot, 42; what a change of life cycle ends and keeps, 44; the AtomicOp's access, 61). -/
def Obligations.SecurityEvents : Prop :=
  ∀ (s : State) (t : Nat), t < 16 →
    (s.tdi t = .unlocked → ∃ u, exec (.tdiStateChange t .locked) s = .next u ∧ u.tdi t = .locked ∧ (∀ die, u.csr die t = ⟨0, 65536, 1, 0, 0⟩) ∧ u.mem = s.mem ∧ u.wgs = s.wgs) ∧
    (s.tdi t = .locked → ∃ u, exec (.tdiStateChange t .run) s = .next u ∧ u.tdi t = .run ∧ { u with host := { u.host with tdi := s.host.tdi } } = s) ∧
    (s.tdi t = .run ∨ s.tdi t = .locked → (∀ e ∈ s.sched.queues, ∀ c ∈ e.2, c.ring = none) → ∀ x ∈ [TdiState.unlocked, TdiState.error],
      ∃ u, exec (.tdiStateChange t x) s = .next u ∧ u.tdi t = x ∧
      ((∀ e ∈ s.tab.regions, e.2.1.getLsbD 10 = false) → u.mem = s.mem) ∧
      (∀ e ∈ u.tab.keys, e.2.tdi ≠ some t) ∧ (∀ e ∈ u.sched.queues, ∀ c ∈ e.2, c.tenant ≠ t) ∧ u.itin.owner ≠ some t ∧
      (∀ v ∈ u.sched.saved, (∃ m ∈ v.wgs, m.wg.tenant = t) → v.ended ≠ none) ∧
      ∀ e ∈ u.wgs, e.2.tenant = t → ∃ h, e.2.halt = some h ∧ h.stage = .ending) ∧
    (∀ stack slot m, stack < 16 → slot < 32 →
      let ok := (s.tdi t = .locked ∨ s.tdi t = .run) ∧ ((s.keySlot stack slot).tdi = none ∨ (s.keySlot stack slot).tdi = some t)
      (ok → ∃ u, exec (.keySet t stack slot m) s = .next u ∧ u.keySlot stack slot = ⟨some t, some m⟩ ∧
        { u with tab := { u.tab with keys := s.tab.keys } } = { s with host := { s.host with answers := s.host.answers ++ [.keySet t true] } }) ∧
      (¬ ok → exec (.keySet t stack slot m) s = .next { s with host := { s.host with answers := s.host.answers ++ [.keySet t false] } })) ∧
    (∀ nonce, ∀ x ∈ [none, some t], ∃ u r, exec (.spdmMeasurementRequest x nonce) s = .next u ∧
      { u with free := s.free } = { s with host := { s.host with reports := s.host.reports ++ [r] } } ∧
      r.nonce = nonce ∧ r.life = s.host.life ∧ r.ready = s.host.ready ∧ r.firmware = Config.firmware ∧ r.hardware = Config.hardware ∧ r.chain = Config.chain ∧
      r.hash = Config.sign (Config.digest r.blocks) nonce s.free ∧
      (x = none → r.own = none) ∧ (x = some t → ∃ o, r.own = some o ∧ o.tdi = t ∧ o.state = s.tdi t ∧
        (∀ i, i < 32 → Tab.find o.ranges i = some (s.range t i)) ∧ (∀ k, k < 16 → Tab.find o.grants k = some (s.grant t k) ∧ Tab.find o.pools k = s.pool t k) ∧
        ((s.tab.frames.map (·.1)).Nodup → ∀ stack f, f < 98304 → ((stack, f) ∈ o.frames ↔ (s.frame stack f).owner = some t)) ∧
        ∀ d, d < 4 → o.waitcap[d]? = some (s.csr d t).waitcap ∧ o.weights[d]? = some (s.csr d t).weight)) ∧
    (∀ l, ∃ u, exec (.lifeCycleChange l) s = .next u ∧ u.host.life = l ∧ u.mem = [] ∧ u.wgs = [] ∧ u.flights = [] ∧ u.sched.saved = [] ∧ u.tab.keys = [] ∧ u.tab.regions = [] ∧
      u.tab.frames = [] ∧ ∀ x, x < 16 → u.tdi x = .unlocked ∧ u.isReady (18 * 32 + x) = false) ∧
    (∃ u, exec .deviceReset s = .next u ∧ u.mem = [] ∧ u.wgs = [] ∧ u.flights = [] ∧ u.tab = State.reset.tab ∧ u.sched = State.reset.sched ∧
      u.itin = State.reset.itin ∧ u.fab = State.reset.fab ∧ u.host.ready = 0 ∧ u.host.tdi = [] ∧ u.host.life = s.host.life) ∧
    (∀ n, n < 18 * 32 + 20 ∨ (19 * 32 ≤ n ∧ n < 20 * 32 + 2) → ∃ u, exec (.functionReady n) s = .next u ∧ (∀ m, m < 672 → u.isReady m = (s.isReady m || m == n)) ∧
      { u with host := { u.host with ready := s.host.ready } } = s) ∧
    (∀ n, 18 * 32 + 20 ≤ n → n < 19 * 32 ∨ 20 * 32 + 2 ≤ n → exec (.functionReady n) s = .next s) ∧
    (∀ n, n < 672 → ∃ u, exec (.readinessLost n) s = .next u ∧ (∀ m, m < 672 → u.isReady m = (s.isReady m && m != n)) ∧
      { u with host := { u.host with ready := s.host.ready } } = s) ∧
    exec (.hostTlpArrival (some t) .outside) s = .next { s with host := { s.host with ideErrors := s.host.ideErrors + 1 } } ∧
    exec (.hostTlpArrival (some t) (.inside none)) s = .next s ∧
    ∀ (a : HostAtomic),
      let ok := (s.tdi t = .locked ∨ s.tdi t = .run) ∧ a.op ∈ [.add, .xchg, .cas] ∧ (a.size = 4 ∨ a.size = 8) ∧ a.route.toNat % a.size = 0 ∧ s.isLocal t a.route = true
      (¬ ok → exec (.hostTlpArrival (some t) (.inside (some a))) s = .next { s with host := { s.host with answers := s.host.answers ++ [.atomic t none] } }) ∧
      ∀ l, ok → s.lookup t .atomic a.route = .ok l → s.poisoned l.key = false → l.dual = none → s.veiled l.enc (l.key / 128 * 128) 128 = [] →
        let old := s.mem.readN l.key a.size
        ∃ u, exec (.hostTlpArrival (some t) (.inside (some a))) s = .next u ∧ u.host.answers = s.host.answers ++ [.atomic t (some old)] ∧
          u.mem = s.mem.writeN l.key a.size (a.op.apply a.size old (a.data % 256 ^ a.size) (a.cmp % 256 ^ a.size))

/-- Base dies and clocks: the scrubber marks an uncorrectable line poisoned, keeps one corrected copy a stack, and writes it back or drops it, counted; a row whose counter fails its parity, or reaches its threshold, is
reset and counted; a die at its limit takes an arithmetic clock between 400 MHz and its present one, and one at 400 MHz shuts the module down with a record of KIND 5; a loop's setting changes nothing else, no clock falls
below its floor, and a hot die's arithmetic clock does not rise until the die has cooled. ARITHMETIC_CLOCK_TICK adds 1 to its die's CYCLE and leaves memory and every quad's registers alone (R1, R25, R84, R377, R379, R380;
the model's choices, log entry 45: one corrected copy a stack, a setting below the floor is not taken, the clock after a thermal limit is free). -/
def Obligations.HousekeepingAndClock : Prop :=
  ∀ (s : State) (n : Nat),
    (∀ line, n < 16 → line < 98304 * 2 ^ 14 → s.host.scrub.find n = none →
      exec (.scrubRead n line .clean) s = .next s ∧
      exec (.scrubRead n line .correctable) s = .next { s with host := { s.host with scrub := s.host.scrub.put n (line, false) } } ∧
      ∃ t, exec (.scrubRead n line .uncorrectable) s = .next t ∧ t.mem = s.mem ∧ t.poison.has (n * 2 ^ 31 + line) = true ∧
        Tab.get 0 t.host.uncorrected n = Tab.get 0 s.host.uncorrected n + 1) ∧
    (∀ line written, s.host.scrub.find n = some (line, written) → ∃ t, exec (.scrubWriteBack n) s = .next t ∧ t.mem = s.mem ∧ t.host.scrub.find n = none ∧
      Tab.get 0 t.host.corrected n = Tab.get 0 s.host.corrected n + (if written then 0 else 1) ∧
      Tab.get 0 t.host.dropBacks n = Tab.get 0 s.host.dropBacks n + (if written then 1 else 0)) ∧
    (∀ bank row limit, n < 16 → s.host.refresh.find n = some limit →
      let at' := fun (t : State) => Tab.get (⟨0, false⟩ : Row) t.host.rows ((n * 2 ^ 16 + bank) * 2 ^ 32 + row)
      let count := fun (t : State) => (at' t).count
      let sound := fun (t : State) => (at' t).parity = (((List.range 32).filter (fun i => (count t).testBit i)).length % 2 == 1)
      let event := fun (upset : Nat) => ∃ t, exec (.rowActivationRefresh n bank row upset) s = .next t ∧ count t = 0 ∧ sound t ∧ t.mem = s.mem ∧
        Tab.get 0 t.host.rowEvents n = Tab.get 0 s.host.rowEvents n + 1
      (limit ≤ count s + 1 → event 0) ∧ (sound s → ∀ i, i < 32 → event (2 ^ i)) ∧
      (sound s → count s + 1 < limit → ∃ t, exec (.rowActivationRefresh n bank row 0) s = .next t ∧ count t = count s + 1 ∧ sound t ∧ t.mem = s.mem ∧
        t.host.rowEvents = s.host.rowEvents)) ∧
    (n < 4 → 400 < s.clock n .arithmetic → ∃ t, exec (.thermalLimit n) s = .next t ∧ 400 ≤ t.clock n .arithmetic ∧ t.clock n .arithmetic < s.clock n .arithmetic ∧
      t.host.hot.has n = true ∧ t.mem = s.mem ∧ t.wgs = s.wgs ∧ t.host.shut = s.host.shut) ∧
    (n < 4 → s.clock n .arithmetic ≤ 400 → s.host.ringUsed < s.host.ringSize → ∃ t r, exec (.thermalLimit n) s = .next t ∧ t.host.shut = true ∧
      Recorded s t r ∧ r.kind = 5 ∧ t.mem = s.mem) ∧
    (∀ (p : ClockPart) (mhz : Nat), n < 4 →
      let least := match p with
        | .arithmetic => 400
        | .crossbar => 1400
        | _ => 0
      let held := p = .arithmetic ∧ s.host.hot.has n = true ∧ s.clock n p < mhz
      (least ≤ mhz → ¬ held → ∃ t, exec (.controlLoopAdjust n (.clock p mhz)) s = .next t ∧ t.clock n p = mhz ∧ (∀ r, r ≠ p → t.clock n r = s.clock n r) ∧
        { t with host := { t.host with clock := s.host.clock } } = s) ∧
      (mhz < least ∨ held → exec (.controlLoopAdjust n (.clock p mhz)) s = .next s)) ∧
    (∀ stack m, n < 4 → stack < 16 → exec (.controlLoopAdjust n (.refresh stack m)) s = .next { s with host := { s.host with refresh := s.host.refresh.put stack m } }) ∧
    (n < 4 → exec (.controlLoopAdjust n .cool) s = .next { s with host := { s.host with hot := s.host.hot.del n } }) ∧
    (4 ≤ n → exec (.thermalLimit n) s = .next s ∧ exec (.arithmeticClockTick n) s = .next s ∧ ∀ x, exec (.controlLoopAdjust n x) s = .next s) ∧
    (16 ≤ n → ∀ a b c, (∀ f, exec (.scrubRead n a f) s = .next s) ∧ exec (.rowActivationRefresh n a b c) s = .next s) ∧
    (∀ line f, 98304 * 2 ^ 14 ≤ line → exec (.scrubRead n line f) s = .next s) ∧
    (n < 4 → (s.wgs.map (·.1)).Nodup → ∃ t, exec (.arithmeticClockTick n) s = .next t ∧ t.cycle n = s.cycle n + 1 ∧ (∀ m, m ≠ n → t.cycle m = s.cycle m) ∧ t.mem = s.mem ∧
      ∀ k q x, s.quad? k q = some x → ∃ y, t.quad? k q = some y ∧ y = { x with await := y.await })

/-! ### The step, the encoding, and what every step keeps -/

/-- When the agenda's head gives a party its turn and the words at its place decode to a well-formed instruction that its clause, the conditions of the clause's
header and its open windows allow, the step is that instruction's execution, followed by `settle`: the windows, the skid count and the gang (log entry 1 for the
agenda). A quad (R47, R48, R66 to R68, R70, R387), the matrix sequencer and the copy sequencer (R46). A word in local memory is the four bytes there, little-endian, as
its domain's key reads them (log entry 55), and a word from outside the module is the one that has come. -/
def Obligations.StepRunsDecoded : Prop :=
  ∀ (s : State) (p : Party) (rest : List Turn) (k : Nat) (w : Wg) (c : Cl) (got : List (W64 × Word)) (a : Word) (i : Instr) (n : Nat),
    let s0 : State := { s with agenda := rest, focus := some p }
    let runs := ∀ t, exec i s0 = .next t → step s = .next (t.settle s0 p false)
    let decodes := s0.fetch w.tenant got c.pc = .word a ∧ c.rem ≠ 0 ∧
      ((decode [a] = .ok (i, n) ∧ n = 1) ∨
        (decode [a] = .error .short ∧ 2 ≤ c.rem ∧ ∃ b, s0.fetch w.tenant got (c.pc + 4) = .word b ∧ decode [a, b] = .ok (i, n))) ∧
      (∃ g ∈ opClasses (a.toNat / 2 ^ 24), classNo g = c.cls) ∧ i.wellFormed = true
    let allow := fun (wins : List Win) (uses : List Nat) (alone : Bool) =>
      (i.closes = true ∨ alone = true → wins = []) ∧ (i.pends = true → wins.length < 4) ∧ ∀ v ∈ wins, v.left ≠ 0 ∧ ∀ r ∈ v.dst, r ∉ uses
    s.agenda = .run p :: rest → s.host.shut = false → s0.wg? k = some w → decodes →
    (∀ q x, p = .quad k q → w.quads.find q = some x → x.cl = c → x.got = got → w.quadFree q x = true → asks x.await = false →
      s0.gangReady k q w = true → (∀ h, c.head = some h → s0.quadConds k q w x h = true) →
      allow x.wins (i.uses.map x.phys) x.resume.isSome → runs) ∧
    (p = .mtx k → w.mtx.seq.cl = c → w.mtx.seq.got = got → w.seqMay .matrix w.mtx.seq = true → asks w.mtx.seq.await = false → w.mtx.gather = none ∨ w.mtx.latch ≠ none →
      (∀ h, c.head = some h → s0.seqHeader w 64 h c.hdr = none) → allow w.mtx.wins i.accs false → runs) ∧
    (p = .cpy k → w.cpy.seq.cl = c → w.cpy.seq.got = got → w.seqMay .copy w.cpy.seq = true → asks w.cpy.seq.await = false →
      (∀ h, c.head = some h → s0.seqHeader w 65 h c.hdr = none) → runs) ∧
    (isDev c.pc = true → s0.isLocal w.tenant c.pc = true → ∀ l, s0.lookup w.tenant .fetch c.pc = .ok l → s0.poisoned l.key = false →
      s0.veiled l.enc l.key 4 = [] →
      a = BitVec.ofNat 32 ((s0.mem.read l.key).toNat + 2 ^ 8 * (s0.mem.read (l.key + 1)).toNat + 2 ^ 16 * (s0.mem.read (l.key + 2)).toNat +
        2 ^ 24 * (s0.mem.read (l.key + 3)).toNat)) ∧
    (s0.isLocal w.tenant c.pc = false → ∃ e ∈ got, e.1 = c.pc ∧ a = e.2)

/-- What a party that has its turn and may issue does when the words at its place give no instruction to run: the step is the fault, or the request for the word.
Inside a clause the first check that fails decides (R70): no opcode, a class that the clause does not run, a literal or second word past the clause, a field, a
pending destination (R67), and before all of them a level that refuses the fetch, the fault then naming the word (R387). At a header: the checks of R46, with
BR_TARGET where a start or a handler entry has led there (R50), PRIV for a SYS header in user mode, BAR_MISUSE, and TILE_UNDEF for a sequencer, until the clause's first instruction
has issued (R47; that their TPC is the header's address is the model's choice, log entry 68). -/
def Claims.IssueRefusals : Prop :=
  ∀ (s : State) (p : Party) (rest : List Turn) (k o : Nat) (w : Wg) (c : Cl) (got : List (W64 × Word)) (entered : Option W64) (ls : BitVec 4) (wins : List Win)
      (sup alone : Bool) (uses : Instr → List Nat),
    let s0 : State := { s with agenda := rest, focus := some p }
    let faults := fun (f : FaultInfo) => step s = .next ((s0.raise k o f c sup false).settle s0 p false)
    let raises := fun (cause : Nat) => faults ⟨cause, 15, 0, 0, 0, ls, c.pc, false⟩
    let asksFor := fun (a : W64) (c : Cl) => step s = .next (s0.askAll p .fetch [⟨0, a, 4, 0, 0, 0⟩] c sup ls)
    let word := fun (a : W64) (at' : Cl) (bad : Word → Prop) =>
      (∀ r, s0.fetch w.tenant got a = .refused r → faults ⟨r.cause, r.level, 0, r.label, a, ls, a, true⟩) ∧
      (s0.fetch w.tenant got a = .ask → asksFor a at') ∧ ∀ v, s0.fetch w.tenant got a = .word v → bad v
    let whole := fun (ok : Instr → Nat → Prop) (r : Except DecErr (Instr × Nat)) =>
      (r = .error .illField → raises cILL_FIELD) ∧ ∀ i n, r = .ok (i, n) → (i.wellFormed = false → raises cILL_FIELD) ∧ (i.wellFormed = true → ok i n)
    let windows := fun (i : Instr) (_ : Nat) => (i.closes = true ∨ alone = true → wins = []) → (∀ v ∈ wins, v.left ≠ 0) →
      (∃ v ∈ wins, ∃ r ∈ v.dst, r ∈ uses i) ∨ (i.pends = true ∧ 4 ≤ wins.length) → raises cLA_VIOLATION
    let inside := c.rem ≠ 0 → word c.pc c (fun a =>
      (decode [a] = .error .illOp → raises cILL_OP) ∧
      (decode [a] ≠ .error .illOp → (∀ g ∈ opClasses (a.toNat / 2 ^ 24), classNo g ≠ c.cls) → raises cILL_CLAUSE) ∧
      ((∃ g ∈ opClasses (a.toNat / 2 ^ 24), classNo g = c.cls) →
        (decode [a] = .error .short → c.rem < 2 → raises cILL_CLAUSE) ∧ whole windows (decode [a]) ∧
        (decode [a] = .error .short → 2 ≤ c.rem → word (c.pc + 4) (c.next 1) (fun b => whole windows (decode [a, b])))))
    let header := fun (runs : List Nat) (f : Word → Prop) => c.rem = 0 →
      (c.pc.toNat % 4 ≠ 0 → raises cBR_TARGET) ∧
      (c.pc.toNat % 4 = 0 → c.head = none → word c.pc c (fun h =>
        (HeaderFails runs h → raises (if entered.isSome then cBR_TARGET else cILL_CLAUSE)) ∧ (¬ HeaderFails runs h → f h))) ∧
      (c.pc.toNat % 4 = 0 → ∀ h, c.head = some h → (HeaderFails runs h → raises (if entered.isSome then cBR_TARGET else cILL_CLAUSE)) ∧
        (¬ HeaderFails runs h → f h))
    let bar := fun (h : Word) => h.toNat / 2 ^ 20 % 16
    s.agenda = .run p :: rest → s.host.shut = false → s0.wg? k = some w →
    (∀ q x, p = .quad k q → w.quads.find q = some x → w.quadFree q x = true → asks x.await = false → s0.gangReady k q w = true →
      o = q → x.cl = c → x.got = got → x.entered = entered → x.mask = ls → x.wins = wins → x.sup = sup →
      x.resume.isSome = alone → (uses = fun i => i.uses.map x.phys) →
      ((∀ h, c.head = some h → s0.quadConds k q w x h = true) → inside) ∧ header [0, 1, 2, 3] (fun h =>
        (h.toNat / 2 ^ 25 % 8 = 3 → sup = false → raises cPRIV) ∧
        ((h.toNat / 2 ^ 25 % 8 = 3 → sup = true) → (alone = true → wins = []) → h.getLsbD 24 = true → w.barQuads (bar h) = 0 → raises cBAR_MISUSE))) ∧
    (∀ z, (p = .mtx k ∧ o = 64 ∧ z = w.mtx.seq ∧ w.seqMay .matrix z = true ∧ (w.mtx.gather = none ∨ w.mtx.latch ≠ none) ∧ w.mtx.wins = wins) ∨
        (p = .cpy k ∧ o = 65 ∧ z = w.cpy.seq ∧ w.seqMay .copy z = true ∧ wins = []) → asks z.await = false →
      z.cl = c → z.got = got → z.entered = entered → ls = 0 → sup = false → alone = false → uses = Instr.accs →
      let waits := fun (h : Word) (at' : W64) =>
        let fails := fun (cause : Nat) => faults ⟨cause, 15, 0, 0, 0, ls, at', false⟩
        (h.getLsbD 24 = true → w.barSeq (bar h) o = false → fails cBAR_MISUSE) ∧
        ((h.getLsbD 24 = true → w.barSeq (bar h) o = true ∧ w.flag (bar h) o = false) → h.getLsbD 11 = true →
          w.tiles.find (h.toNat / 2 ^ 5 % 64) = none → fails cTILE_UNDEF)
      ((∀ h, c.head = some h → s0.seqHeader w o h c.hdr = none) → inside) ∧ header [if o = 64 then 4 else 5] (fun h => waits h c.pc) ∧
      (c.rem ≠ 0 → ∀ h, c.head = some h → waits h c.hdr))

/-- What a fetch answers, and what a transfer of control finds at its target. A word of the module is refused where a level refuses the fetch with right X or its line
is poisoned; a word outside it is the one that has come, or is refused by level 0 or the format of the host half, or has to be asked for (R387, R199). A target is a header
where it is aligned and the word there passes R46 (R50). -/
def Claims.FetchesAndTargets : Prop :=
  ∀ (s : State) (tenant : Nat) (got : List (W64 × Word)) (a : W64),
    (∀ r, isDev a = true → s.isLocal tenant a = true → s.lookup tenant .fetch a = .error r → s.fetch tenant got a = .refused r) ∧
    (∀ l, isDev a = true → s.isLocal tenant a = true → s.lookup tenant .fetch a = .ok l → s.poisoned l.key = true →
      s.fetch tenant got a = .refused (poisonOf l a)) ∧
    (∀ l, isDev a = true → s.isLocal tenant a = true → s.lookup tenant .fetch a = .ok l → s.poisoned l.key = false →
      s.fetch tenant got a = .word (BitVec.ofNat 32 (s.peek l 4))) ∧
    (isDev a = false → a.toNat / 2 ^ 57 % 2 ^ 6 ≠ 0 → s.fetch tenant got a = .refused ⟨cHOST_XLATE, 5, 0⟩) ∧
    (isDev a = true ∨ a.toNat / 2 ^ 57 % 2 ^ 6 = 0 → s.isLocal tenant a = false →
      (∀ v, got.find? (fun e => e.1 == a) = some (a, v) → s.fetch tenant got a = .word v) ∧
      (got.find? (fun e => e.1 == a) = none → ∀ r, s.level0 tenant .fetch none a = .error r → s.fetch tenant got a = .refused r) ∧
      (got.find? (fun e => e.1 == a) = none → ∀ r, s.level0 tenant .fetch none a = .ok r → s.fetch tenant got a = .ask)) ∧
    ∀ runs : List Nat,
      (a.toNat % 4 ≠ 0 → s.targetAt tenant got runs a = .bad) ∧
      (a.toNat % 4 = 0 → (∀ r, s.fetch tenant got a = .refused r → s.targetAt tenant got runs a = .refused r) ∧
        (s.fetch tenant got a = .ask → s.targetAt tenant got runs a = .ask) ∧
        ∀ h, s.fetch tenant got a = .word h → (HeaderFails runs h → s.targetAt tenant got runs a = .bad) ∧
          (¬ HeaderFails runs h → s.targetAt tenant got runs a = .header h))

/-- What a party does when the words at its place give no instruction to run, and what a fetch and a transfer find. -/
def Obligations.IssueRefusals : Prop := Claims.IssueRefusals ∧ Claims.FetchesAndTargets

/-- Every step that the module takes has a next state: no instruction and no event is refused, and the one stop is a module in thermal shutdown, which only a
reset leaves (R377). -/
def Obligations.EveryStepGoesOn : Prop :=
  (∀ (i : Instr) (s : State), ∃ t, exec i s = .next t) ∧
  ∀ s : State,
    let stopped := s.host.shut = true ∧ ∀ rest, s.agenda ≠ .happen .deviceReset :: rest
    (stopped → step s = .fault .thermalShutdown) ∧ (¬ stopped → ∃ t, step s = .next t)

/-- Words that the spec writes out, one for each format, decode to the instruction they stand for (02_notation Table 2-3, R39, R55 to R65, R146, R151, R189,
R235, R276, R277, R306, Table 9-5); opcode 0 is none, and a literal past the clause is missing. -/
def Obligations.DecodeWords : Prop :=
  decode [0x01144FDF, 0x000003E8] = .ok (.iadd ⟨5, 4, .lit 1000, false, 31⟩, 2) ∧
  decode [0x432092A3] = .ok (.ffma ⟨8, 9, .reg 10, true, 3⟩, 1) ∧
  decode [0x240C3007] = .ok (.shli ⟨3, 3, 7⟩, 1) ∧
  decode [0x310908FC, 0] = .ok (.icmp64 ⟨1, 1, 0, 8, .lit 0⟩, 2) ∧
  decode [0x85102012] = .ok (.ld64 ⟨4, 2, 1, 2⟩, 1) ∧
  decode [0x90202256] = .ok (.acas ⟨8, 2, 9, 2, 3⟩, 1) ∧
  decode [0xB002FFFB] = .ok (.br ⟨0, false, 2, 0xFFFB⟩, 1) ∧
  decode [0xC3600000] = .ok (.trap 3, 1) ∧
  decode [0xD3108180] = .ok (.rtset ⟨4, 8, 6⟩, 1) ∧
  decode [0xE0100100, 0x1000] = .ok (.kmov ⟨2, 0, .lit 0x1000, 0⟩, 2) ∧
  decode [0xE9700010] = .ok (.kbr ⟨3, true, 16⟩, 1) ∧
  decode [0xF0020A40, 0x01100000] = .ok (.mma ⟨0, 4, 5, 4, 0, 0, 0, 1, 0, 1, 0, false, false⟩, 2) ∧
  decode [0x00000000] = .error .illOp ∧ decode [0x01144FDF] = .error .short

/-- Encoding and decoding agree on the words of every instruction: the words of a well-formed instruction, whatever follows them, decode to it with every
operand at its value, and a decoded well-formed instruction is encoded by the words it was read from (R54 to R65, R71). -/
def Obligations.DecodeEncodeAgree : Prop :=
  (∀ (i : Instr) (rest : List Word), i.isWord = true → i.wellFormed = true →
    decode (encode i ++ rest) = .ok (i, (encode i).length)) ∧
  ∀ (ws : List Word) (i : Instr) (n : Nat), decode ws = .ok (i, n) → i.wellFormed = true →
    i.isWord = true ∧ encode i = ws.take n

/-- What reset leaves: nothing mapped, nothing resident, in flight or saved, every memory byte 0 (log entry 3), every range entry invalid (the model's choice, log entry 4), FTIMEOUT at 2^24 and every arithmetic clock at
its nominal 850 MHz, every crossbar's at 1.4 GHz (the model's choice, of which R25 gives the floor: log entry 45); and the invariants below hold (R25, R334, R346, R374). -/
def Obligations.ResetState : Prop :=
  State.reset.Inv ∧ State.reset.Keyed ∧ State.reset.Limits ∧
  State.reset.wgs = [] ∧ State.reset.flights = [] ∧ State.reset.sched.saved = [] ∧ State.reset.tab.regions = [] ∧ State.reset.tab.extents = [] ∧
  State.reset.itin.owner = none ∧ State.reset.itin.st = 0 ∧ State.reset.host.shut = false ∧
  (∀ a, State.reset.mem.read a = 0) ∧ (∀ tenant, State.reset.ftimeout tenant = 2 ^ 24) ∧ (∀ die, State.reset.clock die .arithmetic = 850 ∧ State.reset.clock die .crossbar = 1400) ∧
  (∀ tenant n, (State.reset.range tenant n).v = false) ∧ ∀ die, State.reset.cycle die = 0

/-- Every step keeps memory in its canonical form, so that after any number of steps equal memories are equal data. -/
def Obligations.StepKeepsMemoryForm : Prop :=
  ∀ s t : State, s.Inv → step s = .next t → t.Inv

/-- Every step keeps the tables' keys in order: one workgroup to a slot, one operation to a name, one quad to a number, in slots and in saved units, and no
operation has a name not yet given out. -/
def Obligations.StepKeepsKeys : Prop :=
  ∀ s t : State, s.Keyed → step s = .next t → t.Keyed

/-- Every step keeps FTIMEOUT within 2^16 to 2^30 cycles, every arithmetic clock at 400 MHz or more, every crossbar clock at 1.4 GHz or more, and the error ring within its size (R334, R377, R25, R369). -/
def Obligations.StepKeepsLimits : Prop :=
  ∀ s t : State, s.Limits → step s = .next t → t.Limits
end

