-- ==== Sys2Proof/Laws/Tab.lean ====
section
/-!
SUPPORT. What the operations on sparse tables do, at the key they name and at every other one.
-/
namespace Sys2Proof

theorem Tab.find_put_same {α : Type} (t : Tab α) (k : Nat) (v : α) : (t.put k v).find k = some v := by
  induction t with
  | nil => simp [Tab.put, Tab.find]
  | cons e r ih =>
    obtain ⟨j, w⟩ := e
    simp only [Tab.put]
    split
    · simp [Tab.find]
    · split
      · simp [Tab.find]
      · simp [Tab.find, *]

theorem Tab.find_put_other {α : Type} (t : Tab α) (k j : Nat) (v : α) (h : j ≠ k) : (t.put k v).find j = t.find j := by
  induction t with
  | nil => simp [Tab.put, Tab.find, h.symm]
  | cons e r ih =>
    obtain ⟨i, w⟩ := e
    simp only [Tab.put]
    split
    · next hi => subst hi; simp [Tab.find, h.symm]
    · split
      · simp [Tab.find, h.symm]
      · simp [Tab.find, ih]

theorem Tab.find_put {α : Type} (t : Tab α) (k j : Nat) (v : α) :
    (t.put k v).find j = if j = k then some v else t.find j := by
  by_cases h : j = k
  · subst h; simp [Tab.find_put_same]
  · simp [h, Tab.find_put_other t k j v h]

theorem Tab.find_del {α : Type} (t : Tab α) (k j : Nat) : (t.del k).find j = if j = k then none else t.find j := by
  induction t with
  | nil => simp [Tab.del, Tab.find]
  | cons e r ih =>
    obtain ⟨i, w⟩ := e
    simp only [Tab.del]
    by_cases hi : i = k
    · subst hi
      by_cases hj : j = i
      · subst hj; simp [ih]
      · have : i ≠ j := Ne.symm hj
        simp [Tab.find, ih, hj, this]
    · simp only [hi, if_false, Tab.find]
      by_cases hj : i = j
      · subst hj; simp [hi]
      · simp [hj, ih]

theorem Tab.find_upd_same {α : Type} (t : Tab α) (k : Nat) (f : α → α) : (t.upd k f).find k = (t.find k).map f := by
  induction t with
  | nil => simp [Tab.upd, Tab.find]
  | cons e r ih =>
    obtain ⟨i, w⟩ := e
    simp only [Tab.upd]
    split <;> simp [Tab.find, *]

theorem Tab.find_upd_other {α : Type} (t : Tab α) (k j : Nat) (f : α → α) (h : j ≠ k) :
    (t.upd k f).find j = t.find j := by
  induction t with
  | nil => simp [Tab.upd, Tab.find]
  | cons e r ih =>
    obtain ⟨i, w⟩ := e
    simp only [Tab.upd]
    split
    · next hi => subst hi; simp [Tab.find, h.symm]
    · simp [Tab.find, ih]

/-- A change of one entry, seen at any key. -/
theorem Tab.find_upd {α : Type} (t : Tab α) (k j : Nat) (f : α → α) :
    (t.upd k f).find j = if j = k then (t.find j).map f else t.find j := by
  by_cases h : j = k
  · subst h; simp [Tab.find_upd_same]
  · simp [h, Tab.find_upd_other t k j f h]

theorem Tab.get_set {α : Type} [DecidableEq α] (d : α) (t : Tab α) (k j : Nat) (v : α) :
    Tab.get d (Tab.set d t k v) j = if j = k then v else Tab.get d t j := by
  unfold Tab.get Tab.set
  by_cases hv : v = d
  · simp only [hv, if_true, Tab.find_del]
    split <;> simp
  · simp only [hv, if_false, Tab.find_put]
    split <;> simp

theorem Tab.get_bump (t : Tab Nat) (k n j : Nat) :
    Tab.get 0 (Tab.set 0 t k (Tab.get 0 t k + n)) j = if j = k then Tab.get 0 t k + n else Tab.get 0 t j :=
  Tab.get_set 0 t k j _

theorem Tab.find_clear {α : Type} (t : Tab α) (lo n j : Nat) :
    (t.clear lo n).find j = if lo ≤ j ∧ j < lo + n then none else t.find j := by
  induction t with
  | nil => simp [Tab.clear, Tab.find]
  | cons e r ih =>
    obtain ⟨i, w⟩ := e
    simp only [Tab.clear] at ih
    simp only [Tab.clear, List.filter_cons]
    by_cases hi : i < lo || lo + n ≤ i
    · simp only [hi, if_true, Tab.find]
      by_cases hj : i = j
      · subst hj
        have : ¬ (lo ≤ i ∧ i < lo + n) := by simp at hi; omega
        simp [this]
      · simp [hj, ih]
    · simp only [hi, Bool.false_eq_true, if_false, ih, Tab.find]
      by_cases hj : i = j
      · subst hj
        have : lo ≤ i ∧ i < lo + n := by simp at hi; omega
        simp [this]
      · simp [hj]

/-- The keys after a change of one entry. -/
theorem Tab.keys_upd {α : Type} (t : Tab α) (k : Nat) (f : α → α) : (t.upd k f).map (·.1) = t.map (·.1) := by
  induction t with
  | nil => rfl
  | cons e r ih =>
    obtain ⟨j, w⟩ := e
    simp only [Tab.upd]
    split <;> simp [*]

/-- Distinct keys: one entry at each. -/
theorem Tab.one_entry {α : Type} (t : Tab α) (k : Nat) (v w : α) (h : (t.map (·.1)).Nodup) (hv : (k, v) ∈ t) (hw : (k, w) ∈ t) :
    v = w := by
  induction t with
  | nil => simp at hv
  | cons d r ih =>
    rw [List.map_cons, List.nodup_cons] at h
    rcases List.mem_cons.1 hv with rfl | hv <;> rcases List.mem_cons.1 hw with hw | hw
    · exact (Prod.mk.inj hw).2.symm
    · exact absurd (List.mem_map.2 ⟨_, hw, rfl⟩) h.1
    · rw [← hw] at h
      exact absurd (List.mem_map.2 ⟨_, hv, rfl⟩) h.1
    · exact ih h.2 hv hw

/-- What a changed table holds, when its keys are distinct. -/
theorem Tab.mem_upd {α : Type} (t : Tab α) (k : Nat) (f : α → α) (e : Nat × α) (h : (t.map (·.1)).Nodup) :
    e ∈ t.upd k f ↔ (e ∈ t ∧ e.1 ≠ k) ∨ ∃ v, (k, v) ∈ t ∧ e = (k, f v) := by
  induction t with
  | nil => simp [Tab.upd]
  | cons d r ih =>
    obtain ⟨j, w⟩ := d
    rw [List.map_cons, List.nodup_cons] at h
    simp only [Tab.upd]
    split
    · next hj =>
      subst hj
      have hr : ∀ v, (j, v) ∉ r := fun v hv => h.1 (List.mem_map.2 ⟨(j, v), hv, rfl⟩)
      constructor
      · intro he
        rcases List.mem_cons.1 he with rfl | he
        · exact Or.inr ⟨w, List.mem_cons_self .., rfl⟩
        · refine Or.inl ⟨List.mem_cons_of_mem _ he, ?_⟩
          intro hc
          exact hr e.2 (by rw [← hc]; exact he)
      · rintro (⟨he, hne⟩ | ⟨v, hv, rfl⟩)
        · rcases List.mem_cons.1 he with rfl | he
          · exact absurd rfl hne
          · exact List.mem_cons_of_mem _ he
        · rcases List.mem_cons.1 hv with hv | hv
          · injection hv with _ hw
            subst hw
            exact List.mem_cons_self ..
          · exact absurd hv (hr v)
    · next hj =>
      rw [List.mem_cons, ih h.2]
      constructor
      · rintro (rfl | ⟨he, hne⟩ | ⟨v, hv, rfl⟩)
        · exact Or.inl ⟨List.mem_cons_self .., hj⟩
        · exact Or.inl ⟨List.mem_cons_of_mem _ he, hne⟩
        · exact Or.inr ⟨v, List.mem_cons_of_mem _ hv, rfl⟩
      · rintro (⟨he, hne⟩ | ⟨v, hv, rfl⟩)
        · rcases List.mem_cons.1 he with rfl | he
          · exact Or.inl rfl
          · exact Or.inr (Or.inl ⟨he, hne⟩)
        · rcases List.mem_cons.1 hv with hv | hv
          · injection hv with hk _
            exact absurd hk.symm hj
          · exact Or.inr (Or.inr ⟨v, hv, rfl⟩)

/-- An entry above every key goes to the end. -/
theorem Tab.put_above {α : Type} (t : Tab α) (k : Nat) (v : α) (h : ∀ e ∈ t, e.1 < k) : t.put k v = t ++ [(k, v)] := by
  induction t with
  | nil => rfl
  | cons d r ih =>
    obtain ⟨j, w⟩ := d
    have hj : j < k := h (j, w) (List.mem_cons_self ..)
    simp only [Tab.put, List.cons_append]
    rw [if_neg (by omega), if_neg (by omega), ih (fun e he => h e (List.mem_cons_of_mem _ he))]

end Sys2Proof
end

