-- ==== Sys2Proof/Laws/State.lean ====
section
/-!
SUPPORT. What each update of the state changes, field by field, and what a lookup finds after it.
-/
namespace Sys2Proof.Machine

open Sys2Proof

/-! ### State.updWg -/

@[simp] theorem State.updWg_mem (x : State) (k : Nat) (f : Wg → Wg) : (x.updWg k f).mem = x.mem := rfl
@[simp] theorem State.updWg_cache (x : State) (k : Nat) (f : Wg → Wg) : (x.updWg k f).cache = x.cache := rfl
@[simp] theorem State.updWg_poison (x : State) (k : Nat) (f : Wg → Wg) : (x.updWg k f).poison = x.poison := rfl
@[simp] theorem State.updWg_tab (x : State) (k : Nat) (f : Wg → Wg) : (x.updWg k f).tab = x.tab := rfl
@[simp] theorem State.updWg_host (x : State) (k : Nat) (f : Wg → Wg) : (x.updWg k f).host = x.host := rfl
@[simp] theorem State.updWg_fab (x : State) (k : Nat) (f : Wg → Wg) : (x.updWg k f).fab = x.fab := rfl
@[simp] theorem State.updWg_sched (x : State) (k : Nat) (f : Wg → Wg) : (x.updWg k f).sched = x.sched := rfl
@[simp] theorem State.updWg_itin (x : State) (k : Nat) (f : Wg → Wg) : (x.updWg k f).itin = x.itin := rfl
@[simp] theorem State.updWg_wgs (x : State) (k : Nat) (f : Wg → Wg) : (x.updWg k f).wgs = x.wgs.upd k f := rfl
@[simp] theorem State.updWg_flights (x : State) (k : Nat) (f : Wg → Wg) : (x.updWg k f).flights = x.flights := rfl
@[simp] theorem State.updWg_agenda (x : State) (k : Nat) (f : Wg → Wg) : (x.updWg k f).agenda = x.agenda := rfl
@[simp] theorem State.updWg_focus (x : State) (k : Nat) (f : Wg → Wg) : (x.updWg k f).focus = x.focus := rfl
@[simp] theorem State.updWg_nextId (x : State) (k : Nat) (f : Wg → Wg) : (x.updWg k f).nextId = x.nextId := rfl
@[simp] theorem State.updWg_free (x : State) (k : Nat) (f : Wg → Wg) : (x.updWg k f).free = x.free := rfl

/-! ### State.updQuad -/

@[simp] theorem State.updQuad_mem (x : State) (k q : Nat) (f : Quad → Quad) : (x.updQuad k q f).mem = x.mem := rfl
@[simp] theorem State.updQuad_cache (x : State) (k q : Nat) (f : Quad → Quad) : (x.updQuad k q f).cache = x.cache := rfl
@[simp] theorem State.updQuad_poison (x : State) (k q : Nat) (f : Quad → Quad) : (x.updQuad k q f).poison = x.poison := rfl
@[simp] theorem State.updQuad_tab (x : State) (k q : Nat) (f : Quad → Quad) : (x.updQuad k q f).tab = x.tab := rfl
@[simp] theorem State.updQuad_host (x : State) (k q : Nat) (f : Quad → Quad) : (x.updQuad k q f).host = x.host := rfl
@[simp] theorem State.updQuad_fab (x : State) (k q : Nat) (f : Quad → Quad) : (x.updQuad k q f).fab = x.fab := rfl
@[simp] theorem State.updQuad_sched (x : State) (k q : Nat) (f : Quad → Quad) : (x.updQuad k q f).sched = x.sched := rfl
@[simp] theorem State.updQuad_itin (x : State) (k q : Nat) (f : Quad → Quad) : (x.updQuad k q f).itin = x.itin := rfl
@[simp] theorem State.updQuad_wgs (x : State) (k q : Nat) (f : Quad → Quad) : (x.updQuad k q f).wgs = x.wgs.upd k (fun w => w.updQuad q f) := rfl
@[simp] theorem State.updQuad_flights (x : State) (k q : Nat) (f : Quad → Quad) : (x.updQuad k q f).flights = x.flights := rfl
@[simp] theorem State.updQuad_agenda (x : State) (k q : Nat) (f : Quad → Quad) : (x.updQuad k q f).agenda = x.agenda := rfl
@[simp] theorem State.updQuad_focus (x : State) (k q : Nat) (f : Quad → Quad) : (x.updQuad k q f).focus = x.focus := rfl
@[simp] theorem State.updQuad_nextId (x : State) (k q : Nat) (f : Quad → Quad) : (x.updQuad k q f).nextId = x.nextId := rfl
@[simp] theorem State.updQuad_free (x : State) (k q : Nat) (f : Quad → Quad) : (x.updQuad k q f).free = x.free := rfl

/-! ### State.launch -/

@[simp] theorem State.launch_mem (x : State) (f : Flight) : (x.launch f).mem = x.mem := rfl
@[simp] theorem State.launch_cache (x : State) (f : Flight) : (x.launch f).cache = x.cache := rfl
@[simp] theorem State.launch_poison (x : State) (f : Flight) : (x.launch f).poison = x.poison := rfl
@[simp] theorem State.launch_tab (x : State) (f : Flight) : (x.launch f).tab = x.tab := rfl
@[simp] theorem State.launch_host (x : State) (f : Flight) : (x.launch f).host = x.host := rfl
@[simp] theorem State.launch_fab (x : State) (f : Flight) : (x.launch f).fab = x.fab := rfl
@[simp] theorem State.launch_sched (x : State) (f : Flight) : (x.launch f).sched = x.sched := rfl
@[simp] theorem State.launch_itin (x : State) (f : Flight) : (x.launch f).itin = x.itin := rfl
@[simp] theorem State.launch_wgs (x : State) (f : Flight) : (x.launch f).wgs = x.wgs := rfl
@[simp] theorem State.launch_flights (x : State) (f : Flight) : (x.launch f).flights = x.flights.put x.nextId f := rfl
@[simp] theorem State.launch_agenda (x : State) (f : Flight) : (x.launch f).agenda = x.agenda := rfl
@[simp] theorem State.launch_focus (x : State) (f : Flight) : (x.launch f).focus = x.focus := rfl
@[simp] theorem State.launch_nextId (x : State) (f : Flight) : (x.launch f).nextId = x.nextId + 1 := rfl
@[simp] theorem State.launch_free (x : State) (f : Flight) : (x.launch f).free = x.free := rfl

/-! ### State.updFlight -/

@[simp] theorem State.updFlight_mem (x : State) (id : Nat) (f : Flight → Flight) : (x.updFlight id f).mem = x.mem := rfl
@[simp] theorem State.updFlight_cache (x : State) (id : Nat) (f : Flight → Flight) : (x.updFlight id f).cache = x.cache := rfl
@[simp] theorem State.updFlight_poison (x : State) (id : Nat) (f : Flight → Flight) : (x.updFlight id f).poison = x.poison := rfl
@[simp] theorem State.updFlight_tab (x : State) (id : Nat) (f : Flight → Flight) : (x.updFlight id f).tab = x.tab := rfl
@[simp] theorem State.updFlight_host (x : State) (id : Nat) (f : Flight → Flight) : (x.updFlight id f).host = x.host := rfl
@[simp] theorem State.updFlight_fab (x : State) (id : Nat) (f : Flight → Flight) : (x.updFlight id f).fab = x.fab := rfl
@[simp] theorem State.updFlight_sched (x : State) (id : Nat) (f : Flight → Flight) : (x.updFlight id f).sched = x.sched := rfl
@[simp] theorem State.updFlight_itin (x : State) (id : Nat) (f : Flight → Flight) : (x.updFlight id f).itin = x.itin := rfl
@[simp] theorem State.updFlight_wgs (x : State) (id : Nat) (f : Flight → Flight) : (x.updFlight id f).wgs = x.wgs := rfl
@[simp] theorem State.updFlight_flights (x : State) (id : Nat) (f : Flight → Flight) : (x.updFlight id f).flights = x.flights.upd id f := rfl
@[simp] theorem State.updFlight_agenda (x : State) (id : Nat) (f : Flight → Flight) : (x.updFlight id f).agenda = x.agenda := rfl
@[simp] theorem State.updFlight_focus (x : State) (id : Nat) (f : Flight → Flight) : (x.updFlight id f).focus = x.focus := rfl
@[simp] theorem State.updFlight_nextId (x : State) (id : Nat) (f : Flight → Flight) : (x.updFlight id f).nextId = x.nextId := rfl
@[simp] theorem State.updFlight_free (x : State) (id : Nat) (f : Flight → Flight) : (x.updFlight id f).free = x.free := rfl

/-! ### State.drawn -/

@[simp] theorem State.drawn_mem (x : State) : (x.drawn).mem = x.mem := rfl
@[simp] theorem State.drawn_cache (x : State) : (x.drawn).cache = x.cache := rfl
@[simp] theorem State.drawn_poison (x : State) : (x.drawn).poison = x.poison := rfl
@[simp] theorem State.drawn_tab (x : State) : (x.drawn).tab = x.tab := rfl
@[simp] theorem State.drawn_host (x : State) : (x.drawn).host = x.host := rfl
@[simp] theorem State.drawn_fab (x : State) : (x.drawn).fab = x.fab := rfl
@[simp] theorem State.drawn_sched (x : State) : (x.drawn).sched = x.sched := rfl
@[simp] theorem State.drawn_itin (x : State) : (x.drawn).itin = x.itin := rfl
@[simp] theorem State.drawn_wgs (x : State) : (x.drawn).wgs = x.wgs := rfl
@[simp] theorem State.drawn_flights (x : State) : (x.drawn).flights = x.flights := rfl
@[simp] theorem State.drawn_agenda (x : State) : (x.drawn).agenda = x.agenda := rfl
@[simp] theorem State.drawn_focus (x : State) : (x.drawn).focus = x.focus := rfl
@[simp] theorem State.drawn_nextId (x : State) : (x.drawn).nextId = x.nextId := rfl
@[simp] theorem State.drawn_free (x : State) : (x.drawn).free = x.free + 1 := rfl

/-! ### Wg.updQuad -/

@[simp] theorem Wg.updQuad_uid (x : Wg) (q : Nat) (f : Quad → Quad) : (x.updQuad q f).uid = x.uid := rfl
@[simp] theorem Wg.updQuad_unit (x : Wg) (q : Nat) (f : Quad → Quad) : (x.updQuad q f).unit = x.unit := rfl
@[simp] theorem Wg.updQuad_wgid (x : Wg) (q : Nat) (f : Quad → Quad) : (x.updQuad q f).wgid = x.wgid := rfl
@[simp] theorem Wg.updQuad_members (x : Wg) (q : Nat) (f : Quad → Quad) : (x.updQuad q f).members = x.members := rfl
@[simp] theorem Wg.updQuad_tenant (x : Wg) (q : Nat) (f : Quad → Quad) : (x.updQuad q f).tenant = x.tenant := rfl
@[simp] theorem Wg.updQuad_card (x : Wg) (q : Nat) (f : Quad → Quad) : (x.updQuad q f).card = x.card := rfl
@[simp] theorem Wg.updQuad_code (x : Wg) (q : Nat) (f : Quad → Quad) : (x.updQuad q f).code = x.code := rfl
@[simp] theorem Wg.updQuad_frame (x : Wg) (q : Nat) (f : Quad → Quad) : (x.updQuad q f).frame = x.frame := rfl
@[simp] theorem Wg.updQuad_succ (x : Wg) (q : Nat) (f : Quad → Quad) : (x.updQuad q f).succ = x.succ := rfl
@[simp] theorem Wg.updQuad_shape (x : Wg) (q : Nat) (f : Quad → Quad) : (x.updQuad q f).shape = x.shape := rfl
@[simp] theorem Wg.updQuad_barq (x : Wg) (q : Nat) (f : Quad → Quad) : (x.updQuad q f).barq = x.barq := rfl
@[simp] theorem Wg.updQuad_mseq (x : Wg) (q : Nat) (f : Quad → Quad) : (x.updQuad q f).mseq = x.mseq := rfl
@[simp] theorem Wg.updQuad_cseq (x : Wg) (q : Nat) (f : Quad → Quad) : (x.updQuad q f).cseq = x.cseq := rfl
@[simp] theorem Wg.updQuad_gen (x : Wg) (q : Nat) (f : Quad → Quad) : (x.updQuad q f).gen = x.gen := rfl
@[simp] theorem Wg.updQuad_entry (x : Wg) (q : Nat) (f : Quad → Quad) : (x.updQuad q f).entry = x.entry := rfl
@[simp] theorem Wg.updQuad_quads (x : Wg) (q : Nat) (f : Quad → Quad) : (x.updQuad q f).quads = x.quads.upd q f := rfl
@[simp] theorem Wg.updQuad_gangs (x : Wg) (q : Nat) (f : Quad → Quad) : (x.updQuad q f).gangs = x.gangs := rfl
@[simp] theorem Wg.updQuad_mtx (x : Wg) (q : Nat) (f : Quad → Quad) : (x.updQuad q f).mtx = x.mtx := rfl
@[simp] theorem Wg.updQuad_cpy (x : Wg) (q : Nat) (f : Quad → Quad) : (x.updQuad q f).cpy = x.cpy := rfl
@[simp] theorem Wg.updQuad_scratch (x : Wg) (q : Nat) (f : Quad → Quad) : (x.updQuad q f).scratch = x.scratch := rfl
@[simp] theorem Wg.updQuad_full (x : Wg) (q : Nat) (f : Quad → Quad) : (x.updQuad q f).full = x.full := rfl
@[simp] theorem Wg.updQuad_bars (x : Wg) (q : Nat) (f : Quad → Quad) : (x.updQuad q f).bars = x.bars := rfl
@[simp] theorem Wg.updQuad_tiles (x : Wg) (q : Nat) (f : Quad → Quad) : (x.updQuad q f).tiles = x.tiles := rfl
@[simp] theorem Wg.updQuad_halt (x : Wg) (q : Nat) (f : Quad → Quad) : (x.updQuad q f).halt = x.halt := rfl
@[simp] theorem Wg.updQuad_preempt (x : Wg) (q : Nat) (f : Quad → Quad) : (x.updQuad q f).preempt = x.preempt := rfl

/-! ### Quad.setReg -/

@[simp] theorem Quad.setReg_live (x : Quad) (l n : Nat) (v : Word) : (x.setReg l n v).live = x.live := rfl
@[simp] theorem Quad.setReg_cl (x : Quad) (l n : Nat) (v : Word) : (x.setReg l n v).cl = x.cl := rfl
@[simp] theorem Quad.setReg_entered (x : Quad) (l n : Nat) (v : Word) : (x.setReg l n v).entered = x.entered := rfl
@[simp] theorem Quad.setReg_mask (x : Quad) (l n : Nat) (v : Word) : (x.setReg l n v).mask = x.mask := rfl
@[simp] theorem Quad.setReg_regs (x : Quad) (l n : Nat) (v : Word) : (x.setReg l n v).regs = Tab.set 0 x.regs (l * 256 + x.phys n) v := rfl
@[simp] theorem Quad.setReg_preds (x : Quad) (l n : Nat) (v : Word) : (x.setReg l n v).preds = x.preds := rfl
@[simp] theorem Quad.setReg_priv (x : Quad) (l n : Nat) (v : Word) : (x.setReg l n v).priv = x.priv := rfl
@[simp] theorem Quad.setReg_depth (x : Quad) (l n : Nat) (v : Word) : (x.setReg l n v).depth = x.depth := rfl
@[simp] theorem Quad.setReg_frames (x : Quad) (l n : Nat) (v : Word) : (x.setReg l n v).frames = x.frames := rfl
@[simp] theorem Quad.setReg_recon (x : Quad) (l n : Nat) (v : Word) : (x.setReg l n v).recon = x.recon := rfl
@[simp] theorem Quad.setReg_fpstat (x : Quad) (l n : Nat) (v : Word) : (x.setReg l n v).fpstat = x.fpstat := rfl
@[simp] theorem Quad.setReg_modq (x : Quad) (l n : Nat) (v : Word) : (x.setReg l n v).modq = x.modq := rfl
@[simp] theorem Quad.setReg_modb (x : Quad) (l n : Nat) (v : Word) : (x.setReg l n v).modb = x.modb := rfl
@[simp] theorem Quad.setReg_uad (x : Quad) (l n : Nat) (v : Word) : (x.setReg l n v).uad = x.uad := rfl
@[simp] theorem Quad.setReg_uap (x : Quad) (l n : Nat) (v : Word) : (x.setReg l n v).uap = x.uap := rfl
@[simp] theorem Quad.setReg_path (x : Quad) (l n : Nat) (v : Word) : (x.setReg l n v).path = x.path := rfl
@[simp] theorem Quad.setReg_idem (x : Quad) (l n : Nat) (v : Word) : (x.setReg l n v).idem = x.idem := rfl
@[simp] theorem Quad.setReg_trap (x : Quad) (l n : Nat) (v : Word) : (x.setReg l n v).trap = x.trap := rfl
@[simp] theorem Quad.setReg_sup (x : Quad) (l n : Nat) (v : Word) : (x.setReg l n v).sup = x.sup := rfl
@[simp] theorem Quad.setReg_shadow (x : Quad) (l n : Nat) (v : Word) : (x.setReg l n v).shadow = x.shadow := rfl
@[simp] theorem Quad.setReg_wins (x : Quad) (l n : Nat) (v : Word) : (x.setReg l n v).wins = x.wins := rfl
@[simp] theorem Quad.setReg_reports (x : Quad) (l n : Nat) (v : Word) : (x.setReg l n v).reports = x.reports := rfl
@[simp] theorem Quad.setReg_skid (x : Quad) (l n : Nat) (v : Word) : (x.setReg l n v).skid = x.skid := rfl
@[simp] theorem Quad.setReg_await (x : Quad) (l n : Nat) (v : Word) : (x.setReg l n v).await = x.await := rfl
@[simp] theorem Quad.setReg_redo (x : Quad) (l n : Nat) (v : Word) : (x.setReg l n v).redo = x.redo := rfl
@[simp] theorem Quad.setReg_resume (x : Quad) (l n : Nat) (v : Word) : (x.setReg l n v).resume = x.resume := rfl
@[simp] theorem Quad.setReg_kept (x : Quad) (l n : Nat) (v : Word) : (x.setReg l n v).kept = x.kept := rfl
@[simp] theorem Quad.setReg_since (x : Quad) (l n : Nat) (v : Word) : (x.setReg l n v).since = x.since := rfl
@[simp] theorem Quad.setReg_got (x : Quad) (l n : Nat) (v : Word) : (x.setReg l n v).got = x.got := rfl

/-! ### Quad.setPred -/

@[simp] theorem Quad.setPred_live (x : Quad) (l n : Nat) (b : Bool) : (x.setPred l n b).live = x.live := rfl
@[simp] theorem Quad.setPred_cl (x : Quad) (l n : Nat) (b : Bool) : (x.setPred l n b).cl = x.cl := rfl
@[simp] theorem Quad.setPred_entered (x : Quad) (l n : Nat) (b : Bool) : (x.setPred l n b).entered = x.entered := rfl
@[simp] theorem Quad.setPred_mask (x : Quad) (l n : Nat) (b : Bool) : (x.setPred l n b).mask = x.mask := rfl
@[simp] theorem Quad.setPred_regs (x : Quad) (l n : Nat) (b : Bool) : (x.setPred l n b).regs = x.regs := rfl
@[simp] theorem Quad.setPred_preds (x : Quad) (l n : Nat) (b : Bool) : (x.setPred l n b).preds = Tab.set 0 x.preds l (if b then Tab.get 0 x.preds l ||| BitVec.ofNat 24 (2 ^ n) else Tab.get 0 x.preds l &&& ~~~(BitVec.ofNat 24 (2 ^ n))) := rfl
@[simp] theorem Quad.setPred_priv (x : Quad) (l n : Nat) (b : Bool) : (x.setPred l n b).priv = x.priv := rfl
@[simp] theorem Quad.setPred_depth (x : Quad) (l n : Nat) (b : Bool) : (x.setPred l n b).depth = x.depth := rfl
@[simp] theorem Quad.setPred_frames (x : Quad) (l n : Nat) (b : Bool) : (x.setPred l n b).frames = x.frames := rfl
@[simp] theorem Quad.setPred_recon (x : Quad) (l n : Nat) (b : Bool) : (x.setPred l n b).recon = x.recon := rfl
@[simp] theorem Quad.setPred_fpstat (x : Quad) (l n : Nat) (b : Bool) : (x.setPred l n b).fpstat = x.fpstat := rfl
@[simp] theorem Quad.setPred_modq (x : Quad) (l n : Nat) (b : Bool) : (x.setPred l n b).modq = x.modq := rfl
@[simp] theorem Quad.setPred_modb (x : Quad) (l n : Nat) (b : Bool) : (x.setPred l n b).modb = x.modb := rfl
@[simp] theorem Quad.setPred_uad (x : Quad) (l n : Nat) (b : Bool) : (x.setPred l n b).uad = x.uad := rfl
@[simp] theorem Quad.setPred_uap (x : Quad) (l n : Nat) (b : Bool) : (x.setPred l n b).uap = x.uap := rfl
@[simp] theorem Quad.setPred_path (x : Quad) (l n : Nat) (b : Bool) : (x.setPred l n b).path = x.path := rfl
@[simp] theorem Quad.setPred_idem (x : Quad) (l n : Nat) (b : Bool) : (x.setPred l n b).idem = x.idem := rfl
@[simp] theorem Quad.setPred_trap (x : Quad) (l n : Nat) (b : Bool) : (x.setPred l n b).trap = x.trap := rfl
@[simp] theorem Quad.setPred_sup (x : Quad) (l n : Nat) (b : Bool) : (x.setPred l n b).sup = x.sup := rfl
@[simp] theorem Quad.setPred_shadow (x : Quad) (l n : Nat) (b : Bool) : (x.setPred l n b).shadow = x.shadow := rfl
@[simp] theorem Quad.setPred_wins (x : Quad) (l n : Nat) (b : Bool) : (x.setPred l n b).wins = x.wins := rfl
@[simp] theorem Quad.setPred_reports (x : Quad) (l n : Nat) (b : Bool) : (x.setPred l n b).reports = x.reports := rfl
@[simp] theorem Quad.setPred_skid (x : Quad) (l n : Nat) (b : Bool) : (x.setPred l n b).skid = x.skid := rfl
@[simp] theorem Quad.setPred_await (x : Quad) (l n : Nat) (b : Bool) : (x.setPred l n b).await = x.await := rfl
@[simp] theorem Quad.setPred_redo (x : Quad) (l n : Nat) (b : Bool) : (x.setPred l n b).redo = x.redo := rfl
@[simp] theorem Quad.setPred_resume (x : Quad) (l n : Nat) (b : Bool) : (x.setPred l n b).resume = x.resume := rfl
@[simp] theorem Quad.setPred_kept (x : Quad) (l n : Nat) (b : Bool) : (x.setPred l n b).kept = x.kept := rfl
@[simp] theorem Quad.setPred_since (x : Quad) (l n : Nat) (b : Bool) : (x.setPred l n b).since = x.since := rfl
@[simp] theorem Quad.setPred_got (x : Quad) (l n : Nat) (b : Bool) : (x.setPred l n b).got = x.got := rfl

/-! ### Quad.advance -/

@[simp] theorem Quad.advance_live (x : Quad) (n : Nat) : (x.advance n).live = x.live := rfl
@[simp] theorem Quad.advance_cl (x : Quad) (n : Nat) : (x.advance n).cl = x.cl.next n := rfl
@[simp] theorem Quad.advance_entered (x : Quad) (n : Nat) : (x.advance n).entered = x.entered := rfl
@[simp] theorem Quad.advance_mask (x : Quad) (n : Nat) : (x.advance n).mask = x.mask := rfl
@[simp] theorem Quad.advance_regs (x : Quad) (n : Nat) : (x.advance n).regs = x.regs := rfl
@[simp] theorem Quad.advance_preds (x : Quad) (n : Nat) : (x.advance n).preds = x.preds := rfl
@[simp] theorem Quad.advance_priv (x : Quad) (n : Nat) : (x.advance n).priv = x.priv := rfl
@[simp] theorem Quad.advance_depth (x : Quad) (n : Nat) : (x.advance n).depth = x.depth := rfl
@[simp] theorem Quad.advance_frames (x : Quad) (n : Nat) : (x.advance n).frames = x.frames := rfl
@[simp] theorem Quad.advance_recon (x : Quad) (n : Nat) : (x.advance n).recon = x.recon := rfl
@[simp] theorem Quad.advance_fpstat (x : Quad) (n : Nat) : (x.advance n).fpstat = x.fpstat := rfl
@[simp] theorem Quad.advance_modq (x : Quad) (n : Nat) : (x.advance n).modq = x.modq := rfl
@[simp] theorem Quad.advance_modb (x : Quad) (n : Nat) : (x.advance n).modb = x.modb := rfl
@[simp] theorem Quad.advance_uad (x : Quad) (n : Nat) : (x.advance n).uad = x.uad := rfl
@[simp] theorem Quad.advance_uap (x : Quad) (n : Nat) : (x.advance n).uap = x.uap := rfl
@[simp] theorem Quad.advance_path (x : Quad) (n : Nat) : (x.advance n).path = x.path := rfl
@[simp] theorem Quad.advance_idem (x : Quad) (n : Nat) : (x.advance n).idem = x.idem := rfl
@[simp] theorem Quad.advance_trap (x : Quad) (n : Nat) : (x.advance n).trap = x.trap := rfl
@[simp] theorem Quad.advance_sup (x : Quad) (n : Nat) : (x.advance n).sup = x.sup := rfl
@[simp] theorem Quad.advance_shadow (x : Quad) (n : Nat) : (x.advance n).shadow = x.shadow := rfl
@[simp] theorem Quad.advance_wins (x : Quad) (n : Nat) : (x.advance n).wins = x.wins := rfl
@[simp] theorem Quad.advance_reports (x : Quad) (n : Nat) : (x.advance n).reports = x.reports := rfl
@[simp] theorem Quad.advance_skid (x : Quad) (n : Nat) : (x.advance n).skid = x.skid := rfl
@[simp] theorem Quad.advance_await (x : Quad) (n : Nat) : (x.advance n).await = none := rfl
@[simp] theorem Quad.advance_redo (x : Quad) (n : Nat) : (x.advance n).redo = x.redo := rfl
@[simp] theorem Quad.advance_resume (x : Quad) (n : Nat) : (x.advance n).resume = x.resume := rfl
@[simp] theorem Quad.advance_kept (x : Quad) (n : Nat) : (x.advance n).kept = x.kept := rfl
@[simp] theorem Quad.advance_since (x : Quad) (n : Nat) : (x.advance n).since = x.since := rfl
@[simp] theorem Quad.advance_got (x : Quad) (n : Nat) : (x.advance n).got = [] := rfl

/-! ### Seq.setReg -/

@[simp] theorem Seq.setReg_mode (x : Seq) (n : Nat) (v : W64) : (x.setReg n v).mode = x.mode := rfl
@[simp] theorem Seq.setReg_cl (x : Seq) (n : Nat) (v : W64) : (x.setReg n v).cl = x.cl := rfl
@[simp] theorem Seq.setReg_entered (x : Seq) (n : Nat) (v : W64) : (x.setReg n v).entered = x.entered := rfl
@[simp] theorem Seq.setReg_k (x : Seq) (n : Nat) (v : W64) : (x.setReg n v).k = Tab.set 0 x.k n v := rfl
@[simp] theorem Seq.setReg_kp (x : Seq) (n : Nat) (v : W64) : (x.setReg n v).kp = x.kp := rfl
@[simp] theorem Seq.setReg_await (x : Seq) (n : Nat) (v : W64) : (x.setReg n v).await = x.await := rfl
@[simp] theorem Seq.setReg_skid (x : Seq) (n : Nat) (v : W64) : (x.setReg n v).skid = x.skid := rfl
@[simp] theorem Seq.setReg_got (x : Seq) (n : Nat) (v : W64) : (x.setReg n v).got = x.got := rfl

/-! ### Seq.advance -/

@[simp] theorem Seq.advance_mode (x : Seq) (n : Nat) : (x.advance n).mode = x.mode := rfl
@[simp] theorem Seq.advance_cl (x : Seq) (n : Nat) : (x.advance n).cl = x.cl.next n := rfl
@[simp] theorem Seq.advance_entered (x : Seq) (n : Nat) : (x.advance n).entered = x.entered := rfl
@[simp] theorem Seq.advance_k (x : Seq) (n : Nat) : (x.advance n).k = x.k := rfl
@[simp] theorem Seq.advance_kp (x : Seq) (n : Nat) : (x.advance n).kp = x.kp := rfl
@[simp] theorem Seq.advance_await (x : Seq) (n : Nat) : (x.advance n).await = none := rfl
@[simp] theorem Seq.advance_skid (x : Seq) (n : Nat) : (x.advance n).skid = x.skid := rfl
@[simp] theorem Seq.advance_got (x : Seq) (n : Nat) : (x.advance n).got = [] := rfl

/-! ### Updates of the party whose turn it is -/

theorem State.onQuad_eq (x : State) (f : Quad → Quad) (k q : Nat) (h : x.focus = some (.quad k q)) :
    x.onQuad f = x.updQuad k q f := by simp only [State.onQuad, h]

@[simp] theorem State.onQuad_mem (x : State) (f : Quad → Quad) : (x.onQuad f).mem = x.mem := by
  unfold State.onQuad; split <;> rfl
@[simp] theorem State.onQuad_cache (x : State) (f : Quad → Quad) : (x.onQuad f).cache = x.cache := by
  unfold State.onQuad; split <;> rfl
@[simp] theorem State.onQuad_poison (x : State) (f : Quad → Quad) : (x.onQuad f).poison = x.poison := by
  unfold State.onQuad; split <;> rfl
@[simp] theorem State.onQuad_tab (x : State) (f : Quad → Quad) : (x.onQuad f).tab = x.tab := by
  unfold State.onQuad; split <;> rfl
@[simp] theorem State.onQuad_host (x : State) (f : Quad → Quad) : (x.onQuad f).host = x.host := by
  unfold State.onQuad; split <;> rfl
@[simp] theorem State.onQuad_fab (x : State) (f : Quad → Quad) : (x.onQuad f).fab = x.fab := by
  unfold State.onQuad; split <;> rfl
@[simp] theorem State.onQuad_sched (x : State) (f : Quad → Quad) : (x.onQuad f).sched = x.sched := by
  unfold State.onQuad; split <;> rfl
@[simp] theorem State.onQuad_itin (x : State) (f : Quad → Quad) : (x.onQuad f).itin = x.itin := by
  unfold State.onQuad; split <;> rfl
@[simp] theorem State.onQuad_flights (x : State) (f : Quad → Quad) : (x.onQuad f).flights = x.flights := by
  unfold State.onQuad; split <;> rfl
@[simp] theorem State.onQuad_agenda (x : State) (f : Quad → Quad) : (x.onQuad f).agenda = x.agenda := by
  unfold State.onQuad; split <;> rfl
@[simp] theorem State.onQuad_focus (x : State) (f : Quad → Quad) : (x.onQuad f).focus = x.focus := by
  unfold State.onQuad; split <;> rfl
@[simp] theorem State.onQuad_nextId (x : State) (f : Quad → Quad) : (x.onQuad f).nextId = x.nextId := by
  unfold State.onQuad; split <;> rfl
@[simp] theorem State.onQuad_free (x : State) (f : Quad → Quad) : (x.onQuad f).free = x.free := by
  unfold State.onQuad; split <;> rfl

theorem State.onSeq_mtx (x : State) (f : Seq → Seq) (k : Nat) (h : x.focus = some (.mtx k)) :
    x.onSeq f = x.updWg k (fun w => { w with mtx := { w.mtx with seq := f w.mtx.seq } }) := by simp only [State.onSeq, h]

theorem State.onSeq_cpy (x : State) (f : Seq → Seq) (k : Nat) (h : x.focus = some (.cpy k)) :
    x.onSeq f = x.updWg k (fun w => { w with cpy := { w.cpy with seq := f w.cpy.seq } }) := by simp only [State.onSeq, h]

@[simp] theorem State.onSeq_mem (x : State) (f : Seq → Seq) : (x.onSeq f).mem = x.mem := by
  unfold State.onSeq; split <;> rfl
@[simp] theorem State.onSeq_cache (x : State) (f : Seq → Seq) : (x.onSeq f).cache = x.cache := by
  unfold State.onSeq; split <;> rfl
@[simp] theorem State.onSeq_poison (x : State) (f : Seq → Seq) : (x.onSeq f).poison = x.poison := by
  unfold State.onSeq; split <;> rfl
@[simp] theorem State.onSeq_tab (x : State) (f : Seq → Seq) : (x.onSeq f).tab = x.tab := by
  unfold State.onSeq; split <;> rfl
@[simp] theorem State.onSeq_host (x : State) (f : Seq → Seq) : (x.onSeq f).host = x.host := by
  unfold State.onSeq; split <;> rfl
@[simp] theorem State.onSeq_fab (x : State) (f : Seq → Seq) : (x.onSeq f).fab = x.fab := by
  unfold State.onSeq; split <;> rfl
@[simp] theorem State.onSeq_sched (x : State) (f : Seq → Seq) : (x.onSeq f).sched = x.sched := by
  unfold State.onSeq; split <;> rfl
@[simp] theorem State.onSeq_itin (x : State) (f : Seq → Seq) : (x.onSeq f).itin = x.itin := by
  unfold State.onSeq; split <;> rfl
@[simp] theorem State.onSeq_flights (x : State) (f : Seq → Seq) : (x.onSeq f).flights = x.flights := by
  unfold State.onSeq; split <;> rfl
@[simp] theorem State.onSeq_agenda (x : State) (f : Seq → Seq) : (x.onSeq f).agenda = x.agenda := by
  unfold State.onSeq; split <;> rfl
@[simp] theorem State.onSeq_focus (x : State) (f : Seq → Seq) : (x.onSeq f).focus = x.focus := by
  unfold State.onSeq; split <;> rfl
@[simp] theorem State.onSeq_nextId (x : State) (f : Seq → Seq) : (x.onSeq f).nextId = x.nextId := by
  unfold State.onSeq; split <;> rfl
@[simp] theorem State.onSeq_free (x : State) (f : Seq → Seq) : (x.onSeq f).free = x.free := by
  unfold State.onSeq; split <;> rfl

/-! ### Looking up after an update -/

theorem State.wg?_updWg (x : State) (k j : Nat) (f : Wg → Wg) :
    (x.updWg k f).wg? j = if j = k then (x.wg? j).map f else x.wg? j := Tab.find_upd _ _ _ _

theorem State.wg?_updQuad (x : State) (k q j : Nat) (f : Quad → Quad) :
    (x.updQuad k q f).wg? j = if j = k then (x.wg? j).map (fun w => w.updQuad q f) else x.wg? j := Tab.find_upd _ _ _ _

/-- The quad that an update names, and no other, is changed. -/
theorem State.quad?_updQuad (x : State) (k q j r : Nat) (f : Quad → Quad) :
    (x.updQuad k q f).quad? j r = if j = k ∧ r = q then (x.quad? j r).map f else x.quad? j r := by
  simp only [State.quad?, State.updQuad_wgs, Tab.find_upd]
  by_cases hj : j = k
  · subst hj
    cases x.wgs.find j with
    | none => simp
    | some w =>
      simp only [if_true, Option.map_some, Option.bind_some, Wg.updQuad_quads, Tab.find_upd, true_and]
  · simp [hj]

theorem State.find_launch (x : State) (f : Flight) (id : Nat) :
    (x.launch f).flights.find id = if id = x.nextId then some f else x.flights.find id := Tab.find_put _ _ _ _

theorem State.find_updFlight (x : State) (id n : Nat) (f : Flight → Flight) :
    (x.updFlight id f).flights.find n = if n = id then (x.flights.find n).map f else x.flights.find n := Tab.find_upd _ _ _ _

/-! ### Registers -/

theorem Quad.reg_setReg (x : Quad) (l n m j : Nat) (v : Word) :
    (x.setReg l n v).reg m j = if m * 256 + x.phys j = l * 256 + x.phys n then v else x.reg m j := by
  unfold Quad.reg
  exact Tab.get_set 0 x.regs _ _ v

theorem Quad.pred_setPred_other (x : Quad) (l n m j : Nat) (b : Bool) (h : m ≠ l) :
    (x.setPred l n b).pred m j = x.pred m j := by
  unfold Quad.pred
  simp only [Quad.setPred_preds, Tab.get_set, h, if_false]

theorem Seq.reg_setReg (x : Seq) (n m : Nat) (v : W64) : (x.setReg n v).reg m = if m = n then v else x.reg m := by
  unfold Seq.reg
  exact Tab.get_set 0 x.k n m v

/-- The registers after a write of one register in several lanes: lanes below 4, each value computed before. -/
theorem Quad.get_writeLanes (x : Quad) (ls : List Nat) (d p : Nat) (f : Nat → Word) :
    Tab.get 0 (x.writeLanes ls d f).regs p =
      (ls.reverse.find? (fun l => p == l * 256 + x.phys d)).elim (Tab.get 0 x.regs p) f := by
  unfold Quad.writeLanes
  induction ls generalizing x with
  | nil => rfl
  | cons l r ih =>
    rw [List.foldl_cons, ih]
    have hp : (x.setReg l d (f l)).phys d = x.phys d := rfl
    rw [hp, List.reverse_cons, List.find?_append]
    cases hf : r.reverse.find? (fun l => p == l * 256 + x.phys d) with
    | some j => simp
    | none =>
      simp only [Option.elim_none, Option.none_or, List.find?_cons, List.find?_nil, Quad.setReg_regs, Tab.get_set]
      by_cases h : p = l * 256 + x.phys d
      · simp [h]
      · rw [if_neg h, beq_false_of_ne h]; rfl

end Sys2Proof.Machine
end

