-- ==== Sys2Proof/Laws/Access.lean ====
section
/-!
SUPPORT. What issuing a memory operation does when no lane meets a fault, and the line accesses of lane accesses.
-/
namespace Sys2Proof
namespace Machine

theorem State.issuer_eq {s : State} {k q : Nat} {w : Wg} {x : Quad} (h : s.Issues k q w x) : s.issuer = some ⟨k, q, w, x⟩ := by
  simp only [State.issuer, h.focus, h.wg, h.quad, Option.map_some]

theorem raiseLanes_nil (s t : State) (i : Issue) : s.raiseLanes t i [] = t := rfl

/-- The line accesses of an instruction's routes. -/
def State.partsOf (s : State) (i : Issue) (packet : Option W64) (as : List Access) : Tab Part :=
  s.named i packet (linesOf (s.partOf i.w.tenant (dieOf i.k)) as)

/-- Issuing routes that meet no fault enters one operation. -/
theorem State.issueRoutes_clean (s : State) (i : Issue) (job : Job) (scope : Option Nat) (as : List Access)
    (dst size la words queue : Nat) (pending : Bool) (packet : Option W64) (hne : as ≠ [])
    (hc : ∀ a ∈ as, CleanAt s i.w job.kind scope a)
    (hstray : ∀ a ∈ as, s.atomicStray i job a = false)
    (hroom : s.room i job (s.partsOf i packet as) = true) :
    s.issueRoutes i job scope as [] dst size la words queue pending packet =
      s.enter i job dst size la words queue (as.map (·.key)) (s.partsOf i packet as) pending := by
  unfold State.partsOf at hroom ⊢
  have hbad : as.filter (fun a => a.addr.toNat % a.size != 0) = [] := by
    rw [List.filter_eq_nil_iff]
    intro a ha
    simp [(hc a ha).1]
  have hgood : as.filter (fun a => a.addr.toNat % a.size == 0) = as := by
    rw [List.filter_eq_self]
    intro a ha
    simp [(hc a ha).1]
  have hpath : as.filter (fun a =>
      (s.level0 i.w.tenant job.kind scope a.addr).toOption.isNone || s.atomicStray i job a) = [] := by
    rw [List.filter_eq_nil_iff]
    intro a ha
    obtain ⟨e, he⟩ := (hc a ha).2.1
    rw [he, hstray a ha]
    simp [Except.toOption]
  have hhost : as.filter (fun a => hostBad a.addr) = [] := by
    rw [List.filter_eq_nil_iff]
    intro a ha
    simp [(hc a ha).2.2]
  have hgo : as.filter (fun a => !hostBad a.addr && !([] : List LaneFault).any (fun f => f.1 == a.key)) = as := by
    rw [List.filter_eq_self]
    intro a ha
    simp [(hc a ha).2.2]
  unfold State.issueRoutes
  simp only [hbad, hgood, hpath, hhost, hgo, List.map_nil, List.append_nil, List.find?_nil, hroom, Bool.not_true,
    Bool.false_eq_true, if_false]
  have hf : lanes.filterMap (fun _ => (none : Option LaneFault)) = [] := rfl
  rw [hf, raiseLanes_nil]
  cases as with
  | nil => exact absurd rfl hne
  | cons a r => rfl

/-! ### Line accesses -/

/-- What the line accesses of a list of lane accesses satisfy while they are built. -/
structure Building (mk : Access → Part) (ps : Tab Part) (as : List Access) : Prop where
  cover : CoversLines ps as
  keys : ps.map (·.1) = List.range ps.length
  place : ∀ e ∈ ps, ∀ a ∈ e.2.accs, (mk a).place = e.2.place

/-- The line of a part is that of each of its accesses. -/
theorem CoversLines.line_eq {ps : Tab Part} {as : List Access} (c : CoversLines ps as) {e : Nat × Part}
    (he : e ∈ ps) {b : Access} (hb : b ∈ e.2.accs) : lineIn e.2.place b.addr = e.2.line := by
  unfold Part.line
  refine c.oneLine e he b hb _ ?_
  cases h : e.2.accs with
  | nil => rw [h] at hb; exact absurd hb (by simp)
  | cons z r => exact List.mem_cons_self ..

/-- An access joins the line access found for it. -/
theorem Building.joins {mk : Access → Part} {ps : Tab Part} {as : List Access} (h : Building mk ps as)
    (a : Access) (i : Nat) (t : Part) (hm : (i, t) ∈ ps) (hpl : t.place = (mk a).place) (hln : t.line = lineIn (mk a).place a.addr) :
    Building mk (ps.upd i (fun t => { t with accs := t.accs ++ [a] })) (as ++ [a]) := by
  obtain ⟨c, hk, hp⟩ := h
  have hnd : (ps.map (·.1)).Nodup := by rw [hk]; exact List.nodup_range
  have hu : ∀ v, (i, v) ∈ ps → v = t := fun v hv => Tab.one_entry ps i v t hnd hv hm
  have hmem := fun e => Tab.mem_upd ps i (fun t => { t with accs := t.accs ++ [a] }) e hnd
  have hline : ∀ z ∈ t.accs ++ [a], lineIn t.place z.addr = t.line := by
    intro z hz
    rcases List.mem_append.1 hz with hz | hz
    · exact c.line_eq hm hz
    · rw [List.mem_singleton.1 hz, hpl, ← hln]
  refine ⟨⟨?_, ?_, ?_, ?_, ?_⟩, ?_, ?_⟩
  · intro b hb
    rcases List.mem_append.1 hb with hb | hb
    · obtain ⟨e, he, hbe⟩ := c.every b hb
      by_cases hei : e.1 = i
      · obtain ⟨j, v⟩ := e
        subst hei
        have := hu v he
        subst this
        exact ⟨_, (hmem _).2 (Or.inr ⟨v, he, rfl⟩), List.mem_append_left _ hbe⟩
      · exact ⟨e, (hmem _).2 (Or.inl ⟨he, hei⟩), hbe⟩
    · rw [List.mem_singleton] at hb
      subst hb
      exact ⟨_, (hmem _).2 (Or.inr ⟨t, hm, rfl⟩), List.mem_append_right _ (List.mem_singleton.2 rfl)⟩
  · intro e he b hb
    rcases (hmem e).1 he with ⟨he, _⟩ | ⟨v, hv, rfl⟩
    · exact List.mem_append_left _ (c.only e he b hb)
    · rcases List.mem_append.1 hb with hb | hb
      · exact List.mem_append_left _ (c.only _ hv b hb)
      · exact List.mem_append_right _ hb
  · intro e he b hb d hd
    rcases (hmem e).1 he with ⟨he, _⟩ | ⟨v, hv, rfl⟩
    · exact c.oneLine e he b hb d hd
    · have := hu v hv
      subst this
      exact (hline b hb).trans (hline d hd).symm
  · intro e he f hf' hne' hpl' b hb d hd
    have c' := c.distinct
    have old : ∀ g ∈ ps, g.1 ≠ i → g.2.place = t.place → ∀ z ∈ g.2.accs, lineIn g.2.place z.addr ≠ t.line := by
      intro g hg hgi hgp z hz
      cases hta : t.accs with
      | nil => exact absurd hta (c.flying _ hm).2
      | cons y r =>
        have hy : y ∈ t.accs := by rw [hta]; exact List.mem_cons_self ..
        rw [← c.line_eq hm hy]
        exact c' g hg _ hm hgi hgp z hz y hy
    rcases (hmem e).1 he with ⟨he, hei⟩ | ⟨v, hv, rfl⟩ <;> rcases (hmem f).1 hf' with ⟨hf', hfi⟩ | ⟨v', hv', rfl⟩
    · exact c' e he f hf' hne' hpl' b hb d hd
    · have := hu v' hv'
      subst this
      rw [hline d hd]
      exact old e he hei hpl' b hb
    · have := hu v hv
      subst this
      rw [hline b hb]
      exact (old f hf' hfi hpl'.symm d hd).symm
    · exact absurd rfl hne'
  · intro e he
    rcases (hmem e).1 he with ⟨he, _⟩ | ⟨v, hv, rfl⟩
    · exact c.flying e he
    · exact ⟨(c.flying _ hv).1, by simp⟩
  · rw [Tab.keys_upd, hk]
    congr 1
    have := congrArg List.length (Tab.keys_upd ps i (fun t => { t with accs := t.accs ++ [a] }))
    simpa using this.symm
  · intro e he b hb
    rcases (hmem e).1 he with ⟨he, _⟩ | ⟨v, hv, rfl⟩
    · exact hp e he b hb
    · have := hu v hv
      subst this
      rcases List.mem_append.1 hb with hb | hb
      · exact hp _ hv b hb
      · rw [List.mem_singleton.1 hb]; exact hpl.symm

/-- An access opens a line access `n` of its own; no other of its place has its line. -/
theorem Building.opens {mk : Access → Part} {ps : Tab Part} {as : List Access} (h : Building mk ps as)
    (a : Access) (n : Part) (hn : n.accs = [a]) (hst : n.st = .flying) (hpl : n.place = (mk a).place)
    (far : ∀ e ∈ ps, e.2.place = n.place → ∀ b ∈ e.2.accs, lineIn e.2.place b.addr ≠ lineIn n.place a.addr) :
    Building mk (ps.put ps.length n) (as ++ [a]) := by
  obtain ⟨c, hk, hp⟩ := h
  have hlt : ∀ e ∈ ps, e.1 < ps.length := by
    intro e he
    have : e.1 ∈ ps.map (·.1) := List.mem_map.2 ⟨e, he, rfl⟩
    rw [hk] at this
    exact List.mem_range.1 this
  rw [Tab.put_above ps _ _ hlt]
  refine ⟨⟨?_, ?_, ?_, ?_, ?_⟩, ?_, ?_⟩
  · intro b hb
    rcases List.mem_append.1 hb with hb | hb
    · obtain ⟨e, he, hbe⟩ := c.every b hb
      exact ⟨e, List.mem_append_left _ he, hbe⟩
    · exact ⟨_, List.mem_append_right _ (List.mem_singleton.2 rfl), by rw [hn]; exact hb⟩
  · intro e he b hb
    rcases List.mem_append.1 he with he | he
    · exact List.mem_append_left _ (c.only e he b hb)
    · rw [List.mem_singleton.1 he, hn] at hb
      exact List.mem_append_right _ hb
  · intro e he b hb d hd
    rcases List.mem_append.1 he with he | he
    · exact c.oneLine e he b hb d hd
    · rw [List.mem_singleton.1 he, hn] at hb hd
      rw [List.mem_singleton.1 hb, List.mem_singleton.1 hd]
  · intro e he f hf' hne' hpl' b hb d hd
    rcases List.mem_append.1 he with he | he <;> rcases List.mem_append.1 hf' with hf' | hf'
    · exact c.distinct e he f hf' hne' hpl' b hb d hd
    · rw [List.mem_singleton.1 hf'] at hd hpl' ⊢
      simp only [hn, List.mem_singleton] at hd
      rw [hd]
      exact far e he hpl' b hb
    · rw [List.mem_singleton.1 he] at hb hpl' ⊢
      simp only [hn, List.mem_singleton] at hb
      rw [hb]
      exact (far f hf' hpl'.symm d hd).symm
    · rw [List.mem_singleton.1 he, List.mem_singleton.1 hf'] at hne'
      exact absurd rfl hne'
  · intro e he
    rcases List.mem_append.1 he with he | he
    · exact c.flying e he
    · rw [List.mem_singleton.1 he]
      exact ⟨hst, by rw [hn]; simp⟩
  · rw [List.map_append, hk, List.length_append]
    exact List.range_succ.symm
  · intro e he b hb
    rcases List.mem_append.1 he with he | he
    · exact hp e he b hb
    · rw [List.mem_singleton.1 he] at hb ⊢
      simp only [hn, List.mem_singleton] at hb
      rw [hb, hpl]

theorem Building.step {mk : Access → Part} {ps : Tab Part} {as : List Access} (h : Building mk ps as) (a : Access)
    (hmk : (mk a).accs = [a]) (hst : (mk a).st = .flying) :
    Building mk (addAccess ps mk a) (as ++ [a]) := by
  have hpln : (mk a).line = lineIn (mk a).place a.addr := by unfold Part.line; rw [hmk]; rfl
  unfold addAccess
  simp only
  split
  · next i t hf =>
    have hm := List.find?_some hf
    simp only [Bool.and_eq_true, beq_iff_eq] at hm
    exact h.joins a i t (List.mem_of_find?_eq_some hf) hm.1 (hm.2.trans hpln)
  · next hf =>
    rw [List.find?_eq_none] at hf
    refine h.opens a _ hmk hst rfl ?_
    intro e he hpl b hb heq
    refine hf e he ?_
    simp only [Bool.and_eq_true, beq_iff_eq]
    exact ⟨hpl, by rw [← h.cover.line_eq he hb, hpln]; exact heq⟩

theorem building_foldl {mk : Access → Part} (as : List Access) (hmk : ∀ a, (mk a).accs = [a])
    (hst : ∀ a, (mk a).st = .flying)
    {ps : Tab Part} {bs : List Access} (h : Building mk ps bs) :
    Building mk (as.foldl (fun ps a => addAccess ps mk a) ps) (bs ++ as) := by
  induction as generalizing ps bs with
  | nil => simpa using h
  | cons a r ih =>
    have := ih (h.step a (hmk a) (hst a))
    rwa [List.append_assoc] at this

/-- The line accesses of lane accesses: one for each line touched (R232). -/
theorem linesOf_covers (mk : Access → Part) (as : List Access) (hmk : ∀ a, (mk a).accs = [a])
    (hst : ∀ a, (mk a).st = .flying) : CoversLines (linesOf mk as) as := by
  have h0 : Building mk [] [] := ⟨⟨by simp, by simp, by simp, by simp, by simp⟩, rfl, by simp⟩
  have := (building_foldl as hmk hst h0).cover
  rwa [List.nil_append] at this

/-- Naming line accesses changes neither their accesses nor their places. -/
theorem State.named_covers (s : State) (i : Issue) (packet : Option W64) {ps : Tab Part} {as : List Access}
    (h : CoversLines ps as) : CoversLines (s.named i packet ps) as := by
  have hm : ∀ e ∈ s.named i packet ps, ∃ e' ∈ ps, e'.1 = e.1 ∧ e'.2.accs = e.2.accs ∧ e'.2.place = e.2.place ∧ e'.2.st = e.2.st := by
    intro e he
    obtain ⟨e', he', rfl⟩ := List.mem_map.1 he
    exact ⟨e', he', rfl, rfl, rfl, rfl⟩
  refine ⟨?_, ?_, ?_, ?_, ?_⟩
  · intro a ha
    obtain ⟨e, he, hae⟩ := h.every a ha
    exact ⟨_, List.mem_map.2 ⟨e, he, rfl⟩, hae⟩
  · intro e he a ha
    obtain ⟨e', he', _, ha', _⟩ := hm e he
    exact h.only e' he' a (by rw [ha']; exact ha)
  · intro e he a ha b hb
    obtain ⟨e', he', _, ha', hp', _⟩ := hm e he
    rw [← hp']
    exact h.oneLine e' he' a (by rw [ha']; exact ha) b (by rw [ha']; exact hb)
  · intro e he f hf hne hpl a ha b hb
    obtain ⟨e', he', hk', ha', hp', _⟩ := hm e he
    obtain ⟨f', hf', hfk', hfa', hfp', _⟩ := hm f hf
    rw [← hp', ← hfp']
    exact h.distinct e' he' f' hf' (by rw [hk', hfk']; exact hne) (by rw [hp', hfp']; exact hpl) a (by rw [ha']; exact ha) b (by rw [hfa']; exact hb)
  · intro e he
    obtain ⟨e', he', _, ha', _, hs'⟩ := hm e he
    have := h.flying e' he'
    rw [hs', ha'] at this
    exact this

/-- An operation that is entered. -/
theorem State.enter_entered {s : State} {k q : Nat} {w : Wg} {x : Quad} (h : s.Issues k q w x) (job : Job) (as : List Access)
    (dst size la words queue : Nat) (ps : Tab Part) (pending : Bool) (hps : CoversLines ps as) :
    Entered s (s.enter ⟨k, q, w, x⟩ job dst size la words queue (as.map (·.key)) ps pending) k q w x job as dst size words
      (if pending then some la else none) job.counted := by
  have hq : s.quad? k q = some x := by
    simp only [State.quad?]
    have := h.wg
    simp only [State.wg?] at this
    rw [this]
    exact h.quad
  let f : Flight := ⟨w.uid, .quad k q, queue, job, w.tenant, dieOf k, x.cl, x.sup, x.phys dst, size, maskOf (as.map (·.key)), ps,
    [], job.isStore⟩
  refine ⟨⟨f, ?_, rfl, rfl, rfl, rfl, rfl, rfl, rfl, rfl, rfl, rfl, hps, ?_⟩, ?_, ?_, ?_⟩
  · simp only [State.enter, State.updQuad_flights, State.find_launch, if_true, f]
  · refine ⟨_, ?_, rfl⟩
    simp only [State.enter, State.quad?_updQuad, and_self, if_true]
    have hl : ∀ f : Flight, (s.launch f).quad? k q = s.quad? k q := fun _ => rfl
    rw [hl, hq, Option.map_some]
    cases hj : job.counted <;> cases pending <;> simp [Quad.advance, Quad.count, f]
  · intro id hid
    simp only [State.enter, State.updQuad_flights, State.find_launch, if_neg hid]
  · intro k' q' hne
    simp only [State.enter, State.quad?_updQuad]
    have hl : ∀ f : Flight, (s.launch f).quad? k' q' = s.quad? k' q' := fun _ => rfl
    rw [hl, if_neg (by rintro ⟨rfl, rfl⟩; rcases hne with h | h <;> exact h rfl)]
  · rfl

/-- An instruction whose lanes meet no fault issues one operation (R226, R232). -/
theorem State.issueRoutes_entered {s : State} {k q : Nat} {w : Wg} {x : Quad} (h : s.Issues k q w x) (job : Job)
    (scope : Option Nat) (as : List Access) (dst size la words queue : Nat) (pending : Bool) (packet : Option W64) (hne : as ≠ [])
    (hc : ∀ a ∈ as, CleanAt s w job.kind scope a)
    (hstray : ∀ a ∈ as, s.atomicStray ⟨k, q, w, x⟩ job a = false)
    (hroom : s.room ⟨k, q, w, x⟩ job (s.partsOf ⟨k, q, w, x⟩ packet as) = true) :
    Entered s (s.issueRoutes ⟨k, q, w, x⟩ job scope as [] dst size la words queue pending packet) k q w x job as dst size words
      (if pending then some la else none) job.counted := by
  rw [State.issueRoutes_clean s ⟨k, q, w, x⟩ job scope as dst size la words queue pending packet hne hc hstray hroom]
  exact State.enter_entered h job as dst size la words queue _ pending
    (s.named_covers _ packet (linesOf_covers _ _ (fun _ => rfl) (fun _ => rfl)))

theorem addAccess_length (ps : Tab Part) (mk : Access → Part) (a : Access) :
    (addAccess ps mk a).length ≤ ps.length + 1 := by
  unfold addAccess
  simp only
  split
  · next i t _ =>
    have := congrArg List.length (Tab.keys_upd ps i (fun t => { t with accs := t.accs ++ [a] }))
    simp only [List.length_map] at this
    omega
  · have : ∀ (t : Tab Part) (k : Nat) (v : Part), (t.put k v).length ≤ t.length + 1 := by
      intro t k v
      induction t with
      | nil => simp [Tab.put]
      | cons e r ih =>
        obtain ⟨j, w⟩ := e
        simp only [Tab.put]
        split
        · simp
        · split
          · simp
          · simp only [List.length_cons]; omega
    exact this _ _ _

/-- There are no more line accesses than lane accesses. -/
theorem linesOf_length (mk : Access → Part) (as : List Access) : (linesOf mk as).length ≤ as.length := by
  have : ∀ (as : List Access) (ps : Tab Part), (as.foldl (fun ps a => addAccess ps mk a) ps).length ≤ ps.length + as.length := by
    intro as
    induction as with
    | nil => intro ps; simp
    | cons a r ih =>
      intro ps
      have h1 := ih (addAccess ps mk a)
      have h2 := addAccess_length ps mk a
      simp only [List.foldl_cons, List.length_cons]
      omega
  simpa [linesOf] using this as []

/-! ### Updates of line accesses and of operations: all else stays -/

/-- Changing line accesses changes the operations in flight alone. -/
theorem State.updParts_flights (s : State) (ms : List (Nat × Nat)) (g : Part → Part) :
    s.updParts ms g = { s with flights := (s.updParts ms g).flights } := by
  induction ms generalizing s with
  | nil => rfl
  | cons m ms ih => exact ih (s.updPart m.1 m.2 g)

@[simp] theorem State.updParts_mem (s : State) (ms : List (Nat × Nat)) (g : Part → Part) : (s.updParts ms g).mem = s.mem := by
  rw [s.updParts_flights]
@[simp] theorem State.updParts_cache (s : State) (ms : List (Nat × Nat)) (g : Part → Part) : (s.updParts ms g).cache = s.cache := by
  rw [s.updParts_flights]
@[simp] theorem State.updParts_poison (s : State) (ms : List (Nat × Nat)) (g : Part → Part) : (s.updParts ms g).poison = s.poison := by
  rw [s.updParts_flights]
@[simp] theorem State.updParts_tab (s : State) (ms : List (Nat × Nat)) (g : Part → Part) : (s.updParts ms g).tab = s.tab := by
  rw [s.updParts_flights]
@[simp] theorem State.updParts_host (s : State) (ms : List (Nat × Nat)) (g : Part → Part) : (s.updParts ms g).host = s.host := by
  rw [s.updParts_flights]
@[simp] theorem State.updParts_fab (s : State) (ms : List (Nat × Nat)) (g : Part → Part) : (s.updParts ms g).fab = s.fab := by
  rw [s.updParts_flights]
@[simp] theorem State.updParts_sched (s : State) (ms : List (Nat × Nat)) (g : Part → Part) : (s.updParts ms g).sched = s.sched := by
  rw [s.updParts_flights]
@[simp] theorem State.updParts_itin (s : State) (ms : List (Nat × Nat)) (g : Part → Part) : (s.updParts ms g).itin = s.itin := by
  rw [s.updParts_flights]
@[simp] theorem State.updParts_wgs (s : State) (ms : List (Nat × Nat)) (g : Part → Part) : (s.updParts ms g).wgs = s.wgs := by
  rw [s.updParts_flights]
@[simp] theorem State.updParts_agenda (s : State) (ms : List (Nat × Nat)) (g : Part → Part) : (s.updParts ms g).agenda = s.agenda := by
  rw [s.updParts_flights]
@[simp] theorem State.updParts_focus (s : State) (ms : List (Nat × Nat)) (g : Part → Part) : (s.updParts ms g).focus = s.focus := by
  rw [s.updParts_flights]
@[simp] theorem State.updParts_nextId (s : State) (ms : List (Nat × Nat)) (g : Part → Part) : (s.updParts ms g).nextId = s.nextId := by
  rw [s.updParts_flights]
@[simp] theorem State.updParts_free (s : State) (ms : List (Nat × Nat)) (g : Part → Part) : (s.updParts ms g).free = s.free := by
  rw [s.updParts_flights]

@[simp] theorem State.abandon_mem (s : State) (given : Flight → Bool) : (s.abandon given).mem = s.mem := rfl
@[simp] theorem State.abandon_cache (s : State) (given : Flight → Bool) : (s.abandon given).cache = s.cache := rfl
@[simp] theorem State.abandon_poison (s : State) (given : Flight → Bool) : (s.abandon given).poison = s.poison := rfl
@[simp] theorem State.abandon_tab (s : State) (given : Flight → Bool) : (s.abandon given).tab = s.tab := rfl
@[simp] theorem State.abandon_host (s : State) (given : Flight → Bool) : (s.abandon given).host = s.host := rfl
@[simp] theorem State.abandon_fab (s : State) (given : Flight → Bool) : (s.abandon given).fab = s.fab := rfl
@[simp] theorem State.abandon_sched (s : State) (given : Flight → Bool) : (s.abandon given).sched = s.sched := rfl
@[simp] theorem State.abandon_itin (s : State) (given : Flight → Bool) : (s.abandon given).itin = s.itin := rfl
@[simp] theorem State.abandon_wgs (s : State) (given : Flight → Bool) : (s.abandon given).wgs = s.wgs := rfl
@[simp] theorem State.abandon_agenda (s : State) (given : Flight → Bool) : (s.abandon given).agenda = s.agenda := rfl
@[simp] theorem State.abandon_focus (s : State) (given : Flight → Bool) : (s.abandon given).focus = s.focus := rfl
@[simp] theorem State.abandon_nextId (s : State) (given : Flight → Bool) : (s.abandon given).nextId = s.nextId := rfl
@[simp] theorem State.abandon_free (s : State) (given : Flight → Bool) : (s.abandon given).free = s.free := rfl

/-- An operation that is not given up stays in flight as it is. -/
theorem State.mem_abandon {s : State} {given : Flight → Bool} {e : Nat × Flight} (h : e ∈ s.flights) (k : given e.2 = false) :
    e ∈ (s.abandon given).flights :=
  List.mem_filterMap.2 ⟨e, h, by simp [k]⟩

end Machine
end Sys2Proof
end

