-- ==== Sys2Proof/Laws/Memory.lean ====
section
/-!
SUPPORT. The laws of memory: a read after a write, and the canonical form that every operation keeps.
-/
namespace Sys2Proof

/-- Every listed address is above `a`. -/
def Memory.above (m : Memory) (a : Nat) : Prop := ∀ c ∈ m, a < c.1

theorem Memory.wf_cons (a : Nat) (v : Byte) (r : Memory) :
    Memory.wf ((a, v) :: r) = true ↔ v ≠ Memory.unlisted ∧ Memory.above r a ∧ Memory.wf r = true := by
  induction r generalizing a v with
  | nil => simp [Memory.wf, Memory.above]
  | cons e r ih =>
    obtain ⟨b, w⟩ := e
    simp only [Memory.wf, Bool.and_eq_true, bne_iff_ne, ne_eq, decide_eq_true_eq]
    constructor
    · rintro ⟨⟨hv, hab⟩, h⟩
      refine ⟨hv, ?_, h⟩
      intro c hc
      rcases List.mem_cons.1 hc with rfl | hc
      · exact hab
      · exact Nat.lt_trans hab (((ih b w).1 h).2.1 c hc)
    · rintro ⟨hv, ha, h⟩
      exact ⟨⟨hv, ha (b, w) (List.mem_cons_self ..)⟩, h⟩

theorem Memory.read_above (m : Memory) (a : Nat) (h : Memory.above m a) : m.read a = Memory.unlisted := by
  induction m with
  | nil => rfl
  | cons e r ih =>
    obtain ⟨b, v⟩ := e
    have hb : a < b := h (b, v) (List.mem_cons_self ..)
    have hne : b ≠ a := by omega
    simp only [Memory.read, hne, if_false]
    exact ih (fun c hc => h c (List.mem_cons_of_mem _ hc))

theorem Memory.above_write (m : Memory) (a b : Nat) (v : Byte) (h : Memory.above m b) (hb : b < a) :
    Memory.above (m.write a v) b := by
  induction m with
  | nil =>
    simp only [Memory.write]
    split
    · exact h
    · intro c hc; simp only [List.mem_singleton] at hc; subst hc; exact hb
  | cons e r ih =>
    obtain ⟨d, w⟩ := e
    have hr : Memory.above r b := fun c hc => h c (List.mem_cons_of_mem _ hc)
    have hd : b < d := h (d, w) (List.mem_cons_self ..)
    simp only [Memory.write]
    split
    · split
      · exact hr
      · intro c hc
        rcases List.mem_cons.1 hc with rfl | hc
        · exact hb
        · exact hr c hc
    · split
      · split
        · exact h
        · intro c hc
          rcases List.mem_cons.1 hc with rfl | hc
          · exact hb
          · exact h c hc
      · intro c hc
        rcases List.mem_cons.1 hc with rfl | hc
        · exact hd
        · exact ih hr c hc

/-- A write keeps the canonical form. -/
theorem Memory.wf_write (m : Memory) (a : Nat) (v : Byte) (h : m.wf = true) : (m.write a v).wf = true := by
  induction m with
  | nil =>
    simp only [Memory.write]
    split
    · rfl
    · next hv => simp [Memory.wf, hv]
  | cons e r ih =>
    obtain ⟨b, w⟩ := e
    obtain ⟨hw, hb, hr⟩ := (Memory.wf_cons b w r).1 h
    simp only [Memory.write]
    split
    · next hba =>
      subst hba
      split
      · exact hr
      · next hv => exact (Memory.wf_cons b v r).2 ⟨hv, hb, hr⟩
    · next hba =>
      split
      · next hab =>
        split
        · exact h
        · next hv =>
          refine (Memory.wf_cons a v ((b, w) :: r)).2 ⟨hv, ?_, h⟩
          intro c hc
          rcases List.mem_cons.1 hc with rfl | hc
          · exact hab
          · exact Nat.lt_trans hab (hb c hc)
      · exact (Memory.wf_cons b w _).2 ⟨hw, Memory.above_write r a b v hb (by omega), ih hr⟩

/-- A read after a write. -/
theorem Memory.read_write (m : Memory) (a b : Nat) (v : Byte) (h : m.wf = true) :
    (m.write a v).read b = if b = a then v else m.read b := by
  induction m with
  | nil =>
    simp only [Memory.write]
    split
    · next hv => by_cases hb : b = a <;> simp [Memory.read, hb, hv]
    · by_cases hb : b = a
      · simp [Memory.read, hb]
      · simp [Memory.read, hb, Ne.symm hb]
  | cons e r ih =>
    obtain ⟨d, w⟩ := e
    obtain ⟨hw, hd, hr⟩ := (Memory.wf_cons d w r).1 h
    simp only [Memory.write]
    split
    · next hda =>
      subst hda
      split
      · next hv =>
        by_cases hb : b = d
        · subst hb; simp [Memory.read_above r b hd, hv]
        · simp [Memory.read, hb, Ne.symm hb]
      · by_cases hb : b = d
        · simp [Memory.read, hb]
        · simp [Memory.read, hb, Ne.symm hb]
    · next hda =>
      split
      · next had =>
        have hab : Memory.above ((d, w) :: r) a := by
          intro c hc
          rcases List.mem_cons.1 hc with rfl | hc
          · exact had
          · exact Nat.lt_trans had (hd c hc)
        split
        · next hv =>
          by_cases hb : b = a
          · subst hb; simp [Memory.read_above _ b hab, hv]
          · simp [hb]
        · by_cases hb : b = a
          · simp [Memory.read, hb]
          · simp [Memory.read, hb, Ne.symm hb]
      · simp only [Memory.read, ih hr]
        by_cases hb : d = b
        · subst hb; simp [hda]
        · simp [hb]

theorem Memory.wf_writeN (m : Memory) (a n x : Nat) (h : m.wf = true) : (m.writeN a n x).wf = true := by
  induction n generalizing m a x with
  | zero => exact h
  | succ n ih => exact ih _ _ _ (Memory.wf_write m a _ h)

/-- A write of `n` bytes leaves every other byte alone. -/
theorem Memory.read_writeN_other (m : Memory) (a n x b : Nat) (h : m.wf = true) (hb : b < a ∨ a + n ≤ b) :
    (m.writeN a n x).read b = m.read b := by
  induction n generalizing m a x with
  | zero => rfl
  | succ n ih =>
    rw [Memory.writeN, ih _ _ _ (Memory.wf_write m a _ h) (by omega), Memory.read_write m a b _ h, if_neg (by omega)]

/-- A read of `n` bytes after a write of the same bytes. -/
theorem Memory.readN_writeN_same (m : Memory) (a n x : Nat) (h : m.wf = true) :
    (m.writeN a n x).readN a n = x % 2 ^ (8 * n) := by
  induction n generalizing m a x with
  | zero => simp [Memory.readN, Nat.mod_one]
  | succ n ih =>
    have hw := Memory.wf_write m a (BitVec.ofNat 8 x) h
    rw [Memory.readN, Memory.writeN, ih _ _ _ hw, Memory.read_writeN_other _ _ _ _ _ hw (by omega),
      Memory.read_write m a a _ h, if_pos rfl, BitVec.toNat_ofNat]
    have he : 2 ^ (8 * (n + 1)) = 2 ^ 8 * 2 ^ (8 * n) := by rw [← Nat.pow_add, Nat.mul_succ, Nat.add_comm]
    rw [he]
    exact (Nat.mod_mul (x := x) (a := 2 ^ 8) (b := 2 ^ (8 * n))).symm

theorem Memory.wf_filter (m : Memory) (p : Host.Cell → Bool) (h : m.wf = true) : Memory.wf (m.filter p) = true := by
  induction m with
  | nil => rfl
  | cons e r ih =>
    obtain ⟨b, w⟩ := e
    obtain ⟨hw, hb, hr⟩ := (Memory.wf_cons b w r).1 h
    rw [List.filter_cons]
    split
    · exact (Memory.wf_cons b w _).2 ⟨hw, fun c hc => hb c ((List.mem_filter.1 hc).1), ih hr⟩
    · exact ih hr

theorem Memory.wf_zero (m : Memory) (a n : Nat) (h : m.wf = true) : (m.zero a n).wf = true :=
  Memory.wf_filter m _ h

theorem Memory.wf_writeAll (m : Memory) (cs : List Host.Cell) (h : m.wf = true) : (m.writeAll cs).wf = true := by
  induction cs generalizing m with
  | nil => exact h
  | cons c r ih => exact ih _ (Memory.wf_write m c.1 c.2 h)

theorem Memory.wf_copy (m : Memory) (dst src n : Nat) (h : m.wf = true) : (m.copy dst src n).wf = true :=
  Memory.wf_writeAll _ _ (Memory.wf_zero m dst n h)

end Sys2Proof
end

