-- ==== Sys2Proof/Tests/Slice0.lean ====
section
/-!
SUPPORT. Tests: instructions that the checks refuse, words that the spec writes out, single steps with the results of the spec's
tables, and for every statement with hypotheses a state and operands that meet them.
-/
namespace Sys2Proof.Tests

open Sys2Proof
open Sys2Proof.Machine

/-! ### Instructions that the checks refuse -/

/-- Every check of the R format's fields: a pair, a group, a predicate, a zero field, a source of 63, a literal where none may
stand, and the guard (R54, R55, R57). -/
theorem test_r_fields_refused :
    [Instr.add64 ⟨9, 10, .reg 12, false, 31⟩, .add64 ⟨8, 11, .reg 12, false, 31⟩, .add64 ⟨8, 10, .reg 13, false, 31⟩,
     .pk4e4m3 ⟨8, 61, .reg 0, false, 31⟩, .pk4e4m3 ⟨8, 62, .reg 0, false, 31⟩, .upk16e2m3 ⟨50, 2, .reg 0, false, 31⟩,
     .pand ⟨24, 0, .reg 0, false, 31⟩, .pand ⟨0, 24, .reg 0, false, 31⟩, .pand ⟨0, 0, .reg 24, false, 31⟩,
     .popc ⟨1, 2, .reg 1, false, 31⟩, .popc ⟨1, 2, .lit 0, false, 31⟩, .mov ⟨1, 1, .reg 2, false, 31⟩,
     .iadd ⟨1, 2, .reg 63, false, 31⟩, .iadd ⟨1, 2, .reg 3, false, 24⟩, .iadd ⟨1, 2, .reg 3, false, 30⟩,
     .iadd ⟨1, 2, .reg 3, true, 31⟩, .nttbf ⟨8, 8, .reg 10, false, 31⟩].all (fun i => !i.wellFormed) = true := by decide

/-- The checks of the I, P, M, A and B formats (R58 to R62). -/
theorem test_other_formats_refused :
    [Instr.shli ⟨1, 2, 32⟩, .movi ⟨1, 1, 3⟩, .add64i ⟨1, 2, 0⟩, .add64i ⟨2, 1, 0⟩, .frnd ⟨1, 2, 4⟩, .cvt ⟨1, 2, 0x0E⟩, .cvt ⟨1, 2, 0xE0⟩,
     .cvt ⟨1, 2, 0x800⟩, .icmp ⟨24, 0, 0, 1, .reg 2⟩, .icmp ⟨1, 0, 0, 1, .reg 63⟩, .icmp64 ⟨1, 0, 0, 3, .reg 2⟩,
     .ld64 ⟨3, 2, 0, 0⟩, .ld32 ⟨3, 3, 0, 0⟩, .ld128 ⟨62, 2, 0, 0⟩, .lset ⟨1, 2, 0, 0⟩, .stn ⟨8, 2, 1, 0⟩, .rlq ⟨0, 2, 0, 1⟩,
     .aadd ⟨1, 3, 2, 0, 0⟩, .aadd ⟨1, 2, 2, 6, 0⟩, .ldaq ⟨1, 2, 0, 0, 2⟩, .strl ⟨1, 2, 0, 0, 1⟩, .ldaq ⟨1, 2, 1, 0, 0⟩, .aadd64 ⟨1, 2, 2, 0, 0⟩,
     .br ⟨0, false, 3, 0⟩, .brd ⟨0, false, 1, 0⟩, .br ⟨24, false, 0, 0⟩, .br ⟨31, true, 0, 0⟩].all (fun i => !i.wellFormed) = true := by decide

/-- The checks of the C, K and X formats (R63 to R65) and of ITSTAT (R357). -/
theorem test_control_fields_refused :
    [Instr.fence 6 0, .fence 0 3, .fencea 6 0, .fencea 2 1, .waitv 3 0 0, .jmpr 7, .call 0 4, .callr 0 6, .callr 4 7, .fork 9 63 2,
     .fork 8 9 2, .fork 8 63 3, .post 3 0 0 0, .post 2 0 1 0, .qfence 0, .csrr ⟨1, 1, 0⟩, .csrw ⟨1, 1, 0⟩, .itld ⟨1, 3, 0⟩, .itgo ⟨1, 2, 0⟩,
     .itstat ⟨5, 0, 0⟩, .itstat ⟨6, 0, 8⟩, .itstat ⟨6, 0, 0x200⟩, .itstat ⟨6, 0, 0x102⟩, .itstat ⟨6, 5, 0⟩, .rett 3, .mapx ⟨1, 2, 4⟩, .unmapx ⟨1, 2, 4⟩,
     .preempt ⟨1, 2, 1⟩, .ctxsv ⟨1, 3, 0⟩, .kmov ⟨1, 1, .k 0, 0⟩, .kadd ⟨1, 1, .k 0, 1⟩, .kcmp ⟨8, 1, .k 0, 0⟩, .kcmp ⟨1, 1, .k 0, 32⟩,
     .kld ⟨1, 1, .k 1, 0⟩, .kld ⟨1, 1, .lit 0, 0⟩, .kbara ⟨0, 0, .k 0, 16⟩, .tdef ⟨0, 1, .k 0, 64⟩, .acst ⟨1, 0, .lit 0, 0⟩, .aclr ⟨8, 0, .k 0, 0⟩,
     .lrdef ⟨1, 2, .k 0, 0⟩, .cpt ⟨8, 1, .k 0, 0⟩, .mma ⟨0, 4, 5, 4, 0, 0, 0, 1, 0, 3, 0, false, false⟩,
     .mma ⟨0, 4, 5, 4, 0, 0, 0, 1, 0, 1, 1, false, false⟩, .mmam ⟨0, 4, 5, 31, 0, 0, 0, 0, 0, 0, 0, false, false⟩].all
      (fun i => !i.wellFormed) = true := by decide

/-! ### Words that the spec writes out -/

/-- Do the words decode to the instruction, and to no shorter one? -/
def reads (e : List Word × Instr) : Bool :=
  match decode e.1 with
  | .ok (i, n) => i == e.2 && n == e.1.length && i.wellFormed
  | .error _ => false

/-- Words of the ALU class: Tables 2-3, 3-15 and 8-3, and the examples of 07_quad_compute. -/
theorem test_decode_alu_words :
    [([0x0108205F], .iadd ⟨2, 2, .reg 1, false, 31⟩), ([0x01144FDF, 1000], .iadd ⟨5, 4, .lit 1000, false, 31⟩),
     ([0x0358F25F], .imul ⟨22, 15, .reg 9, false, 31⟩), ([0x0E59619F], .shr ⟨22, 22, .reg 6, false, 31⟩),
     ([0x098A0CDF], .iand ⟨34, 32, .reg 51, false, 31⟩), ([0x0C82089F], .andn ⟨32, 32, .reg 34, false, 31⟩),
     ([0x19417583], .sel ⟨16, 23, .reg 22, false, 3⟩), ([0x1A100FDF, 0x00600080], .mov ⟨4, 0, .lit 0x00600080, false, 31⟩),
     ([0x1B50231F], .add64 ⟨20, 2, .reg 12, false, 31⟩), ([0x20041FFF], .iaddi ⟨1, 1, 0xFFF⟩), ([0x21144001], .andi ⟨5, 4, 1⟩),
     ([0x240C3007], .shli ⟨3, 3, 7⟩), ([0x258A200F], .shri ⟨34, 34, 15⟩), ([0x27306400], .add64i ⟨12, 6, 0x400⟩),
     ([0x28040003], .movi ⟨1, 0, 3⟩), ([0x300401FC, 0], .icmp ⟨0, 4, 0, 1, .lit 0⟩), ([0x300A5120], .icmp ⟨1, 2, 1, 17, .reg 8⟩),
     ([0x310908FC, 0], .icmp64 ⟨1, 1, 0, 8, .lit 0⟩), ([0x3800501F], .vtop ⟨0, 5, .reg 0, false, 31⟩),
     ([0x3710301F], .ptov ⟨4, 3, .reg 0, false, 31⟩), ([0x3B18701F], .vote ⟨6, 7, .reg 0, false, 31⟩),
     ([0x432092A3], .ffma ⟨8, 9, .reg 10, true, 3⟩), ([0x4F105002], .frnd ⟨4, 5, 2⟩), ([0x580C2132], .cvt ⟨3, 2, 0x132⟩),
     ([0x5D50C01F], .pk4e4m3 ⟨20, 12, .reg 0, false, 31⟩), ([0x6740201F], .vqdec ⟨16, 2, .reg 0, false, 31⟩),
     ([0x6A20A31F], .mulm64 ⟨8, 10, .reg 12, false, 31⟩), ([0x6B20A31F], .nttbf ⟨8, 10, .reg 12, false, 31⟩)].all reads = true := by decide

/-- Words of the MEM class: the examples of 10_memory_ops and 13_hamper. -/
theorem test_decode_mem_words :
    [([0x84102100], .ld32 ⟨4, 2, 0x10, 0⟩), ([0x85102012], .ld64 ⟨4, 2, 1, 2⟩), ([0x89142110], .st32 ⟨5, 2, 0x11, 0⟩),
     ([0x8ACB4000], .st64 ⟨50, 52, 0, 0⟩), ([0x8B40A020], .st128 ⟨16, 10, 2, 0⟩), ([0x8C1C2000], .sto ⟨7, 2, 0, 0⟩),
     ([0x8D102012], .ldaq ⟨4, 2, 0, 2, 1⟩), ([0x8E14201C], .strl ⟨5, 2, 0, 3, 2⟩), ([0x8F4943D8], .axchg ⟨18, 20, 15, 3, 0⟩),
     ([0x90202256], .acas ⟨8, 2, 9, 2, 3⟩), ([0x911821D8], .aadd ⟨6, 2, 7, 3, 0⟩), ([0x9920229A], .acas64 ⟨8, 2, 10, 3, 1⟩),
     ([0x9B10219F], .gld ⟨4, 2, .reg 6, false, 31⟩), ([0x9C102181], .gst ⟨4, 2, .reg 6, false, 1⟩),
     ([0x9D103020], .lds ⟨4, 3, 2, 0⟩), ([0x9E428000], .sts ⟨16, 40, 0, 0⟩), ([0xA0203020], .sts128 ⟨8, 3, 2, 0⟩),
     ([0xA1003010], .lset ⟨0, 3, 1, 0⟩), ([0xA2003000], .lclr ⟨0, 3, 0, 0⟩), ([0xA3105010], .ldp ⟨4, 5, 1, 0⟩), ([0xA4105000], .stp ⟨4, 5, 0, 0⟩),
     ([0xA720201F], .cpl16 ⟨8, 2, .reg 0, false, 31⟩), ([0xA8202001], .stn ⟨8, 2, 0, 1⟩), ([0xA9002000], .rlq ⟨0, 2, 0, 0⟩),
     ([0xAA700000], .fence 3 2), ([0xAB6A0000], .fencea 3 5), ([0xAB600000], .fencea 3 0), ([0xAC085200], .waitv 2 5 1),
     ([0xAD10601F], .hfree ⟨4, 6, .reg 0, false, 31⟩), ([0xAE00A11F], .itout ⟨0, 10, .reg 4, false, 31⟩),
     ([0xAF00011F], .itdone ⟨0, 0, .reg 4, false, 31⟩)].all reads = true := by decide

/-- Words of the CTRL and SYS classes: the examples of 03_encoding, 05_traps, 08_quad_control, 09_routes and 19_itinerary. -/
theorem test_decode_control_words :
    [([0xB002FFFB], .br ⟨0, false, 2, 0xFFFB⟩), ([0xB10C0013], .brd ⟨1, true, 0, 0x13⟩), ([0xB2000006], .join 6), ([0xB3180000], .jmpr 6),
     ([0xB420000C], .call 4 12), ([0xB5F86000], .callr 31 6), ([0xB6000000], .ret), ([0xB7050000], .regang 5), ([0xB8300000], .bara 3),
     ([0xB9300000], .barw 3), ([0xBA100000], .bars 1), ([0xBB070000], .cbars 7), ([0xBC28C380], .fork 10 12 14), ([0xBC2BF380], .fork 10 63 14),
     ([0xBD000000], .rdv), ([0xBE531B00], .post 20 3 6 3), ([0xBE500200], .post 20 0 0 2), ([0xBF000000], .exit), ([0xC0880000], .qfence 0x44),
     ([0xC1000F00], .idemb 0x000F), ([0xC2000000], .ideme), ([0xC3600000], .trap 3), ([0xC4100009], .csrr ⟨4, 0, 9⟩), ([0xC500300A], .csrw ⟨0, 3, 10⟩),
     ([0xC6108000], .itld ⟨4, 8, 0⟩), ([0xC7100000], .itgo ⟨4, 0, 0⟩), ([0xC8100000], .itstop ⟨4, 0, 0⟩), ([0xC9185101], .itstat ⟨6, 5, 0x101⟩),
     ([0xCA000000], .nop), ([0xCB000000], .yield), ([0xD0800000], .rett 2), ([0xD1280804], .scsrr ⟨10, 0, 0x804⟩), ([0xD200780B], .scsrw ⟨0, 7, 0x80B⟩),
     ([0xD3108180], .rtset ⟨4, 8, 6⟩), ([0xD4108180], .dmset ⟨4, 8, 6⟩), ([0xD5108180], .rgset ⟨4, 8, 6⟩), ([0xD6008180], .mapx ⟨0, 8, 6⟩),
     ([0xD7100180], .unmapx ⟨4, 0, 6⟩), ([0xD8008180], .migx ⟨0, 8, 6⟩), ([0xD9209000], .preempt ⟨8, 9, 0⟩), ([0xDA28C000], .ctxsv ⟨10, 12, 0⟩),
     ([0xDB28C000], .ctxld ⟨10, 12, 0⟩)].all reads = true := by decide

/-- Words of the sequencers: the examples of 14_copy and 15_matrix. -/
theorem test_decode_sequencer_words :
    [([0xE0100100, 0x1000], .kmov ⟨2, 0, .lit 0x1000, 0⟩), ([0xE118C800], .kadd ⟨3, 3, .k 4, 0⟩), ([0xE218C100, 1], .ksub ⟨3, 3, .lit 1, 0⟩),
     ([0xE3298E00], .kmul ⟨5, 6, .k 7, 0⟩), ([0xE4108100, 0xFFF], .kand ⟨2, 2, .lit 0xFFF, 0⟩), ([0xE5108600], .kor ⟨2, 2, .k 3, 0⟩),
     ([0xE639C100, 3], .kshl ⟨7, 7, .lit 3, 0⟩), ([0xE739C200], .kshr ⟨7, 7, .k 1, 0⟩), ([0xE8094C06], .kcmp ⟨1, 5, .k 6, 6⟩),
     ([0xEA200001], .kld ⟨4, 0, .k 0, 1⟩), ([0xEB000A02], .kst ⟨0, 0, .k 5, 2⟩), ([0xEC000001], .kbara ⟨0, 0, .k 0, 1⟩),
     ([0xED000001], .kbarw ⟨0, 0, .k 0, 1⟩), ([0xEE000000], .kend ⟨0, 0, .k 0, 0⟩), ([0xEF008004], .tdef ⟨0, 2, .k 0, 4⟩),
     ([0xF0000250, 0], .mma ⟨0, 0, 1, 5, 0, 0, 0, 0, 0, 0, 0, false, false⟩),
     ([0xF0020A40, 0x01100000], .mma ⟨0, 4, 5, 4, 0, 0, 0, 1, 0, 1, 0, false, false⟩),
     ([0xF3180002], .aclr ⟨3, 0, .k 0, 2⟩), ([0xF4000C05], .acst ⟨0, 0, .k 6, 5⟩), ([0xF5080C87], .acld ⟨1, 0, .k 6, 0x87⟩),
     ([0xF6080108, 2], .sxld ⟨1, 0, .lit 2, 8⟩), ([0xF7000006], .cbld ⟨0, 0, .k 0, 6⟩), ([0xF8090001], .lrdef ⟨1, 4, .k 0, 1⟩),
     ([0xF90A0002], .cpt ⟨1, 8, .k 0, 2⟩), ([0xFA0A4042], .cpto ⟨1, 9, .k 0, 0x42⟩), ([0xFB128045], .cpr ⟨2, 10, .k 0, 0x45⟩),
     ([0xFC02C002], .cpmc ⟨0, 11, .k 0, 2⟩), ([0xFD600002], .cpwt ⟨12, 0, .k 0, 2⟩)].all reads = true := by decide

/-! ### One workgroup with one quad, whose turn it is -/

/-- The quad of the tests: at the second word of a clause. -/
def x0 : Quad := { Quad.fresh progRoute 0 with cl := progCl 0, entered := none }
/-- Its workgroup: tenant 0, one quad, sequencers idle. -/
def w0 : Wg := { Wg.fresh progRoute [progRoute.toNat, 0, 0, 0, 1, 0, 0, 0] 0 0 1 0 1 none with quads := [(0, x0)] }
/-- Domain 0 of tenant 0 is mapped, the workgroup resides in slot 0, and its quad has the turn. -/
def s0 : State :=
  { State.reset with tab := State.reset.tab.forProgram, wgs := [(0, w0)], nextId := 2, focus := some (.quad 0 0) }
/-- The same with the quad changed. -/
def sq (f : Quad → Quad) : State := s0.updQuad 0 0 f
/-- The same with the workgroup changed. -/
def sw (f : Wg → Wg) : State := s0.updWg 0 f
/-- What the quad of a state becomes when it executes an instruction. -/
def after (i : Instr) (s : State) : Option Quad :=
  match exec i s with
  | .next t => t.quad? 0 0
  | _ => none
/-- Lane 0's register `n` after an R form on lane 0's registers a, b and d. -/
def result (c : RArgs → Instr) (a b d : Word) : Option (Word × Word) :=
  (after (c ⟨6, 2, .reg 4, false, 31⟩) (sq (fun x => ((x.setReg 0 2 a).setReg 0 4 b).setReg 0 6 d))).map (fun y => (y.reg 0 6, y.fpstat))

/-! ### Table 7-10 -/

theorem test_imulh : result .imulh 0x80000000 2 0 = some (0xFFFFFFFF, 0) := by decide
theorem test_imulhu : result .imulhu 0x80000000 2 0 = some (1, 0) := by decide
theorem test_idp4 : result .idp4 0x01FF0203 0x02020202 5 = some (15, 0) := by decide
theorem test_bfx : result .bfx 0xABCD1234 0x188 0 = some (0xD12, 0) := by decide
theorem test_clz : result .clz 0x00010000 0 0 = some (15, 0) := by decide
theorem test_madw : result .madw 0xFFFFFFFF 0xFFFFFFFF 1 = some (2, 0) := by decide
theorem test_add64_low : result .add64 0xFFFFFFFF 1 9 = some (0, 0) := by decide
theorem test_add64_carries : (after (.add64 ⟨6, 2, .lit 1, false, 31⟩) (sq (fun x => x.setReg 0 2 0xFFFFFFFF))).map (fun y => y.reg 0 7) = some 1 := by
  decide
theorem test_fmin_zeros : result .fmin 0 0x80000000 0 = some (0x80000000, 0) := by decide
theorem test_fmax_nan : result .fmax 0x7FC00000 0x40000000 0 = some (0x40000000, 0) := by decide
theorem test_fscale : result .fscale 0x3FC00000 3 0 = some (0x41400000, 0) := by decide
theorem test_frsq_minus_zero : result .frsq 0x80000000 0 0 = some (0xFF800000, 8) := by decide
theorem test_packb2 : result .packb2 0x3EAAAAAB 0x3F800000 0 = some (0x3F803EAB, 1) := by decide
theorem test_cvt_e4m3 : (after (.cvt ⟨6, 2, 0x052⟩) (sq (fun x => x.setReg 0 2 0x43E80000))).map (fun y => (y.reg 0 6, y.fpstat)) = some (0x7E, 1) := by
  decide

/-! ### Table 3-16 and R50: counting down -/

theorem test_addi_wraps : (after (.iaddi ⟨1, 1, 0xFFF⟩) (sq (fun x => x.setReg 0 1 0))).map (fun y => y.reg 0 1) = some 0xFFFFFFFF := by decide
theorem test_icmp_gt : (after (.icmp ⟨0, 4, 0, 1, .lit 0⟩) (sq (fun x => x.setReg 0 1 2))).map (fun y => (y.pred 0 0, y.pred 1 0, y.cl)) =
    some (true, false, (progCl 0).next 2) := by decide

/-! ### Table 6-7: value, type it is read as, type it becomes, mode, saturation, result, flags -/

theorem test_conversions :
    [(0x3EAAAAAB, 2, 3, 0, false, 0x3EAB, 1), (0x3EAAAAAB, 2, 3, 1, false, 0x3EAA, 1), (0xB22BCC77, 2, 4, 0, false, 0x8000, 3),
     (0xB22BCC77, 2, 4, 2, false, 0x8001, 3), (0x4788B800, 2, 4, 0, false, 0x7C00, 5), (0x4788B800, 2, 4, 0, true, 0x7BFF, 5),
     (0x43E80000, 2, 5, 0, false, 0x7E, 1), (0x43EB0000, 2, 5, 0, false, 0x7E, 5), (0x7F800000, 2, 5, 0, false, 0x7E, 16),
     (0x40200000, 2, 9, 0, false, 4, 1), (0x3E99999A, 2, 9, 0, false, 1, 3), (0x7FC00000, 2, 9, 0, false, 0, 16),
     (0x4396599A, 2, 11, 0, false, 0xFF, 16), (0x01000001, 0, 2, 0, false, 0x4B800000, 1), (0xFFFFFF38, 0, 10, 0, false, 0x38, 0),
     (0xFFFFFF38, 0, 10, 0, true, 0xFFFFFF80, 0), (0xC0200000, 2, 10, 0, false, 0xFFFFFFFE, 1)].all
      (fun (v, src, dst, mode, sat, r, f) => cvt src dst mode sat v == (r, f)) = true := by decide

/-! ### Every statement with hypotheses has a state and operands that meet them -/

/-- The quad's registers, changed, keep the workgroup's other fields. -/
theorem issues_sq (f : Quad → Quad) : (sq f).Issues 0 0 (w0.updQuad 0 f) (f x0) := ⟨rfl, rfl, rfl⟩
theorem hasTurn_sq (f : Quad → Quad) : (sq f).HasTurn 0 0 (f x0) := ⟨rfl, rfl⟩
/-- A change of the workgroup that leaves its quads. -/
theorem issues_sw (f : Wg → Wg) (h : (f w0).quads = w0.quads) : (sw f).Issues 0 0 (f w0) x0 := ⟨rfl, rfl, by rw [h]; rfl⟩

/-- A clause header at the start of domain 0: one ALU instruction. -/
def sh (f : Quad → Quad) : State := { sq f with mem := Memory.writeN [] (Memory.key 0 0) 4 0x100FF000 }
theorem issues_sh (f : Quad → Quad) : (sh f).Issues 0 0 (w0.updQuad 0 f) (f x0) := ⟨rfl, rfl, rfl⟩

theorem witness_IntegerForms : s0.HasTurn 0 0 x0 ∧ table71 ≠ [] ∧ table72 ≠ [] := ⟨⟨rfl, rfl⟩, by simp [table71, table71Lo], by simp [table72]⟩
theorem witness_ImmediateForms : s0.HasTurn 0 0 x0 ∧ table73 ≠ [] := ⟨⟨rfl, rfl⟩, by simp [table73]⟩
theorem witness_CompareForms :
    (s0.HasTurn 0 0 x0 ∧ (23 : BitVec 5).toNat < 24) ∧
    (0 % 2 ^ 31 = 0 ∧ 0x80000000 % 2 ^ 31 = 0) ∧ (F32.value 0x7FC00000).isNan = true ∧
    ((F32.value 0).isNan = false ∧ (F32.value 0x3F800000).isNan = false) := ⟨⟨⟨rfl, rfl⟩, by decide⟩, by decide, by decide, by decide⟩
theorem witness_PredicateAndShuffleForms : s0.HasTurn 0 0 x0 ∧ (23 : BitVec 6).toNat < 24 ∧ table74 ≠ [] :=
  ⟨⟨rfl, rfl⟩, by decide, by simp [table74]⟩
theorem witness_FloatForms : s0.HasTurn 0 0 x0 ∧ floatTable.length = 16 ∧ signTable.length = 2 ∧ (0x40800000 < 2 ^ 32 ∧ F32.value 0x40800000 = .fin false 8388608 (-21)) :=
  ⟨⟨rfl, rfl⟩, rfl, rfl, by decide, by decide⟩
theorem witness_FloatRounding :
    ((F32.value 0x7FC00000).isNan = true ∧ (F32.value 0x3F800000).isNan = false ∧ (F32.value 0x3F800000).lt (F32.value 0x40000000) = true) ∧
    (0x7E < 2 ^ E4M3.width ∧ E4M3.value 0x7E = .fin false 14 5) ∧ (0x7E ≤ E4M3.maxMag ∧ E2M1 ∈ [F32, BF16, F16, E4M3, E5M2, E2M3, E3M2, E2M1]) ∧
    (s0.HasTurn 0 0 x0 ∧ 0 ∈ x0.guarded ⟨1, 2, .reg 0, false, 31⟩ ∧ table77.length = 5) ∧
    -- FRCP of 3, where the table names no result
    (let x := x0.setReg 0 2 0x40400000
     (sq (fun _ => x)).HasTurn 0 0 x ∧ 0 ∈ x.guarded ⟨6, 2, .reg 0, false, 31⟩ ∧
       ∃ e ∈ table77, e.2 (x.reg 0 2).toNat = none ∧ ∃ z, Exactly77 e.1 ⟨6, 2, .reg 0, false, 31⟩ (((F32.value (x.reg 0 2).toNat).rat : ℚ) : ℝ) z 1) := by
  refine ⟨by decide, ⟨by decide, by decide⟩, by decide, ⟨⟨rfl, rfl⟩, by decide, rfl⟩, ⟨rfl, rfl⟩, by decide, ?_⟩
  exact ⟨_, List.mem_cons_self .., by decide, _, .inl ⟨rfl, rfl, rfl⟩⟩
theorem witness_RoundAndConvertForms : s0.HasTurn 0 0 x0 ∧ (fmtOf 5).isSome = true ∧ (fmtOf 2).isSome = true ∧ (intType 10).isSome = true ∧ (intType 0).isSome = true :=
  ⟨⟨rfl, rfl⟩, rfl, rfl, rfl, rfl⟩
theorem witness_GroupAndModularForms :
    (packTable.length = 5 ∧ unpackTable.length = 7) ∧
    (∃ (s : State) (w : Wg), s.HasTurn 0 0 x0 ∧ s.wg? 0 = some w ∧ w.mtx.bookSet = true) ∧
    (let x := { x0 with modq := 2, modb := 8 }
     x.modq.toNat = 2 ∧ x.modb.toNat = 2 ^ (2 * (x.modq.toNat.log2 + 1)) / x.modq.toNat ∧ (sq (fun _ => x)).HasTurn 0 0 x) ∧
    (x0.modq.toNat < 2 ∧ (Instr.nttbf ⟨8, 10, .reg 12, false, 31⟩).wellFormed = true) :=
  ⟨⟨rfl, rfl⟩, ⟨sw (fun w => { w with mtx := { w.mtx with bookSet := true } }), _, ⟨rfl, rfl⟩, rfl, rfl⟩,
    ⟨rfl, by decide, ⟨rfl, rfl⟩⟩, by decide⟩

/-- Lanes 0 and 1 active; predicate 0 holds in lane 0. -/
def mixed (x : Quad) : Quad := { x with mask := 3, preds := [(0, 1)] }
/-- A route to die 0 of another module, PL 1, that tenant 0's range entry 0 lets pass with every right at every scope. -/
def away0 : W64 := mkRoute 1 0 0 0 0
def sa (s : State) : State := { s with tab := { s.tab with ranges := [(0, ⟨0x1F001001 + 0x3F00000000, 0, 0, 0⟩)] } }
/-- A transfer may find a header, none, a refusal, or a word outside the module. -/
theorem witness_targets :
    (sh mixed).targetAt 0 [] [0, 1, 2, 3] progRoute = .header 0x100FF000 ∧ s0.targetAt 0 [] [0, 1, 2, 3] progRoute = .bad ∧
    s0.targetAt 0 [] [0, 1, 2, 3] (progRoute + 2) = .bad ∧ s0.targetAt 0 [] [0, 1, 2, 3] (mkRoute 0 1 0 0 0) = .refused ⟨cDOMAIN_MISS, 2, 1⟩ ∧
    s0.targetAt 0 [] [0, 1, 2, 3] away0 = .refused ⟨cRANGE_MISS, 0, 1⟩ ∧ (sa s0).targetAt 0 [] [0, 1, 2, 3] away0 = .ask ∧
    (sa s0).targetAt 0 [(away0, 0x100FF000)] [0, 1, 2, 3] away0 = .header 0x100FF000 := ⟨rfl, rfl, rfl, rfl, rfl, rfl, rfl⟩
theorem witness_BranchesAndDivergence :
    (sh mixed).Issues 0 0 (w0.updQuad 0 mixed) (mixed x0) ∧
    ((∃ l ∈ (mixed x0).active, (mixed x0).guard l false 0 = true) ∧ (∃ l ∈ (mixed x0).active, ¬ (mixed x0).guard l false 0 = true)) ∧
    (x0.cl.hdr + BitVec.ofInt 64 (4 * (0 : BitVec 16).toInt) = progRoute ∧ (sh mixed).targetAt 0 [] [0, 1, 2, 3] progRoute = .header 0x100FF000) ∧
    (∀ l ∈ (mixed x0).active, ¬ (mixed x0).guard l false 1 = true) ∧ (∀ l ∈ (mixed x0).active, (mixed x0).guard l false 31 = true) :=
  ⟨⟨rfl, rfl, rfl⟩, by decide, ⟨by decide, rfl⟩, by decide, by decide⟩
/-- BRD with one lane failing, none failing and a full stack; JOIN with none, a pending half and a finished half; JMPR with lanes that
agree and lanes that do not. -/
theorem witness_divergence_clauses :
    (let taken := maskOf ((mixed x0).active.filter (fun l => (mixed x0).guard l false 0))
     (mixed x0).recon.length < 8 ∧ (mixed x0).mask &&& ~~~taken ≠ 0) ∧
    (let taken := maskOf ((mixed x0).active.filter (fun l => (mixed x0).guard l false 31))
     (mixed x0).mask &&& ~~~taken = 0) ∧
    8 ≤ ({ x0 with recon := List.replicate 8 ⟨15, 0, 0⟩ } : Quad).recon.length ∧
    (∃ x : Quad, x.recon = ⟨3, 2, progRoute⟩ :: [] ∧ (2 : BitVec 4) ≠ 0 ∧ (sh (fun _ => x)).Issues 0 0 (w0.updQuad 0 (fun _ => x)) x) ∧
    (∃ x : Quad, x.recon = ⟨3, 0, progRoute⟩ :: [] ∧ (sh (fun _ => x)).Issues 0 0 (w0.updQuad 0 (fun _ => x)) x) ∧
    (∀ l ∈ (mixed x0).active, (mixed x0).pair l 2 = (mixed x0).pair (mixed x0).lowest 2) ∧
    (let x := (mixed x0).setReg 1 2 4
     ∃ l ∈ x.active, x.pair l 2 ≠ x.pair x.lowest 2) :=
  ⟨by decide, by decide, by decide, ⟨{ x0 with recon := [⟨3, 2, progRoute⟩] }, rfl, by decide, issues_sh _⟩,
    ⟨{ x0 with recon := [⟨3, 0, progRoute⟩] }, rfl, issues_sh _⟩, by decide, by decide⟩
theorem witness_CallForms :
    ((sh id).Issues 0 0 (w0.updQuad 0 id) x0 ∧ x0.frames.length < 64 ∧ x0.depth + 2 * (31 : BitVec 5).toNat ≤ 448 ∧ 0 < (31 : BitVec 5).toNat) ∧
    (∃ x : Quad, 64 ≤ x.frames.length ∧ (sq (fun _ => x)).Issues 0 0 (w0.updQuad 0 (fun _ => x)) x) ∧
    (∃ x : Quad, 448 < x.depth + 2 * (1 : BitVec 5).toNat ∧ (sq (fun _ => x)).Issues 0 0 (w0.updQuad 0 (fun _ => x)) x) ∧
    ((∀ l ∈ (mixed x0).active, (mixed x0).pair l 2 = (mixed x0).pair (mixed x0).lowest 2) ∧
      (let x := (mixed x0).setReg 1 2 4
       ∃ l ∈ x.active, x.pair l 2 ≠ x.pair x.lowest 2)) ∧
    (∃ x : Quad, x.frames = 4 :: [] ∧ 2 * 4 ≤ x.depth ∧ x.depth ≤ 448 ∧ 4 < 32 ∧ (∀ l ∈ x.active, x.link l = x.link x.lowest) ∧
      (sh (fun _ => x)).targetAt 0 [] [0, 1, 2, 3] (x.link x.lowest) = .header 0x100FF000 ∧ (sh (fun _ => x)).Issues 0 0 (w0.updQuad 0 (fun _ => x)) x) ∧
    (∃ x : Quad, x.frames = 31 :: [] ∧ 2 * 31 ≤ x.depth ∧ x.depth ≤ 448 ∧ 31 < 32 ∧ (∃ l ∈ x.active, x.link l ≠ x.link x.lowest) ∧
      (sq (fun _ => x)).Issues 0 0 (w0.updQuad 0 (fun _ => x)) x) ∧
    x0.frames = [] :=
  ⟨⟨issues_sh _, by decide, by decide, by decide⟩,
    ⟨{ x0 with frames := List.replicate 64 1 }, by decide, issues_sq _⟩, ⟨{ x0 with depth := 447 }, by decide, issues_sq _⟩, by decide,
    ⟨{ x0 with frames := [4], mask := 1, depth := 8, regs := [(7, 0x80000000)] }, rfl, by decide, by decide, by decide, by decide, rfl, issues_sh _⟩,
    ⟨{ x0 with frames := [31], depth := 448, regs := [(191, 0x80000000)] }, rfl, by decide, by decide, by decide, by decide, issues_sq _⟩, rfl⟩

/-- One access of lane 0 in device memory, at offset 0x80. -/
def acc0 : Access := ⟨0, progRoute + 0x80, 4, 0, 0, 0⟩
/-- A line access. -/
def part0 (st : PartState) (place : Place) : Part := { Part.fresh place [acc0] (2, 1) none true with st := st }
/-- An operation of the quad in flight. -/
def op0 (job : Job) (parts : Tab Part) : Flight := ⟨w0.uid, .quad 0 0, 3, job, 0, 0, progCl 0, false, 4, 1, 1, parts, [], false⟩
/-- The state with that operation in flight, under the name 2. -/
def sf (f : Flight) (g : Quad → Quad) : State := { sq g with flights := [(2, f)], nextId := 3 }
theorem issues_sf (f : Flight) (g : Quad → Quad) : (sf f g).Issues 0 0 (w0.updQuad 0 g) (g x0) := ⟨rfl, rfl, rfl⟩
/-- A store of the quad that is not yet performed. -/
def pend : Flight := op0 .store [(0, part0 .flying .dev)]

/-- Two live quads of a gang, the second as `y`. -/
def wg2 (y : Quad) : Wg := { w0 with quads := [(0, x0), (1, y)] }
def meeting : Quad := { x0 with await := some ⟨.rendezvous [1, 2, 3, 4], 0, 0⟩ }
def elsewhere : Quad := { meeting with cl := (progCl 0).next 1 }
theorem gang2 (y : Quad) (h : y.live = true) : (wg2 y).gangQuads 0 = [(0, x0), (1, y)] := by simp [Wg.gangQuads, wg2, h, x0, Quad.fresh]
theorem witness_GangRendezvous :
    (sw (fun _ => wg2 meeting)).Issues 0 0 (wg2 meeting) x0 ∧ x0.live = true ∧ ((wg2 meeting).quads.map (·.1)).Pairwise (· < ·) ∧ (wg2 meeting).halt = none ∧
    -- the gang's other live quad waits at the same place, is not there, or waits at another place
    (∀ e ∈ (wg2 meeting).gangQuads 0, e.1 ≠ 0 → e.2.cl.pc = x0.cl.pc ∧ e.2.resume = none ∧ ∃ n c, e.2.await = some ⟨.rendezvous [1, 2, 3, 4], n, c⟩) ∧
    (∃ e ∈ (wg2 x0).gangQuads 0, e.1 ≠ 0 ∧ ∀ v n c, e.2.await ≠ some ⟨.rendezvous v, n, c⟩) ∧
    ((∀ e ∈ (wg2 elsewhere).gangQuads 0, e.1 ≠ 0 → ∃ n c, e.2.await = some ⟨.rendezvous [1, 2, 3, 4], n, c⟩) ∧
     (∃ e ∈ (wg2 elsewhere).gangQuads 0, e.1 ≠ 0 ∧ e.2.cl.pc ≠ x0.cl.pc) ∧ (wg2 elsewhere).gangQuads 0 = (0, x0) :: [(1, elsewhere)]) := by
  refine ⟨⟨rfl, rfl, rfl⟩, rfl, by decide, rfl, ?_, ⟨(1, x0), by decide, by decide, by intro v n c h; exact absurd h (by simp [x0, Quad.fresh])⟩,
    ?_, ⟨(1, elsewhere), by decide, by decide, by decide⟩, rfl⟩
  · intro e he hne
    rw [gang2 _ rfl] at he
    rcases List.mem_cons.1 he with rfl | he
    · exact absurd rfl hne
    · rw [List.mem_singleton.1 he]; exact ⟨rfl, rfl, 0, 0, rfl⟩
  · intro e he hne
    rw [gang2 _ rfl] at he
    rcases List.mem_cons.1 he with rfl | he
    · exact absurd rfl hne
    · rw [List.mem_singleton.1 he]; exact ⟨0, 0, rfl⟩
/-- A barrier that expects `n` quads, of which `l` have arrived. -/
def wbar (n : Nat) (l : List Nat) : Wg := { w0 with barq := [n], bars := [(0, ⟨0, l⟩)] }
theorem issues_wbar (n : Nat) (l : List Nat) : (sw (fun _ => wbar n l)).Issues 0 0 (wbar n l) x0 := ⟨rfl, rfl, rfl⟩
theorem witness_BarrierForms :
    (sw (fun _ => wbar 2 [])).Issues 0 0 (wbar 2 []) x0 ∧ (x0.await.any (fun a => a.what == .bar)) = false ∧ (wbar 2 []).barq.getD 0 0 ≠ 0 ∧
    0 ∉ (Tab.get (⟨0, []⟩ : Barrier) (wbar 2 []).bars 0).arrived ∧ (sw (fun _ => wbar 2 [])).drained w0.uid (.quad 0 0) releaseMask x0.sup = true ∧
    0 + 1 ≠ (wbar 2 []).barq.getD 0 0 + 0 + 0 ∧ 0 + 1 = (wbar 1 []).barq.getD 0 0 + 0 + 0 ∧ (wbar 2 []).barq.getD 15 0 = 0 ∧
    (sf pend id).drained w0.uid (.quad 0 0) releaseMask x0.sup = false ∧
    ((sw (fun _ => wbar 2 [0])).Issues 0 0 (wbar 2 [0]) x0 ∧ 0 ∈ (Tab.get (⟨0, []⟩ : Barrier) (wbar 2 [0]).bars 0).arrived) ∧
    (let y := { x0 with await := some ⟨.bar, 0, 0⟩ }
     (sq (fun _ => y)).Issues 0 0 (w0.updQuad 0 (fun _ => y)) y ∧ (y.await.any (fun a => a.what == .bar)) = true) :=
  ⟨issues_wbar _ _, by decide, by decide, by decide, by decide, by decide, by decide, by decide, by decide, ⟨issues_wbar _ _, by decide⟩, issues_sq _, by decide⟩
theorem witness_ClusterBarrierForm :
    let s : State := { s0 with sched := { s0.sched with cbars := [(0, ⟨some 7, 3, []⟩)] } }
    s.Issues 0 0 w0 x0 ∧ (∀ ph n m, x0.await ≠ some ⟨.cbars ph, n, m⟩) ∧ (s.cbar 0).id = some (7 : BitVec 8).toNat ∧ (s.cbar 0).id ≠ some (8 : BitVec 8).toNat ∧
    s.drained w0.uid (.quad 0 0) releaseMask x0.sup = true ∧
    (∀ e ∈ s.wgs, e.2.unit = w0.unit → ∀ z ∈ e.2.quads, z.2.live = true → (e.2.wgid, z.1) ∈ (s.cbar 0).arrived ++ [(w0.wgid, 0)]) ∧
    (¬ ∀ e ∈ (sw (fun _ => wg2 x0)).wgs, e.2.unit = w0.unit → ∀ z ∈ e.2.quads, z.2.live = true → (e.2.wgid, z.1) ∈ ([] : List (Nat × Nat)) ++ [(w0.wgid, 0)]) ∧
    (let y := fun (ph : Nat) => { x0 with await := some ⟨.cbars ph, 0, 0⟩ }
     (sq (fun _ => y 3)).Issues 0 0 (w0.updQuad 0 (fun _ => y 3)) (y 3) ∧ (s.cbar 0).phase = 3 ∧ (s.cbar 0).phase ≠ 2) := by
  refine ⟨⟨rfl, rfl, rfl⟩, by intro ph n m h; exact absurd h (by simp [x0, Quad.fresh]), by decide, by decide, by decide, ?_, ?_, issues_sq _, by decide, by decide⟩
  · intro e he _ z hz _
    rw [List.mem_singleton.1 he] at hz ⊢
    rw [List.mem_singleton.1 hz]
    exact List.mem_cons_self ..
  · intro h
    exact absurd (h (0, wg2 x0) (List.mem_cons_self ..) rfl (1, x0) (by simp [wg2]) rfl) (by decide)
theorem witness_SequencerStartAndMeet :
    (s0.Issues 0 0 w0 x0 ∧ (x0.pair x0.lowest 10).toNat % 4 = 0 ∧ w0.mtx.seq.mode = .idle ∧ w0.cpy.seq.mode = .idle ∧
      s0.drained w0.uid (.quad 0 0) releaseMask x0.sup = true ∧ s0.drained w0.uid (.quad 0 0) 3 x0.sup = true ∧
      (sf pend id).drained w0.uid (.quad 0 0) releaseMask x0.sup = false ∧ ((x0.setReg 0 10 2).pair 0 10).toNat % 4 ≠ 0) ∧
    ((w0.quads.map (·.1)).Pairwise (· < ·) ∧ ∃ e ∈ (w0.updQuad 0 (fun x => { x with await := some ⟨.rdv, 0, 0⟩ })).quads,
      (e.2.await.any (fun a => a.what == .rdv)) = true ∧ e.2.live = true ∧ e.2.resume = none) ∧
    (let f := fun (w : Wg) => { w with mtx := { w.mtx with seq := Seq.begin progRoute 0 } }
     (sw f).Issues 0 0 (f w0) x0 ∧ (f w0).mtx.seq.mode ≠ .idle ∧ (f w0).mtx.seq.mode = .started) :=
  ⟨⟨⟨rfl, rfl, rfl⟩, by decide, rfl, rfl, by decide, by decide, by decide, by decide⟩, ⟨by decide, _, List.mem_singleton.2 rfl, by decide, rfl, rfl⟩,
    issues_sw _ rfl, by decide, rfl⟩

theorem witness_FencesRegionsAndTrap :
    (s0.Issues 0 0 w0 x0 ∧ x0.idem = none ∧ (∀ ops n c, x0.await ≠ some ⟨.qfence ops, n, c⟩) ∧ s0.unperformed w0.uid (.quad 0 0) 0x7F x0.sup = [] ∧ (x0.uad = 0 ∧ x0.uap = 0) ∧
      (s0.allSent w0.uid (.quad 0 0) = true ∧ ∀ n, n < 4 → (15 : BitVec 4).getLsbD n = true → Tab.get 0 x0.path n = 0) ∧
      s0.drained w0.uid (.quad 0 0) releaseMask x0.sup = true ∧ s0.outstandingLoads w0.uid (.quad 0 0) = 0) ∧
    ((sf pend id).unperformed w0.uid (.quad 0 0) 0x7F x0.sup = [2] ∧ (sf pend id).drained w0.uid (.quad 0 0) releaseMask x0.sup = false ∧
      ¬ ({ x0 with uad := 1 } : Quad).uad = 0 ∧ ¬ Tab.get 0 ({ x0 with path := [(3, 1)] } : Quad).path 3 = 0) ∧
    (let y : Quad := { x0 with await := some ⟨.qfence [1, 2], 0, 0⟩ }
     (sf pend (fun _ => y)).Issues 0 0 (w0.updQuad 0 (fun _ => y)) y ∧ (∃ id ∈ [1, 2], id ∈ (sf pend (fun _ => y)).unperformed w0.uid (.quad 0 0) 0x7F y.sup) ∧
       ∀ id ∈ [1, 2], id ∉ (sq (fun _ => y)).unperformed w0.uid (.quad 0 0) 0x7F y.sup) ∧
    (∃ y : Quad, y.idem ≠ none ∧ (sq (fun _ => y)).Issues 0 0 (w0.updQuad 0 (fun _ => y)) y) ∧
    (let s : State := { s0 with sched := { s0.sched with csrs := [(0, { SupCsr.init with tvec := 4 })] } }
     s.Issues 0 0 w0 x0 ∧ x0.sup = false ∧ w0.halt = none ∧ (s.csr 0 0).tvec ≠ 0) :=
  ⟨⟨⟨rfl, rfl, rfl⟩, rfl, by intro ops n c h; exact absurd h (by simp [x0, Quad.fresh]), by decide, ⟨rfl, rfl⟩, ⟨by decide, by decide⟩, by decide, by decide⟩,
    ⟨by decide, by decide, by decide, by decide⟩, ⟨issues_sf _ _, by decide, by decide⟩, ⟨{ x0 with idem := some ⟨0, progCl 0, 0, 0, []⟩ }, by decide, issues_sq _⟩,
    ⟨rfl, rfl, rfl⟩, rfl, rfl, by decide⟩
theorem witness_UserCsrForms :
    s0.Issues 0 0 w0 x0 ∧ (4 : BitVec 6).toNat % 2 = 0 ∧ (x0.reg x0.lowest 2).toNat < 32 ∧ (x0.pair x0.lowest 2).toNat < 2 ^ 62 ∧ (5 : BitVec 6).toNat % 2 = 1 ∧
    (let y := { x0 with regs := [(2, 32), (3, 0x40000000)] }
     (sq (fun _ => y)).Issues 0 0 (w0.updQuad 0 (fun _ => y)) y ∧ 32 ≤ (y.reg y.lowest 2).toNat ∧ 2 ^ 62 ≤ (y.pair y.lowest 2).toNat) ∧
    (31 ≤ ((x0.setReg 0 2 31).reg 0 2).toNat ∧ ((x0.setReg 0 2 31).reg 0 2).toNat < 32) :=
  ⟨⟨rfl, rfl, rfl⟩, by decide, by decide, by decide, by decide, ⟨issues_sq _, by decide, by decide⟩, by decide, by decide⟩

/-- The pair v2:3 of every lane holds the route of offset 0x80 of domain 0; v4 the scratchpad address 0; v6 of lane 0 is 1. -/
def routed (x : Quad) : Quad :=
  { x with regs := [(2, 0x80), (3, 0x80000000), (4, 0x03E00000), (6, 1), (258, 0x80), (259, 0x80000000), (260, 0x03E00000), (514, 0x80), (515, 0x80000000),
      (516, 0x03E00000), (770, 0x80), (771, 0x80000000), (772, 0x03E00000)] }
/-- The workgroup with one line of scratchpad and 8 private words. -/
def wr : Wg := { w0.updQuad 0 routed with shape := 1 + 1 * 2 ^ 7 + 8 * 2 ^ 21 }
def sr : State := { s0 with wgs := [(0, wr)] }
theorem issues_sr : sr.Issues 0 0 wr (routed x0) := ⟨rfl, rfl, rfl⟩
theorem hasRoom_sr (n : Nat) (h : n ≤ 4) : HasRoom sr 0 0 wr n :=
  ⟨by decide, by have : sr.transUsed wr.uid (.quad 0 0) = 0 := by decide
                 omega, by have : (sr.transOfCore (coreIx 0)).eraseDups.length = 0 := by decide
                           omega⟩

theorem witness_LoadAndStoreForms :
    sr.Issues 0 0 wr (routed x0) ∧ HasRoom sr 0 0 wr 4 ∧ (routed x0).active ≠ [] ∧
    (∀ l ∈ (routed x0).active, (routed x0).pair l 2 = progRoute + 0x80) ∧
    (∀ kind ∈ [AccKind.load, .store], ∀ scope ∈ [none, some 0, some 5], CleanAt sr wr kind scope ⟨0, progRoute + 0x80, 16, 0, 0, 0⟩) ∧
    sr.releaseReady ⟨0, 0, wr, routed x0⟩ 5 = true ∧ (sf pend id).releaseReady ⟨0, 0, w0, x0⟩ 5 = false ∧
    256 ≤ ({ s0 with flights := List.replicate 64 (2, op0 (.load 4 false none) (List.replicate 4 (0, part0 .away .remote))) } : State).transUsed w0.uid (.quad 0 0) ∧
    16 ≤ ({ s0 with flights := List.replicate 16 (2, { pend with entry := true }) } : State).entriesUsed w0.uid (.quad 0 0) :=
  ⟨issues_sr, hasRoom_sr 4 (by decide), by decide, by decide, by
    intro kind hk scope hs
    refine ⟨by decide, ?_, by decide⟩
    simp only [List.mem_cons, List.not_mem_nil, or_false] at hk hs
    rcases hk with rfl | rfl <;> rcases hs with rfl | rfl | rfl <;> exact ⟨_, rfl⟩, by decide, by decide, by decide, by decide⟩

theorem witness_AtomicsAndGathers :
    sr.Issues 0 0 wr (routed x0) ∧ HasRoom sr 0 0 wr 4 ∧
    (CleanAt sr wr .atomic (some 5) acc0 ∧ isDev acc0.addr = true ∧ sr.releaseReady ⟨0, 0, wr, routed x0⟩ 5 = true ∧
      (sf pend id).releaseReady ⟨0, 0, w0, x0⟩ 5 = false) ∧
    ((routed x0).guarded ⟨8, 2, .reg 6, false, 31⟩ ≠ [] ∧ offSpan (progRoute + 0x80) (progRoute + 0x84) = false ∧
      CleanAt sr wr .load none ⟨0, progRoute + 0x84, 4, 0, 0, 0⟩ ∧ CleanAt sr wr .store none ⟨0, progRoute + 0x84, 4, 0, 0, 0⟩) ∧
    (0xFFFFFFFF < 2 ^ (8 * 4) ∧ 0xFFFFFFFFFFFFFFFF < 2 ^ (8 * 8)) :=
  ⟨issues_sr, hasRoom_sr 4 (by decide), ⟨⟨by decide, ⟨_, rfl⟩, by decide⟩, by decide, by decide, by decide⟩,
    ⟨by decide, by decide, ⟨by decide, ⟨_, rfl⟩, by decide⟩, by decide, ⟨_, rfl⟩, by decide⟩, by decide⟩
theorem witness_ScratchpadAndPrivateForms :
    sr.Issues 0 0 wr (routed x0) ∧ HasRoom sr 0 0 wr 4 ∧ (routed x0).active ≠ [] ∧ scratchTable ≠ [] ∧
    (∀ l ∈ (routed x0).active, ((routed x0).reg l 4).toNat / 2 ^ 21 = 31 ∧
      (∀ size ∈ [4, 16, 128], (size : Int) < 128 → (((((routed x0).reg l 4).toNat % 2 ^ 21 : Nat) + (0 : BitVec 8).toInt * size) % 2 ^ 21).toNat % size.toNat = 0) ∧
      wr.slines * 128 ≤ (((((routed x0).reg l 4).toNat % 2 ^ 21 : Nat) + (32 : BitVec 8).toInt * 4) % 2 ^ 21).toNat ∧
      ∀ size ∈ [4, 16, 128], (((((routed x0).reg l 4).toNat % 2 ^ 21 : Nat) + (0 : BitVec 8).toInt * size) % 2 ^ 21).toNat < wr.slines * 128) ∧
    (∀ l ∈ (routed x0).active, ((routed x0).reg l 8 + BitVec.ofInt 32 ((7 : BitVec 8).toInt * 4)).toNat % 4 = 0 ∧
      ((routed x0).reg l 8 + BitVec.ofInt 32 ((7 : BitVec 8).toInt * 4)).toNat < wr.pwords * 4) :=
  ⟨issues_sr, hasRoom_sr 4 (by decide), by decide, by decide, by decide, by decide⟩
theorem witness_LaneCopies :
    (sr.Issues 0 0 wr (routed x0) ∧ laneCopyTable ≠ [] ∧ (routed x0).guarded ⟨4, 2, .reg 0, false, 31⟩ ≠ [] ∧
      CleanAt sr wr .load none ⟨0, progRoute + 0x80, 16, 0, 0, 0⟩ ∧
      ∀ l ∈ (routed x0).guarded ⟨4, 2, .reg 0, false, 31⟩, ∀ size ∈ [4, 8, 16], ((routed x0).reg l 4).toNat / 2 ^ 21 = 31 ∧
        ((routed x0).reg l 4).toNat % 2 ^ 21 < wr.slines * 128 ∧ ((routed x0).reg l 4).toNat % size = 0) :=
  ⟨issues_sr, by decide, by decide, ⟨by decide, ⟨_, rfl⟩, by decide⟩, by decide⟩

/-- A pool of one extent on stack 0. -/
def sp : State := { s0 with tab := { s0.tab with domains := Tab.set 0 s0.tab.domains 0xC0 0x3F, pools := [(0, 0)] } }
theorem placeName_some (s : State) (tenant die : Nat) (e : Nat × Nat × Nat) (h : s.placeable tenant die = [e]) : ∃ p, s.placeName tenant die = some p := by
  have g : ∀ n, [e].getD n e = e := by
    intro n
    cases n <;> rfl
  unfold State.placeName
  rw [h]
  simp only [g]
  exact ⟨_, rfl⟩
theorem cellLoc_dual (s : State) (h : s.tab.migs = []) (tenant stack c : Nat) : (s.cellLoc tenant stack c).dual = none := by
  simp only [State.cellLoc, State.locate, h]
  split <;> rfl
theorem place_sp : ∃ stack c, sp.placeName 0 0 = some (stack, c) ∧ (sp.cellLoc 0 stack c).dual = none := by
  obtain ⟨p, hp⟩ := placeName_some sp 0 0 (0, 0, 0) (by decide)
  exact ⟨p.1, p.2, hp, cellLoc_dual _ rfl _ _ _⟩

theorem witness_NamesAndFreeCount :
    (sp.Issues 0 0 w0 x0 ∧ sp.drained w0.uid (.quad 0 0) 8 x0.sup = true ∧ w0.tenant = 0 ∧ dieOf 0 = 0 ∧
      ∃ stack c, sp.placeName w0.tenant (dieOf 0) = some (stack, c) ∧ (sp.cellLoc w0.tenant stack c).dual = none) ∧
    (s0.Issues 0 0 w0 x0 ∧ s0.placeName w0.tenant (dieOf 0) = none ∧ (sf { pend with job := .rlq } id).drained w0.uid (.quad 0 0) 8 x0.sup = false) ∧
    (let f := op0 (.stn 5) []
     (sf f id).flights.find 2 = some f ∧ f.job = .stn 5 ∧ f.party = .quad 0 0 ∧ f.uid = w0.uid ∧ (sf f id).wg? 0 = some w0 ∧ w0.quads.find 0 = some x0 ∧
       (∀ n ∈ (sf f id).unperformed f.uid f.party 8 f.sup, 2 ≤ n) ∧
       ∃ n ∈ ({ sf f id with flights := [(1, { pend with job := .rlq }), (2, f)] } : State).unperformed f.uid f.party 8 f.sup, n < 2) ∧
    (sr.Issues 0 0 wr (routed x0) ∧ HasRoom sr 0 0 wr 4 ∧ ∀ l ∈ (routed x0).active, ((routed x0).pair l 2).toNat % 128 = 0 ∧
      sr.isLocal wr.tenant ((routed x0).pair l 2) = true) ∧
    (let y := fun (n : Nat) (v : Word) => (x0.setReg 1 n v).setReg 1 3 0x80000000
     (((y 3 0).active.filter (fun l => ((y 3 0).pair l 2).toNat % 128 = 0 ∧ s0.isLocal w0.tenant ((y 3 0).pair l 2) = false)) = 0 :: [2, 3]) ∧
     ((routed x0).setReg 1 2 0x81).active.filter (fun l => (((routed x0).setReg 1 2 0x81).pair l 2).toNat % 128 ≠ 0) = 1 :: []) ∧
    ((sf { pend with job := .rlq } id).drained w0.uid (.quad 0 0) 8 x0.sup = false) ∧
    (x0.guarded ⟨4, 6, .reg 0, false, 0⟩ = [] ∧ x0.guarded ⟨4, 6, .reg 0, false, 31⟩ = 0 :: [1, 2, 3] ∧ s0.flights = [] ∧
      (x0.reg x0.lowest 6).toNat < 16 ∧ 16 ≤ ((x0.setReg 0 6 16).reg 0 6).toNat ∧ 15 ≤ ((x0.setReg 0 6 15).reg 0 6).toNat) ∧
    (let f := op0 (.hfree 3 4) []
     ((sf f id).opsOf w0.uid (.quad 0 0)).find? (fun e => match e.2.job with
      | .hfree _ _ => true
      | _ => false) = some (2, f) ∧ f.job = .hfree 3 4 ∧ x0.cl = f.pos ∧ x0.resume = none) :=
  ⟨⟨⟨rfl, rfl, rfl⟩, by decide, rfl, rfl, place_sp⟩, ⟨⟨rfl, rfl, rfl⟩, by decide, by decide⟩, ⟨rfl, rfl, rfl, rfl, rfl, rfl, by decide, by decide⟩, ⟨issues_sr, hasRoom_sr 4 (by decide), by decide⟩,
    ⟨by decide, by decide⟩, by decide,
    ⟨by decide, by decide, rfl, by decide, by decide, by decide⟩, rfl, rfl, rfl, rfl⟩
theorem witness_WaitForValueForm :
    (sr.Issues 0 0 wr (routed x0) ∧ HasRoom sr 0 0 wr 1 ∧ sr.flights = [] ∧ CleanAt sr wr .load none ⟨0, (routed x0).pair 0 2, 4, 0, 0, 0⟩) ∧
    (let f := op0 (.waitv 1 5) [(0, { part0 .performed .dev with back := true })]
     let y : Quad := { x0 with await := some ⟨.waitv 2 (progRoute + 0x80) 1 5, 0, 0⟩ }
     let s := sf f (fun _ => y)
     s.flights.find 2 = some f ∧ f.party = .quad 0 0 ∧ f.uid = w0.uid ∧ s.resident w0.uid = some (0, w0.updQuad 0 (fun _ => y)) ∧ y.live = true ∧
     y.standsIn 2 = true ∧ y.resume = none ∧ w0.halt = none ∧ f.done = true ∧ f.back = true ∧ f.faults = [] ∧ f.values = [(0, 0)] ∧
     ccTable 1 0 5 0 5 = true ∧ ccTable 0 0 5 0 5 = false) ∧
    ((∃ e, s0.level0 0 .load none (part0 .performed .dev).route = .ok e) ∧ s0.level0 0 .load none away0 = .error ⟨cRANGE_MISS, 0, 1⟩) :=
  ⟨⟨issues_sr, hasRoom_sr 1 (by decide), rfl, by decide, ⟨_, rfl⟩, by decide⟩,
    ⟨rfl, rfl, rfl, rfl, rfl, by decide, rfl, rfl, by decide, by decide, rfl, by decide, by decide, by decide⟩, ⟨_, rfl⟩, rfl⟩
/-- A name of tenant 0 that the pool's cell 0 of stack 0 has, generation 0. -/
def nameAcc : Access := ⟨0, mkName 0 0 0 0, 128, 0, 0, 0⟩
def sn (job : Job) (a : Access) (st : PartState) : State :=
  { s0 with
    flights := [(2, op0 job [(0, { part0 st .dev with accs := [a] })])], nextId := 3
    tab := if job = .rlq then { sp.tab with cells := [(0, ⟨true, 0⟩)] } else s0.tab }
/-- A line access of line 1 of slot 0's scratchpad. -/
def lineS : Part := { part0 .flying (.scratch 0) with accs := [⟨0, 0x80, 4, 0, 0, 0⟩] }
theorem witness_AccessesPerformAtHome :
    (∀ e ∈ [(Job.load 4 false none, acc0), (.store, acc0), (.sto, acc0), (.strl (some 5), acc0), (.atomic .add none none, acc0), (.rlq, nameAcc), (.kld 3, acc0), (.kst, acc0),
        (.waitv 1 5, acc0)],
      let p := { part0 .arrived .dev with accs := [e.2] }
      ∃ l, (sn e.1 e.2 .arrived).AtHome 2 0 (op0 e.1 [(0, p)]) p l [(2, 0)] e.2 []) ∧
    (∀ e ∈ [Job.load 4 false none, .store, .lset true],
      let p := lineS
      let f := op0 e [(0, p)]
      let s : State := { sf f id with wgs := [(0, { wr with full := [(1, ())] })] }
      s.part? 2 0 = some (f, p) ∧ s.isSaved f.uid = false ∧ s.wg? 0 = some { wr with full := [(1, ())] } ∧ s.mayAll (s.membersOf f p) = true) ∧
    (let p := lineS
     let f := op0 (.load 4 false none) [(0, p)]
     ∃ e ∈ f.parts, ∃ n, e.2.place = .scratch n ∧ e.2.st ≠ .performed ∧ ({ sf f id with wgs := [(0, wr)] } : State).isFull n e.2.line = false) := by
  refine ⟨?_, ?_, (0, lineS), by decide, 0, rfl, by decide, by decide⟩
  · intro e h
    simp only [List.mem_cons, List.not_mem_nil, or_false] at h
    rcases h with rfl | rfl | rfl | rfl | rfl | rfl | rfl | rfl | rfl <;>
      (refine ⟨_, ⟨rfl, ⟨rfl, rfl⟩, ⟨rfl, by decide, rfl⟩, ⟨by decide, by decide, by decide⟩, ⟨by decide, by decide, rfl⟩, ?_, ?_, ?_, rfl, ?_, rfl, ?_⟩⟩
       · intro m hm g q hg
         obtain rfl := List.mem_singleton.1 hm
         cases hg
         decide
       · intro m hm g q hg
         obtain rfl := List.mem_singleton.1 hm
         cases hg
         decide
       · intro m hm g q hg
         obtain rfl := List.mem_singleton.1 hm
         cases hg
         rfl
       · exact ⟨by decide, rfl, by decide⟩
       · decide)
  · intro e h
    simp only [List.mem_cons, List.not_mem_nil, or_false] at h
    rcases h with rfl | rfl | rfl <;> exact ⟨rfl, by decide, rfl, by decide⟩
theorem witness_ReturnsAndAcknowledgements :
    (∀ job ∈ [Job.load 4 false none, .load 1 true none, .store, .atomic .add none none],
      let f := op0 job [(0, { part0 .performed .dev with back := true })]
      (sf f id).flights.find 2 = some f ∧ f.party = .quad 0 0 ∧ f.uid = w0.uid ∧ (sf f id).resident w0.uid = some (0, w0) ∧ (sf f id).wg? 0 = some w0 ∧
      f.faults = [] ∧ f.done = true ∧ f.back = true ∧ f.size ≤ 4 ∧ (f.parts.map (fun e => e.2.accs.map (fun a => a.key))).flatten.Nodup ∧
      (op0 job [(0, part0 .performed .dev)]).back = false) ∧
    (Job.store.counted = true ∧ (op0 .store [(0, part0 .performed .dev)]).parts.find 0 = some (part0 .performed .dev)) := by
  refine ⟨?_, rfl, rfl⟩
  intro job h
  simp only [List.mem_cons, List.not_mem_nil, or_false] at h
  rcases h with rfl | rfl | rfl | rfl <;> exact ⟨rfl, rfl, rfl, rfl, rfl, rfl, rfl, rfl, by decide, by decide, by decide⟩
theorem witness_MemoryReadsAndWrites : Memory.wf [⟨0, 1⟩, ⟨127, 255⟩] = true ∧ ¬ Memory.wf [⟨1, 1⟩, ⟨0, 1⟩] = true ∧ ¬ Memory.wf [⟨0, 0⟩] = true := by
  decide

/-- An itinerary of tenant 0 whose entry 1 has started, may hand over 32 cells, and has handed over none. -/
def run0 : EntryRun := ⟨2, false, false, [], 0, 0, false, [], [], [], 0⟩
def si (f : Itin → Itin) : State :=
  { sr with itin := f { sr.itin with owner := some 0, st := 2, ents := [(0, 0), (0, BitVec.ofNat 64 (32 * 2 ^ 16))], runs := [(1, run0)] } }
/-- A name of tenant 0 in the pair v8:9 of lane 0. -/
def named (x : Quad) : Quad := { x with mask := 1, regs := [(6, 1), (9, 0x80000000 + 0xC0 * 2 ^ 11)] }

/-- The quad with a name in the pair v8:9. -/
def handing (n : W64) : Quad := { named x0 with regs := [(6, 1), (8, n.setWidth 32), (9, (n >>> 32).setWidth 32)] }
/-- The faults of ITOUT and ITDONE: a name of another module, of the host half, misaligned, of no pool; an open region; a table that a lost peer failed, one
that is not the tenant's, an entry with no room. -/
theorem witness_handover_faults :
    (let r : RArgs := ⟨0, 8, .reg 6, false, 31⟩
     (handing away0).guarded r = 0 :: [] ∧ (handing away0).pair 0 8 = away0 ∧ away0.toNat % 128 = 0 ∧ (si id).isLocal 0 away0 = false ∧ isDev away0 = true ∧
     (handing 0x80).pair 0 8 = 0x80 ∧ (0x80 : W64).toNat % 128 = 0 ∧ (si id).isLocal 0 0x80 = false ∧ isDev 0x80 = false ∧
     (handing (progRoute + 127)).pair 0 8 = progRoute + 127 ∧ (si id).isLocal 0 (progRoute + 127) = true ∧ (progRoute + 127).toNat % 128 ≠ 0 ∧
     (handing (progRoute + 128)).pair 0 8 = progRoute + 128 ∧ (progRoute + 128).toNat % 128 = 0 ∧ dlOf (progRoute + 128) = 0) ∧
    ({ named x0 with regs := [(6, 256)] }.src 0 (.reg 6) = 256 ∧ { named x0 with regs := [(6, 255)] }.src 0 (.reg 6) = 255) ∧
    ({ named x0 with idem := some ⟨0, progCl 0, 0, 0, []⟩ }.idem ≠ none ∧ (si (fun t => { t with st := 5, gone := true })).itin.st = 5 ∧ (si (fun t => { t with st := 5, gone := true })).itin.gone = true ∧
      s0.itin.owner ≠ some w0.tenant ∧ eOutn ((si id).itin.d1 1) < (List.replicate 32 (0 : W64)).length + 1 ∧
      ¬ eOutn ((si id).itin.d1 1) < (List.replicate 31 (0 : W64)).length + 1 ∧ eSd ((si id).itin.d1 1) = false ∧ eSu ((si id).itin.d1 1) = false) :=
  ⟨⟨rfl, rfl, rfl, rfl, rfl, rfl, rfl, rfl, rfl, rfl, rfl, by decide, rfl, rfl, rfl⟩, ⟨rfl, rfl⟩, by decide⟩
theorem witness_ItineraryForms :
    (x0.guarded ⟨0, 2, .reg 6, false, 0⟩ = []) ∧
    (let s := { si id with wgs := [(0, w0.updQuad 0 named)] }
     let r : RArgs := ⟨0, 8, .reg 6, false, 31⟩
     s.Issues 0 0 (w0.updQuad 0 named) (named x0) ∧ (named x0).guarded r = 0 :: [] ∧ ((named x0).src 0 r.b).toNat = 1 ∧ (named x0).idem = none ∧
     s.itin.owner = some 0 ∧ s.itin.st ≠ 5 ∧ s.itin.run? 1 = some run0 ∧ run0.phase < 4 ∧ run0.done = false ∧
     ((named x0).pair 0 8).toNat % 128 = 0 ∧ s.isLocal 0 ((named x0).pair 0 8) = true ∧ dlOf ((named x0).pair 0 8) = 0xC0 ∧
     run0.names.length + 1 ≤ eOutn (s.itin.d1 1)) ∧
    -- ITLD with route 0, a route that may hold a table, and one that may not
    (s0.Issues 0 0 w0 x0 ∧ x0.pair x0.lowest 2 = 0 ∧ (routed x0).pair 0 2 ≠ 0 ∧ sr.isLocal 0 ((routed x0).pair 0 2) = true ∧
      ((routed x0).pair 0 2).toNat % 64 = 0 ∧ ((routed x0).pair 0 2 + 32).toNat % 64 ≠ 0) ∧
    (∀ i ∈ [Instr.itld ⟨4, 8, 0⟩, .itgo ⟨4, 0, 0⟩, .itstop ⟨4, 0, 0⟩],
      let y : Quad := { x0 with await := some ⟨.q5 i, 0, 0⟩ }
      (sq (fun _ => y)).Issues 0 0 (w0.updQuad 0 (fun _ => y)) y ∧ y.resume = none ∧ x0.pair x0.lowest 8 = 0) ∧
    (s0.itin.owner = none ∧ s0.itin.st ≠ 2 ∧ s0.itin.open = [] ∧ ({ s0.itin with owner := some 3 } : Itin).owner.any (fun o => o != w0.tenant) = true) ∧
    (∃ img, sr.itin.owner = none ∧ sr.itin.open = [] ∧ (routed x0).pair 0 2 ≠ 0 ∧ sr.readImage 0 ((routed x0).pair 0 2) = .ok img ∧ sr.imageBad 0 img = true) ∧
    ((mkRoute 0 1 0 0 0).toNat % 64 = 0 ∧ ∃ e, s0.readImage 0 (mkRoute 0 1 0 0 0) = .error e) ∧ ((si (fun t => { t with st := 3 })).itin.open ≠ []) ∧
    ((si id).itin.owner = some w0.tenant ∧ (si id).itin.hostMark = false ∧ (si id).itin.st = 2 ∧ (si (fun t => { t with st := 3 })).itin.st = 3 ∧
      (si (fun t => { t with st := 1 })).itin.st = 1 ∧ (si (fun t => { t with hostMark := true })).itin.hostMark = true ∧ (si (fun t => { t with st := 5 })).itin.st = 5 ∧
      ({ si id with host := { s0.host with ready := BitVec.twoPow 672 640 } } : State).isReady 640 = true) ∧
    (255 < (256 : Word).toNat + 0 ∧ (255 : Word).toNat < 256 ∧ 0x100 / 256 % 2 = 1 ∧ (si id).itin.statDone 0 0 = false ∧ (si id).itin.statDone 1 0 = true ∧
      s0.itin.owner ≠ some w0.tenant ∧ 512 ≤ ((x0.setReg 0 5 512).reg 0 5).toNat) ∧
    (let y : Quad := { x0 with await := some ⟨.itstat ⟨6, 5, 0x101⟩, 0, 0⟩ }
     (sq (fun _ => y)).Issues 0 0 (w0.updQuad 0 (fun _ => y)) y ∧ y.resume = none ∧ w0.halt = none) := by
  refine ⟨by decide, ⟨⟨rfl, rfl, rfl⟩, by decide, by decide, rfl, rfl, by decide, rfl, by decide, rfl, by decide, by decide, by decide, by decide⟩,
    ⟨⟨rfl, rfl, rfl⟩, by decide, by decide, by decide, by decide, by decide⟩, ?_, ⟨rfl, by decide, rfl, by decide⟩, ⟨_, rfl, rfl, by decide, rfl, by decide⟩,
    ⟨by decide, _, rfl⟩, by decide, ⟨rfl, rfl, rfl, rfl, rfl, rfl, rfl, by simp [State.isReady]⟩, by decide, issues_sq _, rfl, rfl⟩
  intro i h
  exact ⟨issues_sq _, rfl, by decide⟩

/-- A fault of lane 1 at the quad's place. -/
def fault0 : FaultInfo := ⟨cALIGN, 0, 0, 0, progRoute, 2, progRoute + 4, false⟩
/-- A halt for it, in a stage. -/
def haltAt (stage : HaltStage) (cycles : Nat) : Halt := ⟨0, fault0, progCl 0, false, false, stage, cycles, none, 0⟩
def halted (stage : HaltStage) (w : Wg) : Wg := { w with halt := some (haltAt stage 0) }
/-- The tenant has a handler. -/
def withTvec (s : State) : State := { s with sched := { s.sched with csrs := [(0, { SupCsr.init with tvec := progRoute })] } }
/-- The workgroup `w` in slot 0, with a handler and the operations `fs` in flight. -/
def shf (w : Wg) (fs : Tab Flight) : State := withTvec { s0 with wgs := [(0, w)], flights := fs, nextId := 9 }
theorem keyed_shf (w : Wg) (fs : Tab Flight) (hq : (w.quads.map (·.1)).Pairwise (· < ·)) (hf : (fs.map (·.1)).Pairwise (· < ·)) (hn : ∀ e ∈ fs, e.1 < 9) :
    (shf w fs).Keyed :=
  ⟨by simp [shf, withTvec], hf, hn, by intro e he; rw [List.mem_singleton.1 he]; exact hq, by intro e h; exact absurd h (List.not_mem_nil)⟩
/-- A load that waits behind a held store to the same line. -/
def behind : Tab Flight := [(2, op0 .store [(0, part0 .held .dev)]), (3, op0 (.load 4 false none) [(0, part0 .flying .dev)])]

theorem witness_HandlerEntry :
    (let v := halted .stopping { w0 with quads := [(0, x0), (9, { x0 with skid := 3 })], gangs := [(0, ⟨true, [], 0⟩), (1, ⟨true, [], 0⟩)] }
     let s := shf v []
     s.Keyed ∧ s.wg? 0 = some v ∧ v.quads.find 0 = some x0 ∧ v.halt = some (haltAt .stopping 0) ∧ s.stoppedFor 0 v (haltAt .stopping 0) x0 = true ∧
     s.withdrawn v.uid (.quad 0 0) false = [] ∧ v.quads.find 9 = some { x0 with skid := 3 } ∧ x0.wins = [] ∧ x0.resume = none ∧ x0.depth + 64 ≤ 448 ∧
     448 < ({ x0 with depth := 385 } : Quad).depth + 64 ∧ (s.csr (dieOf 0) v.tenant).tvec ≠ 0) ∧
    -- a load that is withdrawn, and a window whose destination is waited for
    (let y : Quad := { x0 with wins := [⟨3, [4], 0⟩], resume := some (progCl 0, 1) }
     let v := halted .stopping { w0 with quads := [(0, y)], gangs := [(0, ⟨true, [], 0⟩)] }
     let s := shf v behind
     s.Keyed ∧ s.stoppedFor 0 v (haltAt .stopping 0) y = true ∧ (∀ u ∈ y.wins, ∃ e ∈ s.withdrawn v.uid (.quad 0 0) false, e.1 = u.op) ∧
     ∃ u ∈ y.wins, ∀ e ∈ (shf v []).withdrawn v.uid (.quad 0 0) false, e.1 ≠ u.op) :=
  ⟨⟨keyed_shf _ _ (by decide) (by decide) (by decide), rfl, rfl, rfl, by decide, rfl, rfl, rfl, rfl, by decide, by decide, by decide⟩,
    keyed_shf _ _ (by decide) (by decide) (by decide), by decide, by decide, ⟨3, [4], 0⟩, by decide, by decide⟩
/-- The quad in the handler of a fault that its shadow keeps, with the withdrawn instructions and what an earlier RETT left. -/
def inHandler (sh : Shadow) : Quad := { x0 with shadow := some sh, sup := true, depth := 64 }
def shadow0 (rest : List Redo) (pos : Cl) : Shadow := ⟨15, [], 0, [], 0, [], progCl 0, fault0, pos, 4, [⟨progCl 0, 1, 2, false⟩], rest, none, none⟩
theorem witness_ReturnFromHandler :
    (∀ e ∈ [(([] : List Redo), progCl 0), ([], (progCl 0).next 1), ([⟨progCl 0, 1, 3, false⟩], progCl 0), ([⟨progCl 0, 1, 3, true⟩], progCl 0),
        ([⟨progCl 1, 1, 3, false⟩], progCl 0)],
      let sh := shadow0 e.1 e.2
      let y := inHandler sh
      let v := halted .handler (w0.updQuad 0 (fun _ => y))
      (shf v behind).Keyed ∧ (shf v behind).Issues 0 0 v y ∧ y.shadow = some sh ∧ v.halt = some (haltAt .handler 0) ∧ sh.fault.cause ≠ cPREEMPT ∧
        ∀ e ∈ (shf v behind).wgs, e.2.unit = v.unit → e.2.preempt = none) ∧
    ((shadow0 [] (progCl 0)).rest = [] ∧ (shadow0 [] (progCl 0)).pos = (shadow0 [] (progCl 0)).resume.issued ∧
      (shadow0 [] ((progCl 0).next 1)).pos ≠ (shadow0 [] (progCl 0)).resume.issued ∧ (progCl 0).issued = progCl 0 ∧ (progCl 1).issued ≠ progCl 0) ∧
    -- a skip over a header, and over an instruction outside the module
    ((Cl.start progRoute).rem = 0 ∧ (progCl 0).rem ≠ 0 ∧ fault0.fetch = false ∧ (sa s0).fetch 0 [] away0 = .ask ∧ (⟨away0, 1, 2, 0, none⟩ : Cl).rem ≠ 0) ∧
    (s0.fetch w0.tenant x0.got (progCl 0).pc ≠ .ask ∧ (haltAt .handler 0).imprecise = false ∧ ({ haltAt .handler 0 with imprecise := true } : Halt).imprecise = true) ∧
    (∀ e ∈ behind, (e.2.parts.map (·.1)).Nodup ∧ ∀ c, e.2.job ≠ .copy c) ∧
    ((0 : BitVec 2).toNat < 2 ∧ (1 : BitVec 2).toNat < 2 ∧ (2 : BitVec 2).toNat = 2) := by
  refine ⟨?_, by decide, by decide, by decide, ?_, by decide⟩
  · intro e he
    refine ⟨keyed_shf _ _ (List.pairwise_singleton ..) (by decide) (by decide), ⟨rfl, rfl, rfl⟩, rfl, rfl, by show cALIGN ≠ cPREEMPT; decide, ?_⟩
    intro u hu _
    rw [List.mem_singleton.1 hu]
    rfl
  · intro e he
    simp only [behind, List.mem_cons, List.not_mem_nil, or_false] at he
    rcases he with rfl | rfl <;> exact ⟨by decide, fun c h => by cases h⟩
theorem witness_HeldStores :
    (∀ job ∈ [Job.store, .strl none],
      let p : Part := { part0 .arrived .dev with accs := [⟨0, progRoute + 0x100, 4, 0, 0, 0⟩], joint := (3, 2) }
      let f : Flight := { op0 job [(0, p)] with queue := 4 }
      let s : State := { s0 with flights := [(2, op0 .store [(0, part0 .held .dev)]), (3, f)], nextId := 4 }
      s.part? 3 0 = some (f, p) ∧ f.sup = false ∧ s.resident w0.uid = some (0, w0) ∧ s.isSaved f.uid = false ∧ s.mayAll (s.membersOf f p) = true ∧
        s.bridgeMet f p = true) ∧
    (let p : Part := { part0 .arrived .dev with accs := [⟨0, progRoute + 2 ^ 21, 4, 0, 0, 0⟩, ⟨1, progRoute + 2 ^ 21 + 4, 4, 0, 0, 0⟩] }
     let f := op0 .store [(0, p)]
     let s : State := { sf f id with tab := { s0.tab with regions := Tab.set (0, 0) s0.tab.regions 0 (0x2000001F0, 0) } }
     s.part? 2 0 = some (f, p) ∧ s.mayAll (s.membersOf f p) = true ∧ s.membersOf f p = [(2, 0)] ∧ s.bridgeMet f p = true ∧
       s.lookup f.tenant f.job.kind (progRoute + 2 ^ 21) = .error ⟨cEXTENT_ABSENT, 4, 1⟩ ∧ s.twins f p = [] ∧ f.parts = [(0, p)] ∧ f.faults = [] ∧ (0 : Nat) < 1 ∧ 1 < 4) := by
  refine ⟨?_, rfl, by decide, by decide, by decide, rfl, by decide, rfl, rfl, by decide, by decide⟩
  intro job h
  simp only [List.mem_cons, List.not_mem_nil, or_false] at h
  rcases h with rfl | rfl <;> exact ⟨rfl, rfl, rfl, by decide, by decide, by decide⟩
theorem witness_FaultsAndUnitEnds :
    (s0.wg? 0 = some w0 ∧ w0.halt = none ∧ w0.unit = 0 ∧ w0.unit ≠ 1) ∧
    (cREMOTE_ERROR ∈ [0x1C, 0x25, 0x26, 0x29, 0x2A, 0x2B, 0x2C, 0x2D, 0x2E, 0x33, 0x37] ∧ cALIGN ∉ [0x1C, 0x25, 0x26, 0x29, 0x2A, 0x2B, 0x2C, 0x2D, 0x2E, 0x33, 0x37] ∧
      (s0.csr (dieOf 0) w0.tenant).tvec = 0 ∧ ((withTvec s0).csr (dieOf 0) w0.tenant).tvec ≠ 0) ∧
    -- a halt in which a lower quad, another quad, the handler and a sequencer fault
    (let h : Halt := { haltAt .stopping 0 with origin := 5 }
     let v : Wg := { w0 with quads := [(2, x0), (5, x0)], halt := some h }
     (shf v []).wg? 0 = some v ∧ h.stage = .stopping ∧ h.cycles = 0 ∧ 2 < h.origin ∧ h.origin < 64 ∧ 2 < 64 ∧ ¬ (h.stage = .stopping ∧ h.cycles = 0 ∧ 5 < h.origin) ∧
       v.quads.find h.origin = some x0 ∧ x0.shadow = none ∧ x0.cl.issued = h.pos ∧ ((shf v []).csr (dieOf 0) v.tenant).tvec ≠ 0) ∧
    -- the same in an end of this cycle, of a unit with another member, and in one of an earlier cycle
    (let h : Halt := { haltAt .ending 0 with origin := 5 }
     (h.stage = .ending ∧ h.sup = false ∧ h.cycles = 0 ∧ 2 < h.origin) ∧ (halted .ending w0).halt.any (fun g => g.stage == .ending && g.cycles == 0) = true ∧
       ({ w0 with halt := some (haltAt .ending 1) } : Wg).halt.any (fun g => g.stage == .ending && g.cycles == 0) = false ∧ (haltAt .ending 1).cycles ≠ 0) ∧
    ((haltAt .handler 0).stage = .handler ∧ (haltAt .stopping 0).stage ≠ .handler ∧ (haltAt .stopping 0).stage ≠ .ending) :=
  ⟨⟨rfl, rfl, rfl, by decide⟩, ⟨by decide, by decide, by decide, by decide⟩,
    ⟨rfl, rfl, rfl, by decide, by decide, by decide, by decide, rfl, rfl, rfl, by decide⟩, by decide, rfl, by decide, by decide⟩
theorem witness_SupervisorCsrForms :
    s0.Issues 0 0 w0 x0 ∧ (4 : BitVec 6).toNat % 2 = 0 ∧ (5 : BitVec 6).toNat % 2 = 1 ∧ (isDev progRoute = true ∧ offOf progRoute = 0 ∧ xlOf progRoute % 2 = 0) ∧
    ¬ (isDev (0 : W64) = true) ∧ (0xFF01 : Word).toNat / 2 % 2 ^ 7 = 0 ∧
    (0x0002 : Word).toNat / 2 % 2 ^ 7 ≠ 0 ∧ (0x80 : Word).toNat / 2 % 2 ^ 7 ≠ 0 := ⟨⟨rfl, rfl, rfl⟩, by decide⟩

/-- The state with two dwords at the route of the pair v2:3, and a number in v8. -/
def st (d0 d1 : Nat) (v : Word) : State :=
  let x := (routed x0).setReg 0 8 v
  { sr with
    wgs := [(0, wr.updQuad 0 (fun _ => x))], mem := Memory.writeN (Memory.writeN [] (Memory.key 0 0x80) 8 d0) (Memory.key 0 0x88) 8 d1
    tab := { sr.tab with hypervisor := some 0, grants := [(0, ⟨0, 4, 0, 4⟩)] }
    host := { sr.host with ready := BitVec.twoPow 672 576 } }
theorem issues_st (d0 d1 : Nat) (v : Word) : (st d0 d1 v).Issues 0 0 (wr.updQuad 0 (fun _ => (routed x0).setReg 0 8 v)) ((routed x0).setReg 0 8 v) :=
  ⟨rfl, rfl, rfl⟩
/-- How an image may be read: at an unaligned route, a bad host half, a route that level 0 refuses, one that is asked for, and when its words have come. -/
theorem witness_images :
    (((routed x0).setReg 0 2 0x81).pair 0 2).toNat % 32 ≠ 0 ∧ ((routed x0).pair 0 2).toNat % 32 = 0 ∧
    (∃ o, (st 0 0 0).level0 0 .load none ((routed x0).pair 0 2) = .ok o) ∧ (hostBad (BitVec.ofNat 64 (2 ^ 57)) = true ∧ 2 ^ 57 % 32 = 0) ∧
    (away0.toNat % 32 = 0 ∧ hostBad away0 = false ∧ x0.got.find? (fun e => e.1 == away0) = none ∧ s0.level0 0 .load none away0 = .error ⟨cRANGE_MISS, 0, 1⟩ ∧
      ∃ o, (sa s0).level0 0 .load none away0 = .ok o) ∧
    (let got : List (W64 × Word) := [(away0, 1), (away0 + 4, 2), (away0 + 8, 3), (away0 + 12, 4)]
     ∀ j, j < 2 → ∃ lo hi, got.find? (fun e => e.1 == away0 + BitVec.ofNat 64 (8 * j)) = some lo ∧
       got.find? (fun e => e.1 == away0 + BitVec.ofNat 64 (8 * j + 4)) = some hi) := by
  refine ⟨by decide, by decide, ⟨_, rfl⟩, ⟨by decide, by decide⟩, ⟨by decide, by decide, rfl, rfl, _, rfl⟩, ?_⟩
  intro got j hj
  match j, hj with
  | 0, _ => exact ⟨_, _, rfl, rfl⟩
  | 1, _ => exact ⟨_, _, rfl, rfl⟩
theorem witness_TableForms :
    ((st 0 0 31).Issues 0 0 (wr.updQuad 0 (fun _ => (routed x0).setReg 0 8 31)) ((routed x0).setReg 0 8 31) ∧ (∀ ops d, (routed x0).await.map (·.what) ≠ some (.drain ops d)) ∧
      ((routed x0).setReg 0 8 31).reg 0 8 = 31 ∧ (st 0 0 31).tab.hypervisor = some wr.tenant ∧ s0.tab.hypervisor ≠ some w0.tenant ∧ s0.tdi 0 = .unlocked ∧
      4096 ≤ (4096 + 31 : Nat) ∧ 32 / 32 % 8 ≠ 0 ∧ (4096 + 31) / 32 % 8 = 0) ∧
    -- RTSET: an image that is refused, one that overlaps, one that takes a right away from an entry that an access has passed
    (let e : RangeImage := ⟨BitVec.ofNat 64 (0x1F000000 + 2 + 2 * 2 ^ 12), 0x8000, 0, 0⟩
     e.d0.toNat / 2 ^ 38 = 0 ∧ e.d3 = 0 ∧ (∀ j, j < 8 → ¬ e.path j / 2 ^ 12 % 8 ≠ 0) ∧ ¬ e.hi < e.lo ∧ e.v = true ∧ 2 ^ 15 ≤ e.path 0 ∧ e.lo ≠ 0 ∧ e.lo = 2 ∧ e.hi = 2 ∧
       (s0.selfpl 0).toNat < e.lo ∧ (∀ j, (s0.range 0 j).v = true → j = 32) ∧ ({ e with d3 := 1 } : RangeImage).d3 ≠ 0 ∧ ((sa s0).range 0 0).v = true ∧
       ((sa s0).range 0 0).lo = 1) ∧
    -- RGSET: foreign, bad, and good images
    (let g := (st 0 0 1).grant 0 0
     let e : W64 × W64 := (BitVec.ofNat 64 (2 ^ 32), 1)
     ¬ (1 < g.sl ∨ g.sl + g.slN ≤ 1 ∨ rgXbase e < g.x ∨ g.x + g.xN < rgXbase e + rgLimit e) ∧ g.sl + g.slN ≤ 4 ∧ e.1.toNat / 2 ^ 43 = 0 ∧ e.1.toNat / 2 ^ 30 % 4 = 0 ∧
       e.2.toNat / 2 ^ 17 = 0 ∧ rgOwner e = 0 ∧ 0 < rgLimit e ∧ rgLimit e ≤ 1024 ∧ rgEnc e = false ∧ rgV e = false ∧ rgLimit (0, 0) = 0) ∧
    -- DMSET
    ((st 0 0 1).isReady 576 = true ∧ s0.isReady 576 = false ∧ (255 : Nat) < 256 ∧ (0x20 : W64).getLsbD 5 = true ∧
      s0.poolSize 0 0 = 0 ∧ sp.poolSize 0 0 ≠ 0) := by
  refine ⟨⟨issues_st _ _ _, (by intro ops d h; cases h), by decide, rfl, by decide, rfl, by decide, by decide, by decide⟩,
    ⟨by decide, by decide, by decide, by decide, by decide, by decide, by decide, by decide, by decide, by decide, ?_, by decide, by decide, by decide⟩, by decide,
    by simp [State.isReady, st], by simp [State.isReady, s0, State.reset], by decide⟩
  intro j h
  exact absurd h (by simp [State.range, s0, State.reset, Tables.forProgram, Tab.get, Tab.find, RangeImage.v])

/-- The state with base-die requests, frames and extents of stack 0: extent 0 is frame 0, extent 1 absent, frames 0 and 5 granted. -/
def sb (r : BaseReq) : State :=
  { s0 with tab := { s0.tab with
      regions := [(0, (BitVec.ofNat 64 (2 * 2 ^ 32 + 0x1F0), 0))], reqs := [(0, [r])], frames := [(0, ⟨some 0, true, false⟩), (5, ⟨some 0, false, false⟩)] } }
/-- Extent 0 of stack 0 is moving. -/
def moving (s : State) : State := { s with tab := { s.tab with extents := Tab.set (BitVec.ofNat 32 0) s.tab.extents 0 (mkExtent 0 ||| BitVec.ofNat 32 (2 ^ 30)) } }
/-- All four slots of stack 0 are in use. -/
def fullMigs : Tab Mig := [(0, ⟨0, 0, 5, 0, 2, false, 0⟩), (1, ⟨0, 0, 5, 0, 2, false, 0⟩), (2, ⟨0, 0, 5, 0, 2, false, 0⟩), (3, ⟨0, 0, 5, 0, 2, false, 0⟩)]
/-- Frame `f` of stack 0 is free for the tenant of a request. -/
def freeFrame (s : State) (r : BaseReq) (f : Nat) : Prop :=
  ∃ z ∈ s.tab.frames, z.1 / Config.frames = 0 ∧ z.1 % Config.frames = f ∧ z.2.owner = some r.tenant ∧ z.2.mapped = false ∧ z.2.pool = false
theorem witness_ExtentsAndBaseDie :
    (sr.Issues 0 0 wr (routed x0) ∧ HasRoom sr 0 0 wr 1 ∧ ((routed x0).reg 0 8).toNat < 2 ^ 26 ∧ ((routed x0).reg 0 9).toNat < 2 ^ 17 ∧
      sr.isLocal 0 ((routed x0).pair 0 2) = true ∧ ((routed x0).pair 0 2).toNat % 8 = 0 ∧ ¬ ((routed x0).reg 0 3).toNat < 2 ^ 28) ∧
    (rgV (sr.region 0 0) = true ∧ rgOwner (sr.region 0 0) = 0 ∧ 0 < rgLimit (sr.region 0 0) ∧ xtP (sr.extent 0 0) = true ∧ xtMig (sr.extent 0 0) = false ∧
      ¬ rgV (sr.region 0 1) = true ∧ xtP ((sb ⟨false, 0, 0, 0, 0⟩).extent 0 1) = false ∧ xtP ((moving sr).extent 0 0) = true ∧ xtMig ((moving sr).extent 0 0) = true) ∧
    -- MAPX: no region, a present extent, no frame of the two kinds, and a frame of the two kinds
    (∀ r ∈ [(⟨false, 0, 1, 5, 2⟩ : BaseReq), ⟨false, 0, 0, 5, 2⟩, ⟨false, 0, 0x1000, 6, 2⟩, ⟨false, 1, 0x8001000, 6, 2⟩, ⟨false, 0, 0x1000, 5, 2⟩, ⟨false, 0, 0x8001000, 6, 2⟩],
      Tab.get [] (sb r).tab.reqs 0 = r :: [] ∧ r.migrate = false) ∧
    (let s := sb ⟨false, 0, 0x1000, 5, 2⟩
     rgV (s.region 0 1) = false ∧ rgV (s.region 0 0) = true ∧ rgOwner (s.region 0 0) = 0 ∧ 1 < rgLimit (s.region 0 0) ∧ rgXbase (s.region 0 0) = 0 ∧
     xtP (s.extent 0 0) = true ∧ xtP (s.extent 0 1) = false ∧ (5 < Config.frames ∧ freeFrame s ⟨false, 0, 0x1000, 5, 2⟩ 5) ∧
     ¬ freeFrame s ⟨false, 0, 0x1000, 6, 2⟩ 6 ∧ (∀ f, ¬ freeFrame { s with tab := { s.tab with frames := [] } } ⟨false, 0, 0x8001000, 6, 2⟩ f) ∧
     (0x8001000 : Word).getLsbD 27 = true ∧ (0x1000 : Word).getLsbD 27 = false ∧ (0x4001000 : Word).getLsbD 26 = true) ∧
    -- MIGX: the same, an extent that moves, and no slot
    (∀ r ∈ [(⟨true, 0, 1, 5, 2⟩ : BaseReq), ⟨true, 0, 0x1000, 5, 2⟩, ⟨true, 0, 0, 5, 2⟩, ⟨true, 0, 0, 6, 2⟩],
      Tab.get [] (sb r).tab.reqs 0 = r :: [] ∧ r.migrate = true) ∧
    (let s := sb ⟨true, 0, 0, 5, 2⟩
     xtP (s.extent 0 0) = true ∧ xtMig (s.extent 0 0) = false ∧ xtMig ((moving s).extent 0 0) = true ∧ freeFrame s ⟨true, 0, 0, 5, 2⟩ 5 ∧
     ¬ freeFrame s ⟨true, 0, 0, 6, 2⟩ 6 ∧ (0 < 4 ∧ (s.tab.migs.find (0 * 4 + 0)).isNone = true) ∧
     ∀ j, j < 4 → ¬ (fullMigs.find (0 * 4 + j)).isNone = true) ∧
    (let s : State := { s0 with tab := { s0.tab with migs := [(0, ⟨0, 0, 5, 16383, 2, false, 0⟩), (1, ⟨1, 6, 7, 16384, 3, false, 1⟩)] } }
     s.tab.migs.find (0 * 4 + 0) = some ⟨0, 0, 5, 16383, 2, false, 0⟩ ∧ s.tab.migs.find (0 * 4 + 1) = some ⟨1, 6, 7, 16384, 3, false, 1⟩ ∧ s.mem.wf = true ∧
     16383 < 16384 ∧ 7 < Config.frames) := by
  refine ⟨⟨issues_sr, hasRoom_sr 1 (by decide), by decide⟩, by decide, by decide, ⟨by decide, by decide, by decide, by decide, by decide, by decide, by decide,
    ⟨by decide, _, List.mem_cons_of_mem _ (List.mem_singleton.2 rfl), by decide⟩, ?_, ?_, by decide⟩, by decide, ⟨by decide, by decide, by decide,
    ⟨_, List.mem_cons_of_mem _ (List.mem_singleton.2 rfl), by decide⟩, ?_, by decide, by decide⟩, by decide⟩
  · rintro ⟨z, hz, h⟩
    simp only [sb, List.mem_cons, List.not_mem_nil, or_false] at hz
    rcases hz with rfl | rfl <;> revert h <;> decide
  · rintro f ⟨z, hz, -⟩
    cases hz
  · rintro ⟨z, hz, h⟩
    simp only [sb, List.mem_cons, List.not_mem_nil, or_false] at hz
    rcases hz with rfl | rfl <;> revert h <;> decide

/-- A second workgroup, in slot 1, of a tenant, with or without PE. -/
def s2 (tenant : Nat) (shape : W64) : State :=
  { s0 with
    wgs := [(0, w0), (1, { w0 with tenant := tenant, unit := 7, uid := 8, shape := shape })]
    sched := { s0.sched with csrs := [(0, { SupCsr.init with preemptcfg := 0x100 })] } }
/-- A slot's route in the pair v2:3, and the words that have been read there. -/
def atSlot (got : List (W64 × Word)) : Quad := { x0 with regs := [(3, 0x80000000)], got := got }
/-- What CTXLD has read: the words of the card at 0, and of SHAPE at 208. -/
def readBack (card shape : Word) : List (W64 × Word) :=
  [(progRoute, card), (progRoute + 4, 0x80000000), (progRoute + 208, shape), (progRoute + 212, 0)]

theorem recordRead_back : recordRead progRoute (readBack 0 1) = [(7, 0x80), (208, 1)] ∧ recordRead progRoute (readBack 1 1) = [(0, 1), (7, 0x80), (208, 1)] ∧
    recordRead progRoute (readBack 0 2) = [(7, 0x80), (208, 2)] := ⟨rfl, rfl, rfl⟩
theorem witness_PreemptionAndContexts :
    ((s2 0 1).Issues 0 0 w0 x0 ∧ 24 ≤ 96 / 2 ^ 2 % 32 ∧ 6 ≤ 768 / 2 ^ 7 % 8 ∧ 23 * 4 + 3 < 2 ^ 12 ∧ 2 ^ 12 ≤ 4096) ∧
    (((x0.setReg 0 2 1).reg 0 2).toNat = 1 ∧ s0.wg? 1 = none ∧ (∃ u, (s2 3 1).wg? 1 = some u ∧ u.tenant ≠ w0.tenant) ∧
      (∃ u, (s2 0 1).wg? 1 = some u ∧ u.tenant = w0.tenant ∧ u.pe = false) ∧
      (let s := s2 0 (BitVec.ofNat 64 (2 ^ 41 + 1))
       ∃ u, s.wg? 1 = some u ∧ u.tenant = w0.tenant ∧ u.pe = true ∧ u.halt = none ∧
        (∀ e ∈ s.wgs, e.2.preempt = none ∧ e.2.halt = none) ∧ s.slotRoom (dieOf 1) w0.tenant (s.unitWgs u.unit).length = true ∧
        ({ s with sched := s0.sched } : State).slotRoom (dieOf 1) w0.tenant (s.unitWgs u.unit).length = false ∧
        ({ u with halt := some (haltAt .handler 0) } : Wg).halt ≠ none ∧ ({ u with preempt := some cPREEMPT } : Wg).preempt ≠ none ∧
        ({ u with halt := some (haltAt .ending 0) } : Wg).halt = some (haltAt .ending 0) ∧ (haltAt .ending 0).stage = .ending) ∧
      (∃ v : Wg, v.pe = true ∧ (sw (fun _ => v)).wg? 0 = some v ∧ v.unit = w0.unit ∧ v.halt = none ∧ v.preempt = none)) ∧
    (let good := fun (r : W64) => isDev r = true ∧ offOf r = 0 ∧ xlOf r % 2 = 0
     ¬ good 0 ∧ good progRoute ∧ good away0 ∧ s0.level0 0 .load none away0 = .error ⟨cRANGE_MISS, 0, 1⟩ ∧ s0.level0 0 .store none away0 = .error ⟨cRANGE_MISS, 0, 1⟩ ∧
      (∃ o, s0.level0 0 .store none progRoute = .ok o) ∧ (∃ o, s0.level0 0 .load none progRoute = .ok o)) ∧
    ((∀ got ∈ [[], readBack 1 1, readBack 0 2, readBack 0 1], (sq (fun _ => atSlot got)).Issues 0 0 (w0.updQuad 0 (fun _ => atSlot got)) (atSlot got) ∧
        (atSlot got).pair (atSlot got).lowest 2 = progRoute) ∧
      (∃ e ∈ (atSlot (readBack 0 1)).got, e.1 = progRoute) ∧ (¬ ∃ e ∈ (atSlot []).got, e.1 = progRoute) ∧
      (∀ e ∈ w0.quads, e.1 < 64) ∧ s0.copiesDone w0.uid = true ∧
      (∃ e ∈ (sf (op0 (.cpl 1 []) []) id).flights, e.2.uid = w0.uid ∧ ∃ b d, e.2.job = .cpl b d) ∧
      ∃ e ∈ (sf (op0 .kst [(0, part0 .flying .dev)]) id).flights, e.2.uid = w0.uid ∧ e.2.job = .kst ∧ e.2.done = false) ∧
    (¬ ((recordRead progRoute (readBack 1 1)).readN 0 8 = w0.card.toNat ∧ (recordRead progRoute (readBack 1 1)).readN 208 8 = w0.shape.toNat) ∧
      ¬ ((recordRead progRoute (readBack 0 2)).readN 0 8 = w0.card.toNat ∧ (recordRead progRoute (readBack 0 2)).readN 208 8 = w0.shape.toNat) ∧
      ((recordRead progRoute (readBack 0 1)).readN 0 8 = w0.card.toNat ∧ (recordRead progRoute (readBack 0 1)).readN 208 8 = w0.shape.toNat) ∧
      ({ atSlot (readBack 0 1) with shadow := some (shadow0 [] (progCl 0)) } : Quad).shadow ≠ none) := by
  refine ⟨⟨⟨rfl, rfl, rfl⟩, by decide, by decide, by decide, by decide⟩,
    ⟨by decide, rfl, ⟨_, rfl, by decide⟩, ⟨_, rfl, rfl, by decide⟩, ⟨_, rfl, rfl, by decide, rfl, by decide, by decide, by decide, by decide, by decide, rfl, rfl⟩,
      ⟨{ w0 with shape := BitVec.ofNat 64 (2 ^ 41 + 1) }, by decide, rfl, rfl, rfl, rfl⟩⟩,
    ⟨by decide, by decide, by decide, rfl, rfl, ⟨_, rfl⟩, ⟨_, rfl⟩⟩,
    ⟨?_, by decide, by decide, by decide, by decide, ⟨_, List.mem_singleton.2 rfl, rfl, 1, [], rfl⟩, _, List.mem_singleton.2 rfl, rfl, rfl, rfl⟩, ?_⟩
  · intro got h
    exact ⟨issues_sq _, by revert h; revert got; decide⟩
  · rw [recordRead_back.1, recordRead_back.2.1, recordRead_back.2.2]
    decide

/-- A sequencer at the second word of a clause, k1 = 0x80000000_00000000 + 0x80, k2 = the tile descriptor base 0, 1 line. -/
def y0 (cls : Nat) : Seq := { Seq.begin progRoute 0 with cl := progCl cls, entered := none, k := [(1, progRoute + 0x80), (2, 0x4000)] }
def wm : Wg := { wr with mtx := { wr.mtx with seq := y0 4 } }
def wc : Wg := { wr with cpy := { wr.cpy with seq := y0 5 } }
def smx (f : Wg → Wg) : State := { s0 with wgs := [(0, f wm)], focus := some (.mtx 0) }
def scx (f : Wg → Wg) : State := { s0 with wgs := [(0, f wc)], focus := some (.cpy 0) }
theorem issues_mx : (smx id).SeqIssues 0 64 wm (y0 4) := ⟨.inl rfl, rfl, rfl, rfl⟩
theorem issues_cx : (scx id).SeqIssues 0 65 wc (y0 5) := ⟨.inr rfl, rfl, rfl, rfl⟩

theorem witness_SequencerScalarForms :
    (smx id).SeqIssues 0 64 wm (y0 4) ∧ (scx id).SeqIssues 0 65 wc (y0 5) ∧ seqTable.length = 8 ∧ (y0 4).pred 0 = false ∧ (y0 4).pred 0 ≠ true ∧
    (y0 4).cl.hdr + BitVec.ofInt 64 (4 * (0 : BitVec 16).toInt) = progRoute ∧
    ({ smx id with mem := Memory.writeN [] (Memory.key 0 0) 4 0x180FF000 } : State).targetAt 0 [] [4] progRoute = .header 0x180FF000 ∧
    (smx id).targetAt 0 [] [4] progRoute = .bad ∧ (scx id).targetAt 0 [] [5] (mkRoute 0 1 0 0 0) = .refused ⟨cDOMAIN_MISS, 2, 1⟩ ∧
    (sa (scx id)).targetAt 0 [] [5] away0 = .ask := ⟨issues_mx, issues_cx, rfl, by decide, by decide, by decide, rfl, rfl, rfl, rfl⟩
theorem witness_SequencerMemoryAndBarriers :
    ((smx id).SeqIssues 0 64 wm (y0 4) ∧ (smx id).flights = [] ∧ CleanAt (smx id) wm .load none ⟨0, (y0 4).reg 1, 8, 0, 0, 0⟩ ∧
      CleanAt (smx id) wm .store none ⟨0, (y0 4).reg 1, 8, 0, 0, 0⟩ ∧ ((y0 4).reg 1 + 4).toNat % 8 ≠ 0 ∧
      away0.toNat % 8 = 0 ∧ hostBad away0 = false ∧ (∀ kind ∈ [AccKind.load, .store], (smx id).level0 wm.tenant kind none away0 = .error ⟨cRANGE_MISS, 0, 1⟩)) ∧
    (let f : Flight := ⟨wm.uid, .mtx 0, 0, .kld 3, 0, 0, progCl 4, false, 0, 0, 0, [(0, { part0 .performed .dev with back := true })], [], false⟩
     let s : State := { smx id with flights := [(2, f)], nextId := 3 }
     s.flights.find 2 = some f ∧ f.party = seqParty 0 64 ∧ f.uid = wm.uid ∧ s.resident wm.uid = some (0, wm) ∧ f.done = true ∧ f.back = true ∧ f.values = [(0, 0)] ∧
     ¬ s.seqIdle 0 64 { wm with uid := wm.uid, unit := 1 } = True) ∧
    (let v : Wg := { wm with mseq := 1 }
     (smx (fun _ => v)).SeqIssues 0 64 v (y0 4) ∧ v.mseq.getLsbD 0 = true ∧ v.mseq.getLsbD 15 = false ∧ 64 ∉ (Tab.get (⟨0, []⟩ : Barrier) v.bars 0).arrived ∧
     (smx (fun _ => v)).seqIdle 0 64 v ∧ ∃ e ∈ v.quads, e.2.live = true) ∧
    (let v : Wg := { wm with mseq := 1, barq := [1], bars := [(0, ⟨0, [64]⟩)] }
     (smx (fun _ => v)).SeqIssues 0 64 v (y0 4) ∧ 64 ∈ (Tab.get (⟨0, []⟩ : Barrier) v.bars 0).arrived) := by
  refine ⟨⟨issues_mx, rfl, ⟨by decide, ⟨_, rfl⟩, by decide⟩, ⟨by decide, ⟨_, rfl⟩, by decide⟩, by decide, by decide, by decide, by decide⟩, ⟨rfl, rfl, rfl, rfl, rfl, rfl, rfl, ?_⟩,
    ⟨⟨.inl rfl, rfl, rfl, rfl⟩, by decide, by decide, by decide, ?_, ⟨(0, routed x0), by decide, rfl⟩⟩, ⟨.inl rfl, rfl, rfl, rfl⟩, by decide⟩
  · intro h
    have h1 : State.seqIdle _ 0 64 { wm with uid := wm.uid, unit := 1 } := h ▸ trivial
    have := h1 _ (List.mem_singleton.2 rfl) rfl rfl
    exact absurd this (by decide)
  · intro e he
    exact absurd he (List.not_mem_nil)

/-- A layout of one row of 128 bytes: one line. -/
def ly0 : Layout := ⟨0, 0, BitVec.ofNat 64 (2 ^ 63 + 7 * 2 ^ 36), 0⟩
/-- Tiles 3 (one line), 4 and 5 (4 lines, at lines 0 to 3) and 6 (32 lines), all lines full. -/
def tiled (w : Wg) : Wg :=
  { w with
    tiles := [(3, ⟨0, 1⟩), (4, ⟨0, 4⟩), (5, ⟨0, 4⟩), (6, ⟨0, 32⟩)], full := (List.range 32).map (fun i => (i, ()))
    cpy := { w.cpy with ly := [(1, ly0)] } }
theorem ready {s : State} {w : Wg} {n : Nat} {t : Tile} (h : (tiled w).tiles.find n = some t) (hf : s.flights = [])
    (hl : ∀ i, i < t.nl → (tiled w).full.has (t.base + i) = true) : ReadyTile s (tiled w) n t :=
  ⟨h, hl, by simp [hf]⟩
theorem free {s : State} {w : Wg} {n : Nat} {t : Tile} (h : (tiled w).tiles.find n = some t) (hf : s.flights = [])
    (hg : (tiled w).mtx.gather = none) : FreeTile s (tiled w) n t :=
  ⟨h, by simp [hf], by simp [hf], hg⟩

/-- A copy of tile 4 that is not finished: a CPT, and a CPR with lines still to read. -/
def copies : List Copy := [⟨.cpt, 4, 0, 4, false, false, ly0, 0, [0], [], [], [], 0, 1⟩, ⟨.cpr, 4, 0, 4, true, false, ly0, 0, [2], [], [], [], 0, 1⟩]
def copying (c : Copy) : State := { scx tiled with flights := [(2, ⟨wc.uid, .cpy 0, 0, .copy c, 0, 0, progCl 5, false, 0, 0, 0, [], [], false⟩)], nextId := 3 }
theorem busy_copying : ∀ c ∈ copies, ∃ e ∈ (copying c).flights, ∃ c, e.2.uid = (tiled wc).uid ∧ e.2.job = .copy c ∧ c.tile = 4 ∧ (c.kind = .cpt ∨ c.todo ≠ []) := by
  intro c hc
  refine ⟨_, List.mem_singleton.2 rfl, c, rfl, rfl, ?_⟩
  revert c
  decide

theorem witness_TileAndLayoutForms :
    ((smx id).SeqIssues 0 64 wm (y0 4) ∧ ((y0 4).reg 2).toNat < 2 ^ 28 ∧ 0 + 1 ≤ wm.slines ∧ wm.tiles.find 4 = none ∧ 2 ^ 28 ≤ ((y0 4).reg 1).toNat ∧
      ((0x8000 : W64).toNat < 2 ^ 28 ∧ (0x8000 : W64).toNat / 2 ^ 14 % 2 ^ 14 ≠ 0 ∧ wm.slines < 0 + (0x8000 : W64).toNat / 2 ^ 14 % 2 ^ 14)) ∧
    (FreeTile (scx tiled) (tiled wc) 4 ⟨0, 4⟩ ∧ (scx tiled).SeqIssues 0 65 (tiled wc) (y0 5)) ∧
    (∀ c ∈ copies, (copying c).SeqIssues 0 65 (tiled wc) (y0 5) ∧ ((y0 5).reg 2).toNat < 2 ^ 28 ∧ ((tiled wc).tiles.find 4).isSome = true ∧ (tiled wc).halt = none ∧
      ∃ e ∈ (copying c).flights, ∃ c, e.2.uid = (tiled wc).uid ∧ e.2.job = .copy c ∧ c.tile = 4 ∧ (c.kind = .cpt ∨ c.todo ≠ [])) ∧
    ((scx id).SeqIssues 0 65 wc (y0 5) ∧ ly0.bad = false ∧ ({ ly0 with d3 := 1 } : Layout).bad = true ∧ (1 : W64).toNat % 2 ^ 32 % 32 ≠ 0 ∧
      (0x04000000 : W64).toNat % 2 ^ 32 / 2 ^ 26 ≠ 0 ∧ wc.slines * 128 ≤ (0x00100000 : W64).toNat % 2 ^ 21 ∧ (scx id).member 0 wc 9 = none ∧ (0x01200000 : W64).toNat / 2 ^ 21 % 32 = 9 ∧
      (0x03E00000 : W64).toNat % 2 ^ 32 / 2 ^ 21 = 31 ∧ (0x03E00000 : W64).toNat % 2 ^ 21 < wc.slines * 128 ∧ (0x03E00000 : W64).toNat % 32 = 0 ∧
      (scx id).member 0 wc 31 = some 0 ∧ (scx id).wg? 0 = some wc ∧
      (let d := fun (n : Nat) => BitVec.ofNat 64 (wc.scratch.bytes (0 + 8 * n) 8)
       (⟨d 0, d 1, d 2, d 3⟩ : Layout).bad = false) ∧
      (let v : Wg := { wc with scratch := [(24, 1)] }
       let d := fun (n : Nat) => BitVec.ofNat 64 (v.scratch.bytes (0 + 8 * n) 8)
       (⟨d 0, d 1, d 2, d 3⟩ : Layout).bad = true)) := by
  refine ⟨⟨issues_mx, by decide, by decide, rfl, by decide, by decide⟩, ⟨free rfl rfl rfl, .inr rfl, rfl, rfl, rfl⟩, ?_, issues_cx, by decide, by decide, by decide, by decide,
    by decide, rfl, by decide, by decide, by decide, by decide, rfl, rfl, by decide, by decide⟩
  exact fun c hc => ⟨⟨.inr rfl, rfl, rfl, rfl⟩, by decide, by decide, rfl, busy_copying c hc⟩
theorem witness_CopyForms :
    ((scx tiled).SeqIssues 0 65 (tiled wc) (y0 5) ∧ (tiled wc).tiles.find 7 = none ∧ (tiled wc).cpy.layout 1 = ly0 ∧ ly0.fits ((y0 5).reg 1) 1 = true ∧
      ly0.fits ((y0 5).reg 1) 4 = false ∧ FreeTile (scx tiled) (tiled wc) 3 ⟨0, 1⟩ ∧ ReadyTile (scx tiled) (tiled wc) 3 ⟨0, 1⟩ ∧ ReadyTile (scx tiled) (tiled wc) 4 ⟨0, 4⟩ ∧
      (tiled wc).pe = false) ∧
    (let v : Wg := { tiled wc with shape := BitVec.ofNat 64 (2 ^ 41) }
     v.pe = true ∧ (scx (fun _ => v)).SeqIssues 0 65 v (y0 5)) ∧
    ((0xFFFFFF : W64).toNat < 2 ^ 24 ∧ 2 ^ 24 ≤ ((y0 5).reg 1).toNat ∧ (scx tiled).flights = []) ∧
    (let v : Wg := { tiled wc with full := [] }
     (scx (fun _ => v)).SeqIssues 0 65 v (y0 5) ∧ v.tiles.find 3 = some ⟨0, 1⟩ ∧ ∃ i, i < 1 ∧ v.full.has (0 + i) = false) ∧
    (∀ c ∈ copies, (copying c).SeqIssues 0 65 (tiled wc) (y0 5) ∧ (tiled wc).tiles.find 4 = some ⟨0, 4⟩ ∧ (tiled wc).halt = none ∧
      (∃ e ∈ (copying c).flights, ∃ c, e.2.uid = (tiled wc).uid ∧ e.2.job = .copy c ∧ c.tile = 4 ∧ (c.kind = .cpt ∨ c.todo ≠ []))) ∧
    (let f : Flight := ⟨wc.uid, .cpy 0, 0, .kst, 0, 0, progCl 5, false, 0, 0, 0, [(0, part0 .flying .dev)], [], false⟩
     let s : State := { scx tiled with flights := [(2, f)], nextId := 3 }
     0 < (s.flights.filter (fun e => e.2.uid == (tiled wc).uid && e.2.party == .cpy 0 && !e.2.performed)).length) :=
  ⟨⟨⟨.inr rfl, rfl, rfl, rfl⟩, rfl, by decide, by decide, by decide, free rfl rfl rfl, ready rfl rfl (by decide), ready rfl rfl (by decide), by decide⟩,
    ⟨by decide, .inr rfl, rfl, rfl, rfl⟩, ⟨by decide, by decide, rfl⟩, ⟨⟨.inr rfl, rfl, rfl, rfl⟩, rfl, 0, by decide, rfl⟩,
    fun c hc => ⟨⟨.inr rfl, rfl, rfl, rfl⟩, rfl, rfl, busy_copying c hc⟩, by decide⟩

/-- INT8 by INT8, K = 16, one scale. -/
def descI : W64 := BitVec.ofNat 64 (16 * 2 ^ 16 + 2 * 2 ^ 14 + 2 ^ 12 + 10 * 2 ^ 4 + 10)
/-- VQ16 by FP4, K = 32, one scale. -/
def descV : W64 := BitVec.ofNat 64 (32 * 2 ^ 16 + 2 ^ 12 + 9 * 2 ^ 4 + 15)
/-- The modular product, K = 4. -/
def descM : W64 := BitVec.ofNat 64 (4 * 2 ^ 16 + 3 * 2 ^ 14 + 2 ^ 12)
/-- The accumulators 0, 1 and 2 have the tags I, M and F; k5, k6 the descriptors, k7 the modulus 3. -/
def y4 : Seq := { y0 4 with k := [(5, descI), (6, descM), (7, 3)] }
def wx : Wg := tiled { wm with mtx := { wm.mtx with seq := y4, acc := [(0, ⟨.i, []⟩), (1, ⟨.m, []⟩)] } }
theorem good : GoodDesc descI (8, 64) (8, 64) 4 4 :=
  ⟨by decide, by decide, by decide, rfl, by decide, by decide, by decide, by decide, by decide, by decide⟩
/-- An MMAG under way: its gather, and what stands in the latch. -/
def gath (a : XArgs) (l : Option Latch) : Wg := { wx with mtx := { wx.mtx with gather := some a, latch := l } }
theorem witness_mmag_latch (a : XArgs) (l : Option Latch) :
    (smx (fun _ => gath a l)).SeqIssues 0 64 (gath a l) y4 ∧ (gath a l).mtx.gather = some a ∧ (gath a l).mtx.latch = l := ⟨⟨.inl rfl, rfl, rfl, rfl⟩, rfl, rfl⟩
theorem witness_MatrixForms :
    ((smx (fun _ => wx)).SeqIssues 0 64 wx y4 ∧ wx.tiles.find 9 = none ∧ ReadyTile (smx (fun _ => wx)) wx 4 ⟨0, 4⟩ ∧ ReadyTile (smx (fun _ => wx)) wx 5 ⟨0, 4⟩ ∧
      (∀ ga gb, ¬ GoodDesc (BitVec.ofNat 64 (2 ^ 32)) ga gb 4 4) ∧ (∀ ga gb, ¬ GoodDesc (BitVec.ofNat 64 (2 ^ 32)) ga gb 24 4) ∧
      ((wx.tiles.find 4).isSome = true ∧ ∃ t, ({ wx with full := [] } : Wg).tiles.find 4 = some t ∧ ∃ i, i < t.nl ∧ ({ wx with full := [] } : Wg).full.has (t.base + i) = false) ∧
      (dMode descI = 2 ∧ (wx.mtx.get 1).tag ≠ .i ∧ ¬ ((dMode descV = 0 ∧ (wx.mtx.get 2).tag ≠ .f) ∨ (dMode descV = 2 ∧ (wx.mtx.get 2).tag ≠ .i)) ∧
        GoodDesc descV (2, 128) (4, 128) 4 4 ∧ dFa descV = 15 ∧ wx.mtx.bookSet = false) ∧
      y4.reg 5 = descI ∧ GoodDesc descI (8, 64) (8, 64) 4 4 ∧ GoodDesc descI (8, 64) (8, 64) 24 4 ∧ GoodAcc wx.mtx 0 descI ∧ ReadyTile (smx (fun _ => wx)) wx 3 ⟨0, 1⟩) ∧
    (y4.reg 6 = descM ∧ descM.toNat / 2 ^ 32 = 0 ∧ descM.toNat % 2 ^ 12 = 0 ∧ dScf descM = 1 ∧ dMode descM = 3 ∧ dK descM ∈ [4, 8, 16] ∧ dK descM ≤ 4 ∧
      2 ≤ (y4.reg 7).toNat ∧ (y4.reg 7).toNat < 2 ^ 62 ∧ (wx.mtx.get 1).tag = .m ∧ (wx.mtx.get 0).tag ≠ .m ∧ (1 : W64).toNat < 2 ∧
      2 ^ 62 ≤ (0x4000000000000000 : W64).toNat) ∧
    (FreeTile (smx (fun _ => wx)) wx 6 ⟨0, 32⟩ ∧ (wx.mtx.get 0).tag ≠ .f ∧ ReadyTile (smx (fun _ => wx)) wx 6 ⟨0, 32⟩ ∧
      (33 : Nat) % 4 ≠ 3 ∧ 33 / 4 % 8 = 0 ∧ 33 < 2 ^ 6 ∧ 31 < 32 ∧ 8 ≤ 32) :=
  ⟨⟨⟨.inl rfl, rfl, rfl, rfl⟩, rfl, ready rfl rfl (by decide), ready rfl rfl (by decide),
      fun _ _ h => absurd h.high (by decide), fun _ _ h => absurd h.high (by decide), ⟨rfl, _, rfl, 0, by decide, rfl⟩,
      ⟨by decide, by decide, by decide, ⟨by decide, by decide, by decide, rfl, by decide, by decide, by decide, by decide, by decide, by decide⟩, by decide, rfl⟩, rfl, good,
      ⟨by decide, by decide, by decide, rfl, by decide, by decide, by decide, by decide, by decide, by decide⟩, ⟨by decide, by decide, by decide⟩,
      ready rfl rfl (by decide)⟩,
    by decide, free rfl rfl rfl, by decide, ready rfl rfl (by decide), by decide⟩

/-- A copy of tile 3's one line in flight, its line still to do. -/
def cp (kind : CopyKind) (todo : List Nat) (gens : List (Nat × Option (Nat × Nat))) (wrote : List (Nat × Nat)) : Copy :=
  ⟨kind, 3, 0, 1, false, false, ly0, progRoute + 0x80, todo, [], gens, wrote, 0, 1⟩
def cpf (c : Copy) (parts : Tab Part) : Flight := ⟨(tiled wc).uid, .cpy 0, 0, .copy c, 0, 0, progCl 5, false, 0, 0, 0, parts, [], false⟩
/-- The operation in flight beside a second workgroup of the unit in slot 4, core 1. -/
def scp (f : Flight) : State := { scx tiled with wgs := [(0, tiled wc), (4, { wr with uid := 9, gen := 5 })], flights := [(2, f)], nextId := 3 }

theorem witness_CopyEvents :
    (∀ c ∈ [cp .cpt [0] [] [], cp .cpto [0] [] [], cp .cpmc [0] [(1, some (4, 5)), (2, none)] [], cp .cpto [] [] []],
      (scp (cpf c [])).flights.find 2 = some (cpf c []) ∧ (cpf c []).job = .copy c ∧ (cpf c []).uid = (tiled wc).uid ∧
      (scp (cpf c [])).resident (tiled wc).uid = some (0, tiled wc) ∧ (scp (cpf c [])).wg? 0 = some (tiled wc) ∧ (cpf c []).done = true) ∧
    (0 ∈ (cp .cpt [0] [] []).todo ∧ (cp .cpt [0] [] []).base ≤ 0 ∧ acc0.key % 128 + acc0.size ≤ 128 ∧ (part0 .performed .dev).st = .performed) ∧
    ((scp (cpf (cp .cpto [0] [] []) [])).heldByMatrix (tiled wc) 3 = false) ∧
    (let c := cp .cpmc [0] [(1, some (4, 5)), (2, none)] []
     Tab.find c.gens 1 = some (some (4, 5)) ∧ Tab.find c.gens 2 = some none ∧ (1, 0) ∉ c.wrote ∧
     (∃ v, (scp (cpf c [])).wg? 4 = some v ∧ v.gen = 5)) ∧
    -- an engine that has stopped, and an earlier copy that still needs the line and sends it to core 1
    ((tiled wc).stopped (.copy (cp .cpt [0] [] [])) = false ∧
      ({ tiled wc with halt := some (haltAt (.saving cPREEMPT [.copy]) 0) } : Wg).stopped (.copy (cp .cpt [0] [] [])) = true) ∧
    (let d := cp .cpmc [0] [(1, some (4, 5))] []
     let s : State := { scp (cpf (cp .cpmc [0] [(1, some (4, 5))] []) []) with flights := [(2, cpf d []), (3, cpf (cp .cpmc [0] [(1, some (4, 5))] []) [])], nextId := 4 }
     s.flights.find 3 = some (cpf (cp .cpmc [0] [(1, some (4, 5))] []) []) ∧
     (∃ e ∈ s.flights, e.1 < 3 ∧ e.2.uid = (tiled wc).uid ∧ e.2.party = .cpy 0 ∧ e.2.job = .copy d) ∧ 0 ∈ d.todo ∧ d.kind = .cpmc ∧ Tab.find d.gens 1 = some (some (4, 5)) ∧
     d.base ≤ 0 ∧ 0 < d.base + d.nl ∧ (1, 0) ∉ d.wrote) := by
  refine ⟨?_, by decide, by decide, ⟨by decide, by decide, by decide, _, rfl, rfl⟩, by decide, rfl,
    ⟨_, List.mem_cons_self, by decide, rfl, rfl, rfl⟩, by decide, rfl, rfl, by decide, by decide, by decide⟩
  intro c h
  simp only [List.mem_cons, List.not_mem_nil, or_false] at h
  rcases h with rfl | rfl | rfl | rfl <;> exact ⟨rfl, rfl, rfl, rfl, rfl, rfl⟩
/-- A lane copy's batch of one lane, whose line access is `p`. -/
def batch (p : Part) : Flight := { op0 (.cpl 2 [(0, 0, wr.gen, 0)]) [(0, p)] with queue := 2 }
def sbatch (p : Part) (w : Wg) : State := { sr with wgs := [(0, w)], flights := [(2, batch p)], nextId := 3 }
def back (p : Part) : Part := { p with back := true }
theorem witness_LaneCopyEvent :
    (∀ p ∈ [back (part0 .performed .dev), part0 .flying .dev],
      let f := batch p
      let s := sbatch p wr
      s.flights.find 2 = some f ∧ f.party = .quad 0 0 ∧ f.uid = wr.uid ∧ f.parts = [(0, p)] ∧ p.accs = [acc0] ∧ acc0.key = 0 ∧
        f.faults = [] ∧ (s.flights.map (·.1)).Nodup ∧ (∀ e ∈ s.flights, e.2.uid = f.uid → (∃ d, e.2.job = .cpl 2 d) → e = (2, f)) ∧
        ∀ e ∈ s.flights, ¬ e.1 < 2) ∧
    ((back (part0 .performed .dev)).st = .performed ∧ (back (part0 .performed .dev)).back = true ∧ (part0 .flying .dev).st ≠ .performed) ∧
    (let p := back (part0 .performed .dev)
     let g := fun (w : Wg) => ({ w with gangs := [(0, ⟨false, [0], 0⟩)] } : Wg)
     (sbatch p wr).resident wr.uid = some (0, wr) ∧ wr.stopped (batch p).job = false ∧ ((wr.gang 0).parted = true ∨ (wr.gang 0).issued = []) ∧
     ({ sbatch p wr with wgs := [] } : State).resident wr.uid = none ∧ (sbatch p wr).isSaved wr.uid = false ∧
     (sbatch p (g wr)).resident wr.uid = some (0, g wr) ∧ ((g wr).gang 0).parted = false ∧ ((g wr).gang 0).issued ≠ [] ∧
     ({ wr with halt := some (haltAt (.saving cPREEMPT [.coalescer]) 0) } : Wg).stopped (batch p).job = true ∧
     (∃ v, (sbatch p wr).wg? 0 = some v ∧ v.gen = wr.gen) ∧ (sbatch p wr).wg? 7 = none) := by
  refine ⟨?_, by decide, rfl, rfl, by decide, rfl, rfl, rfl, by decide, by decide, rfl, ⟨_, rfl, rfl⟩, rfl⟩
  intro p h
  simp only [List.mem_cons, List.not_mem_nil, or_false] at h
  rcases h with rfl | rfl <;>
    exact ⟨rfl, rfl, rfl, rfl, rfl, rfl, rfl, by decide, by intro e he _ _; exact List.mem_singleton.1 he, by decide⟩
theorem witness_MatrixResults :
    (∀ j ∈ [Job.sxld 1 6 3, .cbld 6 0, .acld 0 6 0 .i true, .matmul ⟨0, ⟨0, 4, 5, 5, 0, 0, 0, 0, 0, 0, 0, false, false⟩, descI, 0, [], 0, 0, [], []⟩,
        .matmul ⟨2, ⟨1, 4, 5, 6, 0, 0, 0, 0, 0, 0, 0, false, false⟩, descM, 3, [], 0, 0, [], []⟩],
      let f : Flight := ⟨wx.uid, .mtx 0, 1, j, 0, 0, progCl 4, false, 0, 0, 0, [], [], false⟩
      let s : State := { smx (fun _ => wx) with flights := [(2, f)], nextId := 3 }
      s.flights.find 2 = some f ∧ f.uid = wx.uid ∧ s.resident wx.uid = some (0, wx) ∧ s.wg? 0 = some wx ∧ (∀ e ∈ s.flights, ¬ e.1 < 2)) ∧
    (dMode descI = 2 ∧ dFa descI ∈ [10, 11] ∧ dFb descI ∈ [10, 11] ∧ 0 < (3 : W64).toNat ∧ dMode (BitVec.ofNat 64 (32 * 2 ^ 16 + 0x33)) < 2) ∧
    (let t : Terms := ⟨false, true, true, []⟩
     t.pos = true ∧ t.neg = true) := by
  refine ⟨?_, by decide, rfl, rfl⟩
  intro j h
  simp only [List.mem_cons, List.not_mem_nil, or_false] at h
  rcases h with rfl | rfl | rfl | rfl | rfl <;> exact ⟨rfl, rfl, rfl, rfl, by simp⟩
/-- Two tiles of 32 lines, their lines full, and tile 3 of one; the accumulators of `wx`. -/
def wg8 (scratch : Tab Byte) : Wg := { gath ⟨0, 4, 6, 5, 2, 0, 0, 0, 0, 0, 3, false, false⟩ none with scratch := scratch }
def sg8 (f : Wg → Wg) (scratch : Tab Byte) : State := smx (fun _ => f (wg8 scratch))
theorem witness_EngineEvents :
    (let a : XArgs := ⟨0, 4, 6, 5, 2, 0, 0, 0, 0, 0, 3, false, false⟩
     let v := wg8 []
     let s := sg8 id []
     let ix := fun (v : Wg) (i : Nat) => v.scratch.bytes (0 * 128 + 2 * i) 2
     (s.wg? 0 = some v ∧ v.mtx.gather = some a ∧ v.tiles.find 4 = some ⟨0, 4⟩ ∧ v.tiles.find 6 = some ⟨0, 32⟩ ∧ v.tiles.find 5 = some ⟨0, 4⟩ ∧ v.tiles.find 3 = some ⟨0, 1⟩) ∧
     (v.mtx.seq.reg 5 = descI ∧ GoodDesc descI (8, 64) (8, 64) 24 24 ∧ 0 < dK descI ∧ GoodAcc v.mtx 0 descI ∧ v.halt = none ∧ (halted .stopping v).halt ≠ none) ∧
     (v.mtx.latch = none ∧ (gath a (some ⟨[], [], true⟩)).mtx.latch ≠ none ∧ s.flights = [] ∧
       ∃ e ∈ ([(2, ⟨wx.uid, .mtx 0, 1, .acst 6 0 [30, 31] [], 0, 0, progCl 4, false, 0, 0, 0, [], [], false⟩)] : Tab Flight), e.2.uid = v.uid ∧
         ∃ n b todo data, e.2.job = .acst n b todo data ∧ ∃ l ∈ todo, 0 ≤ l ∧ l < 0 + 32) ∧
     (∀ i, i < 32 → ix v i = 0xFFFF ∨ ix v i < 4 * 128 / (dK descI * 8 / 8)) ∧
     (ix (wg8 [(0, 32)]) 0 ≠ 0xFFFF ∧ 4 * 128 / (dK descI * 8 / 8) ≤ ix (wg8 [(0, 32)]) 0) ∧ ix (wg8 [(62, 0xFF), (63, 0xFF)]) 31 = 0xFFFF ∧
     (1 * 128 < 32 * (dK descI * 8 / 8) ∧ 32 * (dK descI * 8 / 8) ≤ 32 * 128) ∧
     ReadyTile s v 6 ⟨0, 32⟩ ∧ (sg8 (fun w => { w with full := [] }) []).tileState { v with full := [] } 6 ⟨0, 32⟩ ≠ .ready) ∧
    (let f : Flight := ⟨wx.uid, .mtx 0, 1, .acst 6 0 [30, 31] [], 0, 0, progCl 4, false, 0, 0, 0, [], [], false⟩
     let s : State := { smx (fun _ => wx) with flights := [(2, f)], nextId := 3 }
     s.flights.find 2 = some f ∧ s.resident f.uid = some (0, wx) ∧ s.wg? 0 = some wx ∧ 31 ∈ [30, 31] ∧ (∃ l ∈ [30, 31], l ≠ 31) ∧ (∀ l ∈ [31], l = 31) ∧
       ∀ e ∈ s.flights, ¬ e.1 < 2) ∧
    (let y : Quad := { x0 with await := some ⟨.drain [2] 4, 0, 0⟩ }
     (sq (fun _ => y)).wg? 0 = some (w0.updQuad 0 (fun _ => y)) ∧ y.resume = none ∧ (sq (fun _ => y)).flights = [] ∧ (sq (fun _ => y)).itin.unanswered = [] ∧
       ∃ e ∈ (sf pend id).flights, e.1 ∈ [2] ∧ e.2.done = false) := by
  refine ⟨⟨⟨rfl, rfl, rfl, rfl, rfl, rfl⟩, ⟨rfl, ⟨by decide, by decide, by decide, rfl, by decide, by decide, by decide, by decide, by decide, by decide⟩, by decide,
      ⟨by decide, by decide, by decide⟩, rfl, by decide⟩,
      ⟨rfl, by decide, rfl, _, List.mem_singleton.2 rfl, rfl, _, _, _, _, rfl, 30, by decide, by decide, by decide⟩, by decide, by decide, by decide, by decide,
      ⟨rfl, by decide, by intro e h; cases h⟩, by decide⟩,
    ⟨rfl, rfl, rfl, by decide, by decide, by decide, by decide⟩, rfl, rfl, rfl, rfl, _, List.mem_singleton.2 rfl, by decide, by decide⟩

/-- Queue `k` of cluster 0 holds as many cards as the chip has places, beside its head, and its ring has no place. -/
def fullAt (s : State) (k : Nat) : State :=
  { s with sched := { s.sched with queues := [(k, List.replicate (Config.chipCards + 1) ⟨progRoute, 0, none, none, none⟩)], rings := [(k, (0, 0))] } }
theorem ringRoom_fullAt (s : State) (k : Nat) : (fullAt s k).ringRoom 0 k = false := by
  simp [fullAt, State.ringRoom, State.queue, Tab.get, Tab.find, chipRoom, List.replicate_succ]
def fullQueue (s : State) : State := fullAt s 3
theorem ringRoom_fullQueue (s : State) : (fullQueue s).ringRoom 0 3 = false := ringRoom_fullAt s 3
theorem witness_HeaderPostExit :
    (let y : Quad := { x0 with cl := Cl.start progRoute }
     (sh (fun _ => y)).Issues 0 0 (w0.updQuad 0 (fun _ => y)) y ∧ (sh (fun _ => y)).gate = .header 0x100FF000) ∧
    (sr.Issues 0 0 wr (routed x0) ∧ ((routed x0).pair 0 2).toNat % 64 = 0 ∧ sr.isLocal 0 ((routed x0).pair 0 2) = true ∧
      sr.releaseReady ⟨0, 0, wr, routed x0⟩ 3 = true ∧ (sf pend id).releaseReady ⟨0, 0, w0, x0⟩ 3 = false ∧ sr.ringRoom 0 3 = true ∧
      (fullQueue sr).Issues 0 0 wr (routed x0) ∧ (fullQueue sr).ringRoom 0 3 = false ∧ ((routed x0).pair 0 2 + 8).toNat % 64 ≠ 0 ∧
      sr.isLocal 0 away0 = false ∧ away0.toNat % 64 = 0 ∧
      ((29 : Nat) < 32 ∧ 29 % 8 < 6) ∧ ¬ (30 < 32 ∧ 30 % 8 < 6) ∧ ¬ (32 < 32 ∧ 32 % 8 < 6) ∧ (routed x0).await = none) ∧
    (let y : Quad := { x0 with await := some ⟨.ring 0 3 progRoute, 0, 0⟩ }
     (sq (fun _ => y)).wg? 0 = some (w0.updQuad 0 (fun _ => y)) ∧ (sq (fun _ => y)).ringRoom 0 3 = true ∧ (fullQueue (sq (fun _ => y))).ringRoom 0 3 = false ∧
       y.resume = none ∧ w0.halt = none) ∧
    (let y : Quad := { x0 with await := some ⟨.exit, 0, 0⟩ }
     let v := w0.updQuad 0 (fun _ => y)
     (sq (fun _ => y)).wg? 0 = some v ∧ y.live = true ∧ y.reports = [] ∧ y.uad = 0 ∧ y.uap = 0 ∧ (sq (fun _ => y)).entriesUsed v.uid (.quad 0 0) = 0 ∧
     ({ y with uad := 1 } : Quad).uad ≠ 0 ∧
     (∀ e ∈ v.quads, e.1 ≠ 0 → e.2.live = false) ∧ (v.quads.map (·.1)).Nodup ∧ v.mtx.seq.mode ≠ .started ∧ v.cpy.seq.mode ≠ .started ∧ v.entry = none ∧
     (∀ e ∈ (sq (fun _ => y)).wgs, e.2.unit = v.unit → e.1 = 0) ∧
     (let u : Wg := { v with quads := [(0, y), (1, x0)] }
      ∃ e ∈ u.quads, e.1 ≠ 0 ∧ e.2.live = true ∧ u.quads.find e.1 = some e.2)) :=
  ⟨⟨issues_sh _, by decide⟩, ⟨issues_sr, by decide, by decide, by decide, by decide, by decide, ⟨rfl, rfl, rfl⟩, ringRoom_fullQueue _, by decide, by decide, by decide,
      by decide, by decide, by decide, rfl⟩,
    ⟨rfl, by decide, ringRoom_fullQueue _, rfl, rfl⟩, rfl, rfl, rfl, rfl, rfl, by decide, by decide, by decide, by decide, by decide, by decide, rfl, by decide,
    (1, x0), by decide, by decide, rfl, rfl⟩

/-- The dwords of a card of one quad, or of none, at the start of domain 0. -/
def card1 (shape : Nat) : List Nat := [2 ^ 63, 0, 0, 0, shape, 0, 0, 0]
/-- The card at the head of queue 3 of cluster 0; core 0 and die 0's bridges are ready, and tenant 0 runs. -/
def sc (shape : Nat) : State :=
  { s0 with
    wgs := [], focus := none, mem := Memory.writeN (Memory.writeN [] (Memory.key 0 0) 8 (2 ^ 63)) (Memory.key 0 0x20) 8 shape
    sched := { s0.sched with queues := [(3, [⟨progRoute, 0, none, none, some (.card (card1 shape))⟩])], joins := [⟨progRoute, 0, 0, 0, 0⟩] }
    host := { s0.host with ready := BitVec.ofNat 672 (2 ^ 192 * 2 ^ 200 * 2 ^ 200 + 1), ringSize := 1, tdi := [(0, .run)] } }
/-- Every slot of core 0 is taken. -/
def taken (s : State) : State := { s with wgs := [(0, w0), (1, w0), (2, w0), (3, w0)] }
theorem not_refused (n : Nat) (h : n ≤ 8) : ¬ (sc 1).refusesCard 0 (card1 1) n := by
  interval_cases n <;> simp [State.refusesCard, card1, cd]
  intro m hm
  interval_cases m <;> simp
theorem first_case (n : Nat) (h : n < 3) : ¬ (sc 0).refusesCard 0 (card1 0) n := by
  interval_cases n <;> simp [State.refusesCard, card1, cd]
set_option exponentiation.threshold 700 in
theorem witness_AdmissionAndJoin :
    ((sc 1).sched.saved = [] ∧ (sc 1).isReady (18 * 32 + 16) = true ∧ (sc 1).queue (0 * 4 + 3) = ⟨progRoute, 0, none, none, some (.card (card1 1))⟩ :: [] ∧
      (sc 1).tdi 0 = .run ∧ s0.tdi 0 ≠ .run ∧ (sc 1).host.ringUsed < (sc 1).host.ringSize ∧ (∀ n, n ≤ 8 → ¬ (sc 1).refusesCard 0 (card1 1) n) ∧
      cd (card1 1) 4 / 2 ^ 36 % 2 ^ 5 ≤ 1 ∧ (sc 1).isReady (0 * 24 + 0) = true ∧ (sc 1).hasRoom (0 * 24 + 0) (cd (card1 1) 4 % 2 ^ 7) (cd (card1 1) 4 / 2 ^ 7 % 2 ^ 14) ∧
      ¬ (taken (sc 1)).hasRoom (0 * 24 + 0) (cd (card1 1) 4 % 2 ^ 7) (cd (card1 1) 4 / 2 ^ 7 % 2 ^ 14)) ∧
    ((sc 0).refusesCard 0 (card1 0) 3 ∧ ∀ m, m < 3 → ¬ (sc 0).refusesCard 0 (card1 0) m) ∧
    ((sc 1).lookup 0 .atomic (mkRoute 0 1 0 0 0 + 0x18) = .error ⟨cDOMAIN_MISS, 2, 1⟩ ∧
      ({ sc 1 with sched := { (sc 1).sched with joins := [⟨mkRoute 0 1 0 0 0, 0, 0, 0, 0⟩] } } : State).sched.joins[0]? = some ⟨mkRoute 0 1 0 0 0, 0, 0, 0, 0⟩) ∧
    (∃ l, (sc 1).sched.joins[0]? = some ⟨progRoute, 0, 0, 0, 0⟩ ∧ (sc 1).lookup 0 .atomic (progRoute + 0x18) = .ok l ∧ (sc 1).poisoned l.key = false ∧
      (sc 1).veiled l.enc (l.key / 128 * 128) 128 = [] ∧ l.dual = none ∧ (sc 1).mem.readN l.key 4 = 0 ∧ (sc 1).mem.wf = true ∧
      1 < (Memory.writeN [] 0x18 4 2).readN l.key 4 ∧ (Memory.writeN [] 0x18 4 1).readN l.key 4 = 1 ∧
      ∃ d, (sc 1).readDwords 0 (progRoute + 0x20) 1 = .ok [d] ∧ d / 2 ^ 30 % 4 = 0 ∧ (sc 1).ringRoom 0 0 = true) := by
  refine ⟨⟨rfl, by decide, rfl, rfl, by decide, by decide, not_refused, by decide, by decide, ?_, ?_⟩, ⟨.inl (by decide), first_case⟩, ⟨rfl, rfl⟩,
    _, rfl, rfl, by decide, by decide, rfl, by decide, by decide, by decide, by decide, _, rfl, by decide, by decide⟩
  · exact ⟨⟨0, by decide, rfl⟩, by decide, by decide⟩
  · rintro ⟨⟨i, hi, h⟩, -⟩
    revert h
    interval_cases i <;> decide

/-- The workgroup in a stage of a halt with an error ring of one record and PREEMPTCFG allowing one unit of the watchdog. -/
def sx (v : Wg) (h : Halt) : State :=
  { s0 with
    wgs := [(0, { v with halt := some h })], host := { s0.host with ringSize := 1 }
    sched := { s0.sched with csrs := [(0, { SupCsr.init with tvec := progRoute, preemptcfg := 0x10100 })] } }
/-- A saved unit that ends: unit 9, of one workgroup of serial 8. -/
def ending9 (uad : Nat) : Saved :=
  ⟨9, cPREEMPT, 0, [⟨{ w0.updQuad 0 (fun x => { x with uad := uad }) with unit := 9, uid := 8 }, none, 0, 0, [], []⟩], 4097, true, some ⟨fault0, 8, 0⟩⟩
def se9 (uad : Nat) : State := { sx w0 (haltAt .ending 0) with wgs := [(0, w0)], sched := { (sx w0 (haltAt .ending 0)).sched with saved := [ending9 uad] } }
theorem witness_UnitEndings :
    (let s := sx w0 (haltAt .ending 4097)
     let v : Wg := { w0 with halt := some (haltAt .ending 4097) }
     s.wg? 0 = some v ∧ (haltAt .ending 4097).stage = .ending ∧ v.entry = none ∧ (∀ e ∈ s.wgs, e.2.unit = v.unit ∨ e.2.uid = v.uid → e = (0, v)) ∧ s.Keyed ∧
     s.flights = [] ∧ s.host.ringUsed < s.host.ringSize ∧ s.storesLeft [v.uid] = false ∧ s.continues [v.uid] = true ∧
     (v.quads.map (fun e => e.2.uad + e.2.uap)).sum = 0 ∧ ((w0.updQuad 0 (fun x => { x with uad := 1 })).quads.map (fun e => e.2.uad + e.2.uap)).sum ≠ 0 ∧
     (s.csr (dieOf 0) v.tenant).preemptcfg.toNat / 2 ^ 16 = 1 ∧ 1 * 4096 < (haltAt .ending 4097).cycles ∧ (haltAt .ending 4096).cycles ≤ 1 * 4096 ∧
     (s0.csr (dieOf 0) w0.tenant).preemptcfg.toNat / 2 ^ 16 = 0 ∧ s.sched.saved = []) ∧
    (∀ uad ∈ [0, 1], ∃ v e, (se9 uad).sched.saved.find? (fun x => x.unit == 9) = some (ending9 uad) ∧ (ending9 uad).ended = some e ∧ (ending9 uad).wgs = [v] ∧
      e.uid = v.wg.uid ∧ v.record = none ∧ v.wg.entry = none ∧ (∀ x ∈ (se9 uad).wgs, x.2.unit ≠ 9) ∧ (se9 uad).flights = [] ∧
      (se9 uad).host.ringUsed < (se9 uad).host.ringSize ∧ (v.wg.quads.map (fun e => e.2.uad + e.2.uap)).sum = uad ∧
      ((se9 uad).csr (dieOf v.place) v.wg.tenant).preemptcfg.toNat / 2 ^ 16 = 1 ∧ 1 * 4096 < (ending9 uad).cycles) ∧
    (let y : Quad := { x0 with reports := [(fault0, progCl 0)] }
     (withTvec (sq (fun _ => y))).wg? 0 = some (w0.updQuad 0 (fun _ => y)) ∧ y.reports = (fault0, progCl 0) :: [] ∧ y.live = true ∧ y.sup = false ∧
     ({ y with sup := true } : Quad).sup = true ∧ w0.halt = none ∧ (w0.updQuad 0 (fun _ => y)).gangWhole 0 = true ∧
     fault0.cause ∉ [0x1C, 0x25, 0x26, 0x29, 0x2A, 0x2B, 0x2C, 0x2D, 0x2E, 0x33, 0x37] ∧ ((withTvec (sq (fun _ => y))).csr 0 0).tvec ≠ 0) := by
  refine ⟨⟨rfl, rfl, rfl, by intro e he _; exact List.mem_singleton.1 he, ?_, rfl, by decide, rfl, rfl, by decide, by decide, by decide, by decide, by decide, by decide, rfl⟩, ?_,
    rfl, rfl, rfl, rfl, rfl, rfl, by decide, by decide, by decide⟩
  · exact ⟨by simp [sx], List.Pairwise.nil, by intro e h; exact absurd h (List.not_mem_nil), by intro e he; rw [List.mem_singleton.1 he]; decide,
      by intro e h; exact absurd h (List.not_mem_nil)⟩
  · intro uad h
    simp only [List.mem_cons, List.not_mem_nil, or_false] at h
    rcases h with rfl | rfl <;> exact ⟨_, _, rfl, rfl, rfl, rfl, rfl, rfl, by decide, rfl, by decide, by decide, by decide, by decide⟩
/-- A unit with PE whose quad stands in a counted wait, for longer or not longer than its WAITCAP. -/
def wq (count : Nat) : Wg :=
  { w0.updQuad 0 (fun x => { x with await := some ⟨.cbars 0, count, 5000⟩ }) with shape := BitVec.ofNat 64 (2 ^ 41 + 1) }
def sq2 (count : Nat) : State :=
  { s0 with wgs := [(0, wq count)], sched := { s0.sched with csrs := [(0, { SupCsr.init with preemptcfg := 0x100 })] } }
def engines : List Engine := [.quads, .matrix, .copy, .coalescer, .hamper, .egress]
def wsaving (acks : List Engine) : Wg := { w0 with halt := some (haltAt (.saving cPREEMPT acks) 0) }
theorem witness_SavingSwappingWaking :
    (let s := sq2 5001
     (0, wq 5001) ∈ s.wgs ∧ s.wg? 0 = some (wq 5001) ∧ (∀ e ∈ s.wgs, e.2.pe = true ∧ e.2.halt = none ∧ e.2.preempt = none) ∧
     (∃ z ∈ (wq 5001).quads, z.2.live = true ∧ z.2.await = some ⟨.cbars 0, 5001, 5000⟩) ∧ (5000 ≠ 0 ∧ max 5000 4096 < 5001 ∧ ¬ max 5000 4096 < 5000) ∧
     s.slotRoom (dieOf 0) 0 (s.unitWgs 0).length = true ∧ s0.slotRoom (dieOf 0) 0 (s0.unitWgs 0).length = false ∧ w0.pe = false ∧ s.wg? 7 = none ∧
     ({ wq 5001 with preempt := some cPREEMPT } : Wg).preempt ≠ none ∧
     ({ wq 5001 with halt := some (haltAt .handler 0) } : Wg).halt ≠ none) ∧
    ((si id).itin.owner = some 0 ∧ (si id).itin.st = 2 ∧ s0.wgs.all (fun e => e.2.tenant != 3) = true) ∧
    (let u : Saved := ⟨9, cWAIT_SWAP, 0, [⟨wq 5001, none, 0, 0, [], []⟩], 4096, false, none⟩
     let s : State := { s0 with sched := { s0.sched with saved := [u] } }
     s.sched.saved.find? (fun u => u.unit == 9) = some u ∧ u.passed = false ∧ u.ended = none ∧ 4096 ≤ u.cycles ∧ ({ u with cycles := 4095 } : Saved).cycles < 4096 ∧
     ∀ m ∈ u.wgs, ∀ z ∈ m.wg.quads, z.2.await = some ⟨.cbars 0, 5001, 5000⟩) ∧
    -- engines that stop, the copy engine with a CPT under way, and a unit whose six engines have stopped
    ((∀ acks ∈ [[], [.quads], engines], let s := sx w0 (haltAt (.saving cPREEMPT acks) 0)
        s.wg? 0 = some (wsaving acks) ∧ (haltAt (.saving cPREEMPT acks) 0).stage = .saving cPREEMPT acks ∧
        (∀ e ∈ s.wgs, e.2.uid = (wsaving acks).uid → e = (0, wsaving acks)) ∧ s.flights = [] ∧ (wsaving acks).mtx.gather = none ∧
        (∀ n, n < 8 → (wsaving acks).gangWhole n = true) ∧ (∀ e ∈ (wsaving acks).quads, e.2.wins = [] ∧ e.2.await = none)) ∧
      (Engine.egress ∉ ([.quads] : List Engine) ∧ Engine.quads ∈ ([.quads] : List Engine) ∧ Engine.quads ∉ ([] : List Engine) ∧ ∀ g : Engine, g ∈ engines) ∧
      (let f := cpf (cp .cpt [0] [] []) []
       let v : Wg := { tiled wc with halt := some (haltAt (.saving cPREEMPT []) 0) }
       let s : State := { scx (fun _ => v) with flights := [(2, f)], nextId := 3 }
       s.wg? 0 = some v ∧ s.flights.find 2 = some f ∧ f.uid = v.uid ∧ (cp .cpt [0] [] []).kind = .cpt ∧ (cp .cpt [0] [] []).wrote = [] ∧
       (∀ e ∈ s.flights, e.2.uid = v.uid → e.1 = 2) ∧ (s.flights.map (·.1)).Nodup) ∧
      (let s := sx w0 (haltAt (.saving cPREEMPT engines) 0)
       let v := wsaving engines
       v.inIdem = false ∧ v.entry = none ∧ (∀ e ∈ s.wgs, e.2.unit = v.unit → e = (0, v)) ∧ (s.wgs.map (·.1)).Nodup ∧ s.sched.saved = [] ∧
       s.slotsFree (dieOf 0) v.tenant = 0 :: [])) ∧
    -- the feed engines before the quads have acknowledged, and a wait that does not keep the quads from it
    (Engine.quads ∉ ([] : List Engine) ∧ (∀ g ∈ ([.coalescer, .hamper, .egress] : List Engine), g ∉ ([] : List Engine)) ∧
      ∀ z ∈ (wsaving [.quads]).quads, z.2.wins = [] ∧ ∀ a, z.2.await = some a → ∀ i, a.what ≠ .q5 i) ∧
    -- a unit whose test has passed, and a core with room
    (let u : Saved := ⟨9, cWAIT_SWAP, 0, [⟨wq 5001, none, 0, 0, [], []⟩], 4096, true, none⟩
     let s : State := { sc 1 with sched := { s0.sched with saved := [u] } }
     s.sched.saved.find? (fun x => x.cluster == u.cluster && x.passed) = some u ∧ (wq 5001).inIdem = false ∧ (wq 5001).entry = none ∧ u.cause = cWAIT_SWAP ∧
     (wq 5001).members = 1 ∧ s.hasRoom (0 * 24 + 0) ((wq 5001).shape.toNat % 2 ^ 7) ((wq 5001).shape.toNat / 2 ^ 7 % 2 ^ 14)) := by
  refine ⟨⟨List.mem_singleton.2 rfl, rfl, by decide, ⟨_, List.mem_singleton.2 rfl, rfl, rfl⟩, by decide, by decide, by decide, by decide, rfl, by decide, by decide⟩,
    ⟨rfl, rfl, by decide⟩, ⟨by decide, rfl, rfl, by decide, by decide, by decide⟩, ⟨?_, ⟨by decide, by decide, by decide, ?_⟩, ?_, ?_⟩, ⟨by decide, by decide, ?_⟩,
    by decide, rfl, rfl, rfl, rfl, ?_⟩
  · intro acks h
    refine ⟨rfl, rfl, by intro e he _; exact List.mem_singleton.1 he, rfl, rfl, ?_, by intro e he; rw [List.mem_singleton.1 he]; exact ⟨rfl, rfl⟩⟩
    intro n hn
    interval_cases n <;> rfl
  · intro g
    cases g <;> decide
  · exact ⟨rfl, rfl, rfl, rfl, rfl, by decide, by decide⟩
  · exact ⟨by decide, rfl, by intro e he _; exact List.mem_singleton.1 he, by decide, rfl, by decide⟩
  · intro z hz
    rw [List.mem_singleton.1 hz]
    exact ⟨rfl, fun a h => by cases h⟩
  · exact ⟨⟨0, by decide, rfl⟩, by decide, by decide⟩

/-- A flit with the CRC that its bytes have. -/
def flit (hdr : BitVec 64) : Flit := ⟨hdr, 0, Flit.crcOf ⟨hdr, 0, 0⟩⟩
theorem flit_bad (hdr : BitVec 64) : (flit hdr).bad = (bits hdr.toNat 63 26 != 0 || bits hdr.toNat 25 24 == 3) := by
  have h (c : BitVec 64) : Flit.crcOf ⟨hdr, 0, c⟩ = Flit.crcOf ⟨hdr, 0, 0⟩ := by simp only [Flit.crcOf]
  simp only [Flit.bad, flit, Flit.kind, h, bne_self_eq_false, Bool.or_false]
/-- A request of tenant 0 under label 5 that stores nothing. -/
def msg0 (body : MsgBody) : FabricMsg := ⟨0, 5, 6, body⟩
/-- Link `n` as `l`, with its readiness bit set. -/
def sl (n : Nat) (l : Link) : State :=
  { s0 with fab := { s0.fab with links := s0.fab.links.put n l }, host := { s0.host with ringSize := 1, ready := BitVec.twoPow 672 (608 + n) } }
/-- A link that is up, and one that holds a flit as well. -/
def quiet : Link := { Link.idle with up := true }
def upLink : Link := { quiet with retry := [(0, (msg0 (.skip 0 0 0 0)).beats)], next := 1, lastNak := some 4095, naks := 14 }

theorem witness_FabricLinks :
    ((2 < 3 ∧ ([] : List (FabricMsg × Nat)).length ≤ 15) ∧
      upLink.up = true ∧ upLink.pending = [] ∧ upLink.beats = [] ∧ upLink.naks < 16 ∧ (sl 3 upLink).link 3 = upLink ∧
      (sl 3 upLink).host.ringUsed < (sl 3 upLink).host.ringSize) ∧
    ((flit (BitVec.ofNat 64 (2 ^ 26))).bad = true ∧ (flit (BitVec.ofNat 64 (3 * 2 ^ 24))).bad = true) ∧
    ((flit 0xFFF000).bad = false ∧ (flit 0xFFF000).kind = 0 ∧ (flit 0xFFF000).seq = upLink.expect ∧ (flit 1).bad = false ∧ (flit 1).kind = 0 ∧
      (flit 1).seq ≠ upLink.expect ∧ (flit 0x1000000).bad = false ∧ (flit 0x1000000).kind = 1) ∧
    ((flit 0x2FFF000).bad = false ∧ (flit 0x2FFF000).kind = 2 ∧ upLink.lastNak = some (flit 0x2FFF000).ack ∧ upLink.naks < 15 ∧
      ({ upLink with naks := 15 } : Link).naks = 15 ∧ upLink.lastNak ≠ some (flit 0x2000000).ack ∧ (flit 0x2000000).bad = false) ∧
    upLink.retry ≠ [] ∧ quiet.up = true ∧ quiet.retry = [] ∧ (s0.link 31).up = false ∧ 31 < 32 :=
  ⟨⟨by decide, rfl, rfl, rfl, by decide, rfl, by decide⟩, ⟨by rw [flit_bad]; decide, by rw [flit_bad]; decide⟩,
    ⟨by rw [flit_bad]; decide, by decide, by decide, by rw [flit_bad]; decide, by decide, by decide, by rw [flit_bad]; decide, by decide⟩,
    ⟨by rw [flit_bad]; decide, by decide, by decide, by decide, rfl, by decide, by rw [flit_bad]; decide⟩,
    List.cons_ne_nil _ _, rfl, rfl, rfl, by decide⟩

/-- A release of die 1 of module 7 that carries the counts of four slots and a clock, and the module's state with it held or refused, or received on link 3. -/
def request0 (die : Nat) (clock : List (Nat × Nat)) : Request := ⟨.store, .xchg, [], 7, die, 2, 0, 0, true, 0, [1, 0, 0, 0], some ⟨1, 0, 1, clock⟩, none⟩
def release0 (clock : List (Nat × Nat)) : FabricMsg := msg0 (.request (request0 1 clock))
def awayPart (place : Place) (age : Nat) : Part := { part0 .away place with slot := some 1, age := age, twin := 1 }
def sm (entry : W64) (inbox : List FabricMsg) (hold resend : List Held) (got : Nat) : State :=
  { sl 2 quiet with
    tab := { s0.tab with swap := [(5, entry)] }
    flights := [(2, op0 .store [(0, part0 .away .remote)])]
    fab := { (sl 2 quiet).fab with
      links := [(2, quiet), (3, { quiet with inbox := inbox })], hold := hold, resend := resend, rcv := [(rcvKey 7 1 0 0, got)], met := [(rcvKey 7 1 0 0, (got, []))] } }
/-- The swap entry of label 5: out on port 2 under label 9, or popped. -/
def forward : W64 := BitVec.ofNat 64 (2 ^ 32 + 2 ^ 18 + 2 * 2 ^ 12 + 9)
def pop : W64 := BitVec.ofNat 64 (2 ^ 32 + 2 ^ 18 + 2 ^ 17 + 9)
theorem quiet_quiet : quiet.Quiet := ⟨rfl, rfl, by decide⟩
theorem ready_sm (entry : W64) (inbox : List FabricMsg) (hold resend : List Held) (got : Nat) : (sm entry inbox hold resend got).linkUp 2 = true := by
  show (true && State.isReady _ 610) = true
  simp [State.isReady, sm, sl]
/-- A store of the quad to module 1, and the state with an entry for it whose one path has label 5. -/
def accR : Access := ⟨0, away0 + 0x80, 4, 7, 0, 0⟩
def entryR : RangeImage := ⟨0x1F001001 + 0x3F00000000, 0x8005, 0, 0⟩
def goes (job : Job) (label : W64) (sent : Nat) : State :=
  let s := sm label [] [] [] 0
  { s with
    flights := [(2, op0 job [(0, Part.fresh .remote [accR] (2, 1) (some (0, entryR)) false)])], tab := { s.tab with ranges := [(0, entryR)] }
    fab := { s.fab with sent := [(sentKey 0 0 1 0, sent)] } }
theorem firstHop_goes (j : Job) (n : Nat) : (goes j forward n).firstHop 0 (pathLabel entryR 0) = .ok (9, 2) := by
  have e : (goes j forward n).swapEntry (pathLabel entryR 0) = forward := rfl
  have up : (goes j forward n).linkUp (bits forward.toNat 16 12) = true := by
    show (true && State.isReady _ 610) = true
    simp [State.isReady, goes, sm, sl]
  simp only [State.firstHop, e, up]
  rfl
/-- The same with link 9, of die 1, in the place of link 2: the message crosses a bridge to it. -/
def forward9 : W64 := BitVec.ofNat 64 (2 ^ 32 + 2 ^ 18 + 9 * 2 ^ 12 + 9)
def goes9 : State :=
  let s := goes .store forward9 0
  { s with fab := { s.fab with links := [(9, quiet)] }, host := { s.host with ready := BitVec.twoPow 672 617 } }
theorem linkUp_goes9 : goes9.linkUp 9 = true := by
  show (true && State.isReady _ 617) = true
  simp [State.isReady, goes9]
theorem firstHop_goes9 : goes9.firstHop 0 (pathLabel entryR 0) = .ok (9, 9) := by
  have e : goes9.swapEntry (pathLabel entryR 0) = forward9 := rfl
  have up : goes9.linkUp (bits forward9.toNat 16 12) = true := linkUp_goes9
  simp only [State.firstHop, e, up]
  rfl
/-- A refused release that this module's die has kept, to be sent again. -/
def again (die age : Nat) : Held := ⟨die, age, msg0 (.request (request0 die []))⟩
def resends (h : Held) (label : Nat) : State :=
  let s := sm forward [] [] [h] 0
  { s with flights := [(2, op0 .store [(0, { part0 .away .remote with slot := some 0, label := label })])] }
theorem firstHop_resends (h : Held) : (resends h 5).firstHop 0 5 = .ok (9, 2) := by
  have e : (resends h 5).swapEntry 5 = forward := rfl
  have up : (resends h 5).linkUp (bits forward.toNat 16 12) = true := by
    show (true && State.isReady _ 610) = true
    simp [State.isReady, resends, sm, sl]
  simp only [State.firstHop, e, up]
  rfl
theorem witness_FabricMessages :
    (∀ m ∈ [msg0 (.skip 7 1 0 0), msg0 (.answer 0 9 0 (.holdFull 0)), release0 []], ∀ e ∈ [forward, pop, 0],
      let b := { m with hop := 1 }
      let s := sm e [b, m] [] [] 0
      (s.link 3).inbox = [b] ++ m :: [] ∧ (∀ x ∈ [b], x.channel ≠ m.channel) ∧ s.swapEntry 5 = e ∧ m.label = 5 ∧ m.tenant = 0 ∧ m.hop < 7 ∧ s.linkUp 2 = true ∧ (s.link 2).Quiet) ∧
    ((∀ e ∈ [forward, pop], e.getLsbD 18 = true ∧ e.getLsbD (32 + 0) = true ∧ e.toNat / 2 ^ 48 = 0 ∧ e.toNat / 2 ^ 19 % 2 ^ 13 = 0) ∧
      ((0 : W64).getLsbD 18 = false ∧ forward.getLsbD 17 = false ∧ pop.getLsbD 17 = true ∧ forward.toNat / 2 ^ 12 % 32 = 2 ∧
      7 ≤ ({ msg0 (.skip 0 0 0 0) with hop := 7 } : FabricMsg).hop ∧ s0.linkUp 2 = false) ∧
      64 ≤ (((sm pop [release0 []] (List.replicate 64 ⟨0, 0, release0 []⟩) [] 0).fab.hold).filter (fun h => h.die == 0 && h.msg.tenant == 0)).length) ∧
    -- what a packet answers to, and the die that it goes to
    ((release0 []).body.tag = some (1, 2, 0) ∧ (msg0 (.skip 7 1 0 0)).body.tag = none ∧ (msg0 (.seatReturn false 7 1 2 0)).body.ordered = none ∧
      (sm pop [] [] [] 0).owningDie 1 (msg0 (.seatReturn false 7 1 2 0)) = 0 ∧ (sm pop [] [] [] 0).owningDie 0 (release0 []) = 0 ∧
      goes9.linkUp 9 = true ∧ 9 / 8 ≠ 3 / 8) ∧
    (∀ got ∈ [0, 1, 2], (sm 0 [] [⟨0, 0, release0 [(5, 1)]⟩] [] got).fab.hold[0]? = some ⟨0, 0, release0 [(5, 1)]⟩ ∧
      (release0 [(5, 1)]).body.ordered = some (7, 1, 0, [1, 0, 0, 0], [(5, 1)]) ∧
      ((∀ i, i < 4 → (sm 0 [] [⟨0, 0, release0 [(5, 1)]⟩] [] got).CountMet 7 1 0 (0 / 4 * 4 + i) ([1, 0, 0, 0].getD i 0)) ↔ got ≠ 0)) ∧
    -- the release 1 of component 5 is not applied, and with a clock of nothing every release is
    (¬ (sm 0 [] [] [] 1).Applied 0 [(5, 1)] ∧ (sm 0 [] [] [] 1).Applied 0 []) ∧
    (∀ die ∈ [0, 1], ∀ label ∈ [5, 6], let s := resends (again die 256) label
     s.fab.resend[0]? = some (again die 256) ∧ (again die 256).msg.body.tag = some (die, 2, 0) ∧ (again die 255).age < 256 ∧
     (∃ f p, s.part? 2 0 = some (f, p) ∧ p.label = label) ∧ (again die 256).msg.body.slot < 4 ∧ (s.link 2).Quiet ∧
     (label = 5 → s.firstHop 0 label = .ok (9, 2)) ∧ (label = 6 → ∃ r, s.firstHop 0 label = .error r)) ∧
    (4095 < 4096 ∧ 3 < 4 ∧ 15 < 16 ∧ 7 < 8) ∧
    -- packets that leave: a load, a store, an STO, and a store that is 2^30 ahead
    (∀ job ∈ [Job.load 4 false none, .store, .sto, .strl none], ∀ sent ∈ [0, 2 ^ 30],
      let s := goes job forward sent
      let p := Part.fresh .remote [accR] (2, 1) (some (0, entryR)) false
      let f := op0 job [(0, p)]
      s.part? 2 0 = some (f, p) ∧ s.membersOf f p = [(2, 0)] ∧ s.mayAll [(2, 0)] = true ∧ s.isSaved f.uid = false ∧ s.joinsHeld 2 f p = false ∧ s.spoils f = false ∧
      (∀ c, f.job ≠ .copy c) ∧ p.stamp = none ∧ (p.accs.map (·.key)).Pairwise (· ≤ ·) ∧ (Tab.get [] s.tab.peers f.tenant).contains (plOf p.route) = false ∧ s.entryOf f p = some (0, entryR) ∧ entryR.dis = false ∧ entryR.mir = false ∧
      entryR.paths false = [0] ∧ s.firstHop f.tenant (pathLabel entryR 0) = .ok (9, 2) ∧ (s.link 2).Quiet ∧
      (2 ^ 30 ≤ (Tab.get 0 s.fab.sent (sentKey f.die f.tenant (plOf p.route) 0) + 2 ^ 32 - Tab.get 0 s.fab.acked (sentKey f.die f.tenant (plOf p.route) 0)) % 2 ^ 32 ↔ sent = 2 ^ 30)) ∧
    (goes9.firstHop 0 (pathLabel entryR 0) = .ok (9, 9) ∧ (goes9.link 9).Quiet) ∧ (Job.store.storeClass = true ∧ (Job.load 4 false none).storeClass = false) := by
  refine ⟨?_, ⟨?_, ⟨by decide, by decide, by decide, by decide, by decide, rfl⟩, by decide⟩, ⟨rfl, rfl, rfl, rfl, rfl, linkUp_goes9, by decide⟩, ?_, ⟨?_, ?_⟩, ?_, by decide, ?_,
    ⟨firstHop_goes9, quiet_quiet⟩, by decide⟩
  · intro m hm e _
    refine ⟨rfl, ?_, rfl, ?_, ?_, ?_, ready_sm .., quiet_quiet⟩ <;> revert m <;> decide
  · intro e he
    simp only [List.mem_cons, List.not_mem_nil, or_false] at he
    rcases he with rfl | rfl <;> refine ⟨by decide, by decide, ?_, ?_⟩ <;> rfl
  · intro got h
    simp only [List.mem_cons, List.not_mem_nil, or_false] at h
    rcases h with rfl | rfl | rfl <;> exact ⟨rfl, rfl, by unfold State.CountMet; decide⟩
  · intro h
    exact absurd ((h (5, 1) (List.mem_singleton.2 rfl)).2 (by simp only [State.component]; decide)) (by decide)
  · intro e h
    exact absurd h (List.not_mem_nil)
  · intro die hd label hl
    simp only [List.mem_cons, List.not_mem_nil, or_false] at hd hl
    refine ⟨rfl, ?_, ?_, ⟨_, _, rfl, rfl⟩, ?_, quiet_quiet, ?_, ?_⟩
    · rcases hd with rfl | rfl <;> rfl
    · rcases hd with rfl | rfl <;> decide
    · rcases hd with rfl | rfl <;> decide
    · rintro rfl
      exact firstHop_resends _
    · rintro rfl
      exact ⟨⟨cRANGE_MISS, 1, 6⟩, by rcases hd with rfl | rfl <;> rfl⟩
  · intro job hj sent hs
    simp only [List.mem_cons, List.not_mem_nil, or_false] at hj hs
    rcases hj with rfl | rfl | rfl | rfl <;> rcases hs with rfl | rfl <;>
      exact ⟨rfl, rfl, by decide, rfl, by decide, by decide, (by intro c h; cases h), rfl, List.pairwise_singleton .., by decide, rfl, by decide, by decide, by decide,
        firstHop_goes _ _, quiet_quiet, by decide⟩

/-- A load of the quad, its one line access away at another module, on path 1, for `age` cycles. -/
def away (place : Place) (age : Nat) : State := sf (op0 (.load 4 false none) [(0, awayPart place age)]) id
/-- Tenant 0's range entry 1 valid, and with DIS. -/
def rng (d0 : W64) : State := { s0 with host := { s0.host with ringSize := 1 }, tab := { s0.tab with ranges := [(1, ⟨d0, 0, 0, 0⟩)] } }
theorem witness_RemotePeers :
    (let s := away .remote (2 ^ 24)
     let p := awayPart .remote (2 ^ 24)
     let f := op0 (.load 4 false none) [(0, p)]
     s.part? 2 0 = some (f, p) ∧ p.st = .away ∧ p.place = .remote ∧ 1 ∈ p.slot.toList ++ p.mslot.toList ∧ s.membersOf f p = [(2, 0)] ∧
     p.slot = some 1 ∧ p.mslot = none ∧ p.stamp = none ∧ f.party = .quad 0 0 ∧ f.uid = w0.uid ∧ s.resident w0.uid = some (0, w0) ∧ s.wg? 0 = some w0 ∧
     w0.quads.find 0 = some x0 ∧ w0.halt = none ∧ s.ftimeout f.tenant ≤ p.age ∧ 2 ^ 24 - 1 < (away .remote (2 ^ 24 - 1)).ftimeout f.tenant ∧
     (Answer.ack 2 0).slot ∉ p.slot.toList ++ p.mslot.toList ∧ (Answer.ack 1 0).slot = 1 ∧ s.gone f = false ∧ p.twin = 1 ∧
     (p.accs.map (·.key)).Pairwise (· ≤ ·) ∧ ({ s with wgs := [] } : State).gone f = true ∧ (part0 .performed .remote).st ≠ .away) ∧
    (s0.flights.find 5 = none ∧ s0.itin.runs = [] ∧ s0.itin.strays = []) ∧
    ((rng 0x1000000).flights = [] ∧ (rng 0x1000000).itin.owner ≠ some 0 ∧ (rng 0x1000000).itin.unanswered = [] ∧ ((rng 0x1000000).range 0 1).v = true ∧
      ((rng 0x1000000).range 0 1).dis = false ∧ ((rng 0x41000000).range 0 1).dis = true ∧ (rng 0x1000000).host.ringUsed < (rng 0x1000000).host.ringSize) ∧
    (2 ^ 16 ≤ 2 ^ 16 ∧ 2 ^ 30 ≤ 2 ^ 30 ∧ 2 ^ 16 - 1 < 2 ^ 16 ∧ 2 ^ 30 < 2 ^ 30 + 1 ∧ 255 < 256 ∧ 63 < 64 ∧ 3 < 4 ∧ 31 < 32 ∧ 15 < 16) :=
  ⟨⟨rfl, rfl, rfl, by decide, rfl, rfl, rfl, rfl, rfl, rfl, rfl, rfl, rfl, rfl, by decide, by decide, by decide, rfl, rfl, rfl, List.pairwise_singleton .., rfl, by decide⟩, ⟨rfl, rfl, rfl⟩,
    ⟨rfl, by decide, rfl, by decide, by decide, by decide, by decide⟩, by decide⟩

/-- A load of the quad whose line access crosses to, or back from, slice `h`; tenant 0 is present, and each input has been granted in turn. -/
def crossPart (st : PartState) (h : Nat) : Part := { part0 st .dev with home := some h }
def cross (st : PartState) (h : Nat) : State :=
  let s := sf (op0 (.load 4 false none) [(0, crossPart st h)]) id
  { s with host := { s.host with tdi := [(0, .run)] }, fab := { s.fab with lrg := [(0, List.range 192)] } }
/-- An errand of tenant 0 from die 0 to die 1, beside a load whose translation goes over the bridge. -/
def errand (e : Errand) : State :=
  let s := sf (op0 (.load 4 false none) [(0, part0 .bridged .host)]) id
  { s with host := { s.host with tdi := [(0, .run)] }, fab := { s.fab with transit := [⟨0, 1, e⟩] } }
theorem witness_TranslationAndCrossbar :
    (let f := op0 (.load 4 false none) [(0, part0 .xlating .host)]
     (sf f id).part? 2 0 = some (f, part0 .xlating .host) ∧ (part0 .xlating .host).st = .xlating ∧
     (⟨true, false⟩ : Translation).read = true ∧ (⟨false, false⟩ : Translation).write = false ∧ (part0 .xlating .dev).place ≠ .host) ∧
    (let f := op0 (.load 4 false none) [(0, part0 .asking .host)]
     (sf f id).part? 2 0 = some (f, part0 .asking .host) ∧ (part0 .asking .host).st = .asking ∧ (part0 .asking .host).place = .host ∧ f.job = .load 4 false none ∧ f.faults = []) ∧
    ((∀ e ∈ s0.flights, e.2.die = 0 → ∀ p ∈ e.2.parts, p.2.place = .host → p.2.st ≠ .away) ∧
      ∃ e ∈ (away .host 0).flights, e.2.die = 0 ∧ e.2.tenant = 0 ∧ ∃ p ∈ e.2.parts, p.2.place = .host ∧ p.2.st = .away ∧
        0 ≤ p.2.route.toNat / 2 ^ 12 % 2 ^ 45 ∧ p.2.route.toNat / 2 ^ 12 % 2 ^ 45 ≤ 2 ^ 45 - 1) ∧
    (∀ st, ((cross st 7).flights.map (·.1)).Nodup ∧ (∀ e ∈ (cross st 7).flights, (e.2.parts.map (·.1)).Nodup)) ∧
    (let s := cross .flying 7
     let f := op0 (.load 4 false none) [(0, crossPart .flying 7)]
     s.bridgeMessages 0 = [] ∧ ∃ m, s.xbarMessages 0 = [m] ∧ m.answer = false ∧ s.part? m.op m.part = some (f, crossPart .flying 7) ∧
       s.membersOf f (crossPart .flying 7) = [(m.op, m.part)] ∧ HasSlot s.tenantsPresent (s.arrivedAt 0) m.output m.tenant m.cls ∧
       ¬ HasSlot [] (s.arrivedAt 0) m.output m.tenant m.cls) ∧
    (let s := cross .performed 7
     s.bridgeMessages 0 = [] ∧ (∀ m ∈ s.xbarMessages 0, m.output = 0 ∧ m.answer = true ∧ m.input ∈ Tab.get [] s.fab.lrg (0 * 192 + 0) ∧
       HasSlot s.tenantsPresent (s.arrivedAt 0) 0 m.tenant m.cls) ∧
     ((s.xbarMessages 0).map (·.input)).Nodup ∧ (Tab.get [] s.fab.lrg (0 * 192 + 0)).Nodup ∧ s.xbarMessages 0 ≠ []) ∧
    -- a request for a slice of die 1, and what else waits at the bridge to it
    (let s := cross .flying 50
     let f := op0 (.load 4 false none) [(0, crossPart .flying 50)]
     s.xbarMessages 0 = [] ∧ ∃ m, s.bridgeMessages 0 = [m] ∧ m.other = none ∧ m.answer = false ∧ s.part? m.op m.part = some (f, crossPart .flying 50) ∧
       s.membersOf f (crossPart .flying 50) = [(m.op, m.part)] ∧ s.sliceOf f (crossPart .flying 50) = some 50 ∧
       HasSlot s.tenantsPresent s.bridgedAt m.output m.tenant m.cls ∧ ¬ HasSlot [] s.bridgedAt m.output m.tenant m.cls) ∧
    (∀ e ∈ [Errand.leave (some 9) (msg0 (.skip 7 1 0 0)), .reach (msg0 (.skip 7 1 0 0)), .reach (msg0 (.answer 0 2 0 (.holdFull 0))), .translate 0 2 0],
      (errand e).xbarMessages 0 = [] ∧ ∃ m, (errand e).bridgeMessages 0 = [m] ∧ m.other = some ⟨0, 1, e⟩ ∧
        HasSlot (errand e).tenantsPresent (errand e).bridgedAt m.output m.tenant m.cls) ∧
    (∃ f p, (errand (.translate 0 2 0)).part? 2 0 = some (f, p) ∧ p.st = .bridged) ∧ s0.linkUp 9 = false := by
  refine ⟨⟨rfl, rfl, rfl, rfl, by decide⟩, ⟨rfl, rfl, rfl, rfl, rfl⟩,
    ⟨by intro e he; exact absurd he (List.not_mem_nil), _, List.mem_singleton.2 rfl, rfl, rfl, _, List.mem_singleton.2 rfl, rfl, rfl, by decide, by decide⟩,
    fun st => ⟨List.nodup_singleton _, by intro e he; rw [List.mem_singleton.1 he]; exact List.nodup_singleton _⟩,
    ⟨rfl, _, rfl, rfl, rfl, rfl, ⟨by decide, .inl rfl⟩, fun h => absurd h.1 (by decide)⟩, ⟨rfl, ?_, by decide, List.nodup_range, by decide⟩,
    ⟨rfl, _, rfl, rfl, rfl, rfl, rfl, rfl, ⟨by decide, .inl rfl⟩, fun h => absurd h.1 (by decide)⟩, ?_, ⟨_, _, rfl, rfl⟩, rfl⟩
  · intro m hm
    rw [List.mem_singleton.1 hm]
    exact ⟨rfl, rfl, List.mem_range.2 (by decide), by decide, .inl rfl⟩
  · intro e h
    simp only [List.mem_cons, List.not_mem_nil, or_false] at h
    rcases h with rfl | rfl | rfl | rfl <;> exact ⟨rfl, _, rfl, rfl, by decide, .inl rfl⟩

/-- A running table of tenant 0 with one plain entry, whose card at the start of domain 0 names the frame at 0x100. -/
def sit (f : Itin → Itin) : State :=
  { s0 with
    mem := Memory.writeN [] (Memory.key 0 8) 8 (progRoute + 0x100).toNat
    itin := f { s0.itin with owner := some 0, st := 2, hdr := [BitVec.ofNat 64 (3 * 2 ^ 24 + 2 ^ 32 + 2 ^ 36 + 2 ^ 40 + 2 ^ 44)], ents := [(progRoute, BitVec.ofNat 64 (32 * 2 ^ 16))] } }

theorem witness_ItineraryEvents :
    (let s := sit id
     let t0 := s.itin
     t0.owner = some 0 ∧ t0.next = 0 ∧ t0.waiting = none ∧ t0.st = 2 ∧ 0 < t0.ents.length ∧ eKind (t0.d1 0) ≠ 3 ∧ eNu (t0.d1 0) = false ∧ eNd (t0.d1 0) = false ∧
     eSd (t0.d1 0) = false ∧ eSu (t0.d1 0) = false ∧ eStash (t0.d1 0) = 0 ∧ (t0.runs.filter (fun r => decide (r.2.phase < 4))).length ≤ t0.mrun ∧
     t0.last ≠ some (s.cycle 0) ∧ ({ t0 with last := some 0 } : Itin).last = some (s.cycle 0) ∧ t0.mrun < (([(5, run0)] : Tab EntryRun).filter (fun r => decide (r.2.phase < 4))).length ∧
     s.isLocal 0 (progRoute + 0x100) = true ∧ (progRoute + 0x100).toNat % 64 = 0 ∧ eQdie (t0.d1 0) * 6 + eQclu (t0.d1 0) = 0 ∧ ePrio (t0.d1 0) = 0 ∧
     s.ringRoom 0 0 = true ∧ (fullAt s 0).ringRoom 0 0 = false) ∧
    (∀ s ∈ [sit id, fullAt (sit id) 0], let s1 : State := { s with itin := s.itin.take (s.cycle 0) }
      s1.readDwords 0 (s.itin.card 0 + 8) 1 = .ok [(progRoute + 0x100).toNat] ∧ ∃ u, s1.writeDwords 0 (progRoute + 0x100) [0, 0, 0, 0, 0, 0, 0, 0] = .ok u) ∧
    (let t0 := (sit (fun t => { t with runs := [(0, { run0 with phase := 1 })] })).itin
     t0.waiting = some (0, 0, 0)) ∧
    (let t0 := (sit (fun t => { t with ents := [(0, 3)] })).itin
     t0.owner = some 0 ∧ t0.st = 2 ∧ t0.next < t0.ents.length ∧ eKind (t0.d1 t0.next) = 3 ∧ t0.open = [] ∧
       (sit (fun t => { t with ents := [(0, 3)], runs := [(5, run0)] })).itin.open ≠ []) ∧
    (let r : EntryRun := { run0 with phase := 4, sent := true }
     let t0 := (sit (fun t => { t with runs := [(0, r)] })).itin
     t0.run? 0 = some r ∧ r.phase = 4 ∧ r.sent = true ∧ r.copies = [] ∧ r.notes = [] ∧
       ({ r with notes := [⟨5, 0, 0, (0, entryR), away0, [0], true, []⟩] } : EntryRun).notes ≠ []) ∧
    (∀ g : Bool, bit (sit id).itin.h0 (if g then 25 else 24) = true ∧ 0 < (if g then (sit id).itin.ngs else (sit id).itin.nas) ∧
      ¬ 1 < (if g then (sit id).itin.ngs else (sit id).itin.nas) ∧ ((sit id).itin.seat g 0).st = 0 ∧
      ((sit (fun t => { t with act := [(0, ⟨1, 2⟩)], grad := [(0, ⟨1, 2⟩)] })).itin.seat g 0).st ≠ 0) ∧
    ((sit id).itin.upfree < (sit id).itin.upgs ∧ ¬ (sit (fun t => { t with upfree := 1 })).itin.upfree < (sit id).itin.upgs ∧
      (sit id).itin.dnfree < (sit id).itin.dnas) := by
  refine ⟨⟨rfl, rfl, rfl, rfl, by decide, by decide, rfl, rfl, rfl, rfl, rfl, by decide, by decide, rfl, by decide, rfl, by decide, rfl, rfl,
      by decide, ringRoom_fullAt _ _⟩, ?_, rfl, ⟨rfl, rfl, by decide, by decide, rfl, by decide⟩, ⟨rfl, rfl, rfl, rfl, rfl, by decide⟩, by decide, by decide⟩
  intro s h
  simp only [List.mem_cons, List.not_mem_nil, or_false] at h
  rcases h with rfl | rfl <;> exact ⟨rfl, _, rfl⟩

/-- Tenant 0's TDI in a state, and stack 0 granted to it from SL 0 on. -/
def stdi (t : TdiState) : State :=
  { sr with tab := { sr.tab with grants := [(0, ⟨0, 16, 0, 1024⟩)] }, host := { sr.host with tdi := [(0, t)] } }
theorem witness_HostValues :
    ((stdi .run).tdi 0 = .run ∧ (stdi .run).isLocal 0 progRoute = true ∧ progRoute.toNat % 64 = 0 ∧ (29 : Word).toNat < 32 ∧ (29 : Word).toNat % 8 < 6 ∧
      (stdi .run).ringRoom (29 / 8 * 6 + 29 % 8) 3 = true ∧ (0 : Word).toNat / 8 * 6 + (0 : Word).toNat % 8 = 0 ∧ (stdi .locked).tdi 0 ≠ .run) ∧
    ((fullQueue (stdi .run)).tdi 0 = .run ∧ (fullQueue (stdi .run)).ringRoom 0 3 = false) ∧
    (let s := stdi .unlocked
     s.tdi 0 = .unlocked ∧ s.rangeCode 0 31 ⟨0x1E001001 + 2 ^ 32, 0x0003000200018000, 0, 0⟩ = 0 ∧ s.rangeCode 0 31 ⟨0x1E001001 + 2 ^ 32, 0x0003000200018000, 0, 1⟩ ≠ 0 ∧
     (s.frame 0 5).owner = none ∧ s.mem.wf = true ∧
     12 % 4 = 0 ∧ (s.grant 0 0).sl ≤ 12 ∧ 12 < (s.grant 0 0).sl + (s.grant 0 0).slN ∧ 13 % 4 ≠ 0 ∧ (s.grant 0 0).sl + (s.grant 0 0).slN ≤ 16 ∧
     98303 < 98304 ∧ (s.frame 0 98303).owner ≠ some 0 ∧ 31 < 32 ∧ 15 < 16 ∧ 3 < 4 ∧ 7 < 8 ∧ 23 < 24 ∧ 4095 < 4096) ∧
    ((stdi .locked).tdi 0 ≠ .unlocked ∧ (stdi .locked).tdi 0 = .locked ∧ 3000 ≤ 3000 ∧ 6500 ≤ 6500 ∧ 2999 < 3000 ∧ 6500 < 6501) :=
  ⟨by decide, ⟨rfl, ringRoom_fullQueue _⟩, by decide, by decide⟩

/-- An AtomicOp of 4 bytes at the start of domain 0. -/
def atom0 : HostAtomic := ⟨.add, 4, progRoute, 1, 0⟩
theorem witness_SecurityEvents :
    ((stdi .unlocked).tdi 0 = .unlocked ∧ (stdi .locked).tdi 0 = .locked ∧ (stdi .run).tdi 0 = .run ∧ (∃ e ∈ (stdi .run).wgs, e.2.tenant = 0) ∧
      (stdi .run).sched.queues = [] ∧ ((stdi .run).tab.frames.map (·.1)).Nodup ∧ ∀ e ∈ (stdi .run).tab.regions, e.2.1.getLsbD 10 = false) ∧
    (((stdi .run).keySlot 15 31).tdi = none ∧
      (({ stdi .run with tab := { sr.tab with keys := [(0, ⟨some 0, none⟩)] } } : State).keySlot 0 0).tdi = some 0 ∧
      (({ stdi .run with tab := { sr.tab with keys := [(0, ⟨some 1, none⟩)] } } : State).keySlot 0 0).tdi ≠ some 0) ∧
    (595 < 18 * 32 + 20 ∧ ¬ 596 < 18 * 32 + 20 ∧ 607 < 19 * 32 ∧ 641 < 20 * 32 + 2 ∧ 642 < 672 ∧ 671 < 672) ∧
    (let s := stdi .run
     atom0.op ∈ [.add, .xchg, .cas] ∧ atom0.size = 4 ∧ atom0.route.toNat % atom0.size = 0 ∧ s.isLocal 0 atom0.route = true ∧
     ({ atom0 with op := .xor } : HostAtomic).op ∉ [.add, .xchg, .cas] ∧
     ∃ l, s.lookup 0 .atomic atom0.route = .ok l ∧ s.poisoned l.key = false ∧ l.dual = none ∧ s.veiled l.enc (l.key / 128 * 128) 128 = []) :=
  ⟨⟨rfl, rfl, rfl, ⟨_, List.mem_singleton.2 rfl, rfl⟩, rfl, List.nodup_nil, by decide⟩, by decide, by decide, by decide, rfl, by decide, by decide, by decide, _, rfl, by decide, rfl, by decide⟩

/-- The module with its host side changed. -/
def sho (f : HostSide → HostSide) : State := { s0 with host := f { s0.host with ringSize := 1 } }
theorem witness_HousekeepingAndClock :
    (s0.host.scrub.find 0 = none ∧ 98304 * 2 ^ 14 - 1 < 98304 * 2 ^ 14 ∧ (sho (fun h => { h with scrub := [(0, (5, true))] })).host.scrub.find 0 = some (5, true)) ∧
    (let s := sho (fun h => { h with refresh := [(0, 2)] })
     let row := Tab.get (⟨0, false⟩ : Row) s.host.rows ((0 * 2 ^ 16 + 1) * 2 ^ 32 + 1)
     s.host.refresh.find 0 = some 2 ∧ row.count + 1 < 2 ∧ row.parity = (((List.range 32).filter (fun i => row.count.testBit i)).length % 2 == 1) ∧ ¬ 2 ≤ row.count + 1 ∧
     (let u := sho (fun h => { h with refresh := [(0, 2)], rows := [((0 * 2 ^ 16 + 1) * 2 ^ 32 + 1, ⟨1, true⟩)] })
      2 ≤ (Tab.get (⟨0, false⟩ : Row) u.host.rows ((0 * 2 ^ 16 + 1) * 2 ^ 32 + 1)).count + 1)) ∧
    (400 < (sho id).clock 0 .arithmetic ∧ ((sho id).setClock 0 .arithmetic 400).clock 0 .arithmetic ≤ 400 ∧
      (sho id).host.ringUsed < (sho id).host.ringSize ∧ (sho id).host.hot.has 0 = false ∧ (sho (fun h => { h with hot := [(0, ())] })).host.hot.has 0 = true ∧ 850 < 851 ∧ 1400 ≤ 1400 ∧
      3 < 4 ∧ ¬ 4 < 4 ∧ (s0.wgs.map (·.1)).Nodup) := by decide

/-- The state with two words at the place of the party whose turn is next, and its turn at the head of the agenda. -/
def srun (p : Party) (f : Wg → Wg) (w : Nat) : State := { s0 with mem := Memory.writeN [] (Memory.key 0 4) 8 w, wgs := [(0, f w0)], agenda := [.run p], focus := none }
/-- The same with the turn given. -/
def turned (p : Party) (f : Wg → Wg) (w : Nat) : State := { srun p f w with agenda := [], focus := some p }
/-- A header that has led to the party's place: BAR 0 waited for, LDMAX and STMAX open. -/
def openHdr : Word := 0x200FF000
theorem witness_StepRunsDecoded :
    (let s := turned (.quad 0 0) id 0x0108205F
     (srun (.quad 0 0) id 0x0108205F).agenda = .run (.quad 0 0) :: [] ∧ s.host.shut = false ∧ s.wg? 0 = some w0 ∧ w0.quads.find 0 = some x0 ∧
     s.fetch 0 [] (progCl 0).pc = .word 0x0108205F ∧ (progCl 0).rem ≠ 0 ∧ decode [0x0108205F] = .ok (.iadd ⟨2, 2, .reg 1, false, 31⟩, 1) ∧
     (∃ g ∈ opClasses 1, classNo g = 0) ∧ Instr.wellFormed (.iadd ⟨2, 2, .reg 1, false, 31⟩) = true ∧ w0.quadFree 0 x0 = true ∧ asks x0.await = false ∧
     s.gangReady 0 0 w0 = true ∧ s.quadConds 0 0 w0 x0 openHdr = true ∧ x0.wins = [] ∧
     (let x : Quad := { x0 with wins := [⟨5, [9], 3⟩] }
      (∀ v ∈ x.wins, v.left ≠ 0 ∧ ∀ r ∈ v.dst, r ∉ (Instr.iadd ⟨2, 2, .reg 1, false, 31⟩).uses.map x.phys) ∧ (Instr.iadd ⟨2, 2, .reg 1, false, 31⟩).closes = false)) ∧
    (let s := turned (.quad 0 0) id 0x000003E801144FDF
     s.fetch 0 [] (progCl 0).pc = .word 0x01144FDF ∧ decode [0x01144FDF] = .error .short ∧ 2 ≤ (progCl 0).rem ∧ s.fetch 0 [] ((progCl 0).pc + 4) = .word 0x3E8 ∧
     decode [0x01144FDF, 0x3E8] = .ok (.iadd ⟨5, 4, .lit 1000, false, 31⟩, 2)) ∧
    (let s := turned (.mtx 0) (fun _ => wm) 0xF3180002
     s.wg? 0 = some wm ∧ wm.mtx.seq.cl = progCl 4 ∧ wm.seqMay .matrix wm.mtx.seq = true ∧ asks wm.mtx.seq.await = false ∧ wm.mtx.gather = none ∧
     s.seqHeader wm 64 openHdr (progCl 4).hdr = none ∧ s.fetch 0 [] (progCl 4).pc = .word 0xF3180002 ∧
     decode [0xF3180002] = .ok (.aclr ⟨3, 0, .k 0, 2⟩, 1) ∧ (∃ g ∈ opClasses 0xF3, classNo g = 4) ∧ Instr.wellFormed (.aclr ⟨3, 0, .k 0, 2⟩) = true ∧ wm.mtx.wins = []) ∧
    (let s := turned (.cpy 0) (fun _ => wc) 0xF90A0002
     s.wg? 0 = some wc ∧ wc.cpy.seq.cl = progCl 5 ∧ wc.seqMay .copy wc.cpy.seq = true ∧ asks wc.cpy.seq.await = false ∧ s.seqHeader wc 65 openHdr (progCl 5).hdr = none ∧
     s.fetch 0 [] (progCl 5).pc = .word 0xF90A0002 ∧
     decode [0xF90A0002] = .ok (.cpt ⟨1, 8, .k 0, 2⟩, 1) ∧ (∃ g ∈ opClasses 0xF9, classNo g = 5) ∧ Instr.wellFormed (.cpt ⟨1, 8, .k 0, 2⟩) = true) ∧
    (isDev (progCl 0).pc = true ∧ s0.isLocal 0 (progCl 0).pc = true ∧ (∃ l, s0.lookup 0 .fetch (progCl 0).pc = .ok l ∧
      s0.poisoned l.key = false ∧ s0.veiled l.enc l.key 4 = [])) ∧
    (s0.isLocal 0 away0 = false ∧ s0.fetch 0 [(away0, 0x0108205F)] away0 = .word 0x0108205F) :=
  ⟨⟨rfl, rfl, rfl, rfl, rfl, by decide, rfl, by decide, by decide, by decide, by decide, by decide, by decide, rfl, by decide, rfl⟩, ⟨rfl, rfl, by decide, rfl, rfl⟩,
    ⟨rfl, rfl, by decide, rfl, rfl, by decide, rfl, rfl, by decide, by decide, rfl⟩, ⟨rfl, rfl, by decide, rfl, by decide, rfl, rfl, by decide, by decide⟩,
    ⟨by decide, by decide, _, rfl, by decide, by decide⟩, by decide, rfl⟩

/-- A place at the end of domain 0's one extent, one past it, and one outside the module. -/
def at' (pc : W64) (rem : Nat) : Cl := ⟨pc, 1, rem, 0, none⟩
theorem witness_IssueRefusals :
    (let s := turned (.quad 0 0) id 0
     (srun (.quad 0 0) id 0).agenda = .run (.quad 0 0) :: [] ∧ s.host.shut = false ∧ s.wg? 0 = some w0 ∧ w0.quadFree 0 x0 = true ∧ asks x0.await = false ∧
     s.gangReady 0 0 w0 = true ∧ (progCl 0).rem ≠ 0 ∧ (progCl 0).head = none) ∧
    -- the word at the place: no opcode, another class, a literal past the clause, a bad field, a pending destination, a fifth window
    (decode [0] = .error .illOp ∧ (decode [0xF3180002] ≠ .error .illOp ∧ ∀ g ∈ opClasses 0xF3, classNo g ≠ 0) ∧
      ((∃ g ∈ opClasses 1, classNo g = 0) ∧ decode [0x01144FDF] = .error .short ∧ (at' progRoute 1).rem < 2) ∧
      (let v : List Win := [⟨5, [4], 3⟩]
       (Instr.iadd ⟨5, 4, .lit 1000, false, 31⟩).wellFormed = true ∧ (∀ w ∈ v, w.left ≠ 0) ∧ (Instr.iadd ⟨5, 4, .lit 1000, false, 31⟩).closes = false ∧
       ∃ w ∈ v, ∃ r ∈ w.dst, r ∈ (Instr.iadd ⟨5, 4, .lit 1000, false, 31⟩).uses.map x0.phys) ∧
      (let v : List Win := [⟨5, [9], 3⟩, ⟨6, [10], 3⟩, ⟨7, [11], 3⟩, ⟨8, [12], 3⟩]
       (Instr.ld32 ⟨4, 2, 1, 2⟩).pends = true ∧ (Instr.ld32 ⟨4, 2, 1, 2⟩).closes = false ∧ 4 ≤ v.length ∧ ∀ w ∈ v, w.left ≠ 0)) ∧
    -- a word that a level refuses, and one that has to be asked for
    ((s0.fetch 0 [] (mkRoute 0 1 0 0 0) = .refused ⟨cDOMAIN_MISS, 2, 1⟩ ∧ s0.fetch 0 [] away0 = .refused ⟨cRANGE_MISS, 0, 1⟩ ∧ (sa s0).fetch 0 [] away0 = .ask) ∧
      (at' away0 3).rem ≠ 0) ∧
    -- headers: misaligned, failing R46, after a transfer or not, SYS in user mode, an unknown barrier, an undefined tile
    ((at' (progRoute + 2) 0).pc.toNat % 4 ≠ 0 ∧ HeaderFails [0, 1, 2, 3] 0 ∧ HeaderFails [4] 0x100FF000 ∧ (some progRoute).isSome = true ∧ (none : Option W64).isSome = false ∧
      (¬ HeaderFails [0, 1, 2, 3] 0x160FF000 ∧ (0x160FF000 : Word).toNat / 2 ^ 25 % 8 = 3 ∧ x0.sup = false) ∧
      (¬ HeaderFails [0, 1, 2, 3] 0x113FF000 ∧ (0x113FF000 : Word).getLsbD 24 = true ∧ w0.barQuads ((0x113FF000 : Word).toNat / 2 ^ 20 % 16) = 0 ∧
        (0x113FF000 : Word).toNat / 2 ^ 25 % 8 ≠ 3)) ∧
    ((wm.seqMay .matrix wm.mtx.seq = true ∧ wm.mtx.gather = none ∧ asks wm.mtx.seq.await = false ∧ wc.seqMay .copy wc.cpy.seq = true ∧ asks wc.cpy.seq.await = false) ∧
      ((⟨progRoute + 4, 1, 3, 4, some 0x193FF000⟩ : Cl).rem ≠ 0 ∧ ¬ HeaderFails [4] 0x193FF000 ∧ (0x193FF000 : Word).getLsbD 24 = true ∧ wm.barSeq ((0x193FF000 : Word).toNat / 2 ^ 20 % 16) 64 = false) ∧
      (¬ HeaderFails [5] 0x1A0FF8E0 ∧ (0x1A0FF8E0 : Word).getLsbD 24 = false ∧ (0x1A0FF8E0 : Word).getLsbD 11 = true ∧ wc.tiles.find ((0x1A0FF8E0 : Word).toNat / 2 ^ 5 % 64) = none)) ∧
    (s0.isLocal 0 away0 = false ∧ isDev away0 = true ∧ s0.level0 0 .fetch none away0 = .error ⟨cRANGE_MISS, 0, 1⟩ ∧ (∃ e, (sa s0).level0 0 .fetch none away0 = .ok e) ∧
      (isDev (0x7E00000000000000 : W64) = false ∧ (0x7E00000000000000 : W64).toNat / 2 ^ 57 % 2 ^ 6 ≠ 0) ∧
      (∃ l, s0.lookup 0 .fetch progRoute = .ok l ∧ s0.poisoned l.key = false ∧ ({ s0 with poison := [(l.key / 128, ())] } : State).poisoned l.key = true) ∧
      s0.lookup 0 .fetch (mkRoute 0 1 0 0 0) = .error ⟨cDOMAIN_MISS, 2, 1⟩) := by
  simp only [HeaderFails]
  exact ⟨⟨rfl, rfl, rfl, by decide, by decide, by decide, by decide, rfl⟩,
    ⟨rfl, ⟨by decide, by decide⟩, ⟨by decide, rfl, by decide⟩, ⟨by decide, by decide, by decide, by decide⟩, by decide, by decide, by decide, by decide⟩,
    ⟨⟨rfl, rfl, rfl⟩, by decide⟩, ⟨by decide, by decide, by decide, rfl, rfl, ⟨by decide, by decide, rfl⟩, by decide, by decide, by decide, by decide⟩,
    ⟨by decide, ⟨by decide, by decide, by decide, by decide⟩, by decide, by decide, by decide, by decide⟩, by decide, by decide, rfl, ⟨_, rfl⟩, by decide, ⟨_, rfl, by decide, by decide⟩, rfl⟩

theorem witness_EveryStepGoesOn :
    ((sho (fun h => { h with shut := true })).host.shut = true ∧ ∀ rest, (sho (fun h => { h with shut := true })).agenda ≠ .happen .deviceReset :: rest) ∧
    ¬ (s0.host.shut = true ∧ ∀ rest, s0.agenda ≠ .happen .deviceReset :: rest) := by
  refine ⟨⟨rfl, fun rest h => ?_⟩, fun h => absurd h.1 (by decide)⟩
  exact absurd h (by simp [sho, s0, State.reset])

theorem witness_DecodeEncodeAgree :
    Instr.isWord (.iadd ⟨5, 4, .lit 1000, false, 31⟩) = true ∧ Instr.wellFormed (.iadd ⟨5, 4, .lit 1000, false, 31⟩) = true ∧
    decode [0x01144FDF, 0x3E8] = .ok (.iadd ⟨5, 4, .lit 1000, false, 31⟩, 2) := ⟨rfl, by decide, rfl⟩

theorem reset_limits : State.reset.Limits :=
  ⟨by simp [State.ftimeout, State.reset, Tab.get, Tab.find], by simp [State.clock, clockInitial, State.reset, Tab.get, Tab.find], Nat.le_refl 0⟩
theorem witness_StepKeeps : State.reset.Inv ∧ State.reset.Keyed ∧ State.reset.Limits ∧ s0.Inv ∧ s0.Keyed ∧ ∃ t, step State.reset = .next t :=
  ⟨rfl, ⟨List.Pairwise.nil, List.Pairwise.nil, by intro e h; exact absurd h (List.not_mem_nil), by intro e h; exact absurd h (List.not_mem_nil),
      by intro e h; exact absurd h (List.not_mem_nil)⟩, reset_limits,
    rfl, ⟨by decide, List.Pairwise.nil, by intro e h; exact absurd h (List.not_mem_nil), by decide, by intro e h; exact absurd h (List.not_mem_nil)⟩, _, rfl⟩

/-- The instruction `v2 = v2 + v1` placed where the module fetches next is run by the next step: the quad stands past it (R48). -/
theorem test_step_runs_placed :
    (match step (State.reset.withFetchWord 32 0x0108205F) with
      | .next t => (t.quad? 0 0).map (fun x => (x.cl.idx, x.cl.rem))
      | _ => none) = some (2, 1) := by decide

end Sys2Proof.Tests
end

section
/-!
SUPPORT. Quad instructions that write registers, predicates and flags: what the quad keeps, what a later read returns, and
which state the instruction leaves (07_quad_compute R143, R145, 02_notation R43).
-/
namespace Sys2Proof.Machine

open Sys2Proof

/-! ### The quad that has the turn -/

/-- A change of the quad that has the turn is a change of that quad alone. -/
theorem State.HasTurn.onQuad_becomes {s : State} {k q : Nat} {x : Quad} (h : s.HasTurn k q x) (f : Quad → Quad) :
    QuadBecomes s (s.onQuad f) k q (f x) := by
  rw [s.onQuad_eq f k q h.focus]
  refine ⟨?_, fun k' q' hne => ?_, fun k' w hw => ?_, rfl⟩
  · simp [State.quad?_updQuad, h.quad]
  · rw [State.quad?_updQuad, if_neg (by tauto)]
  · rw [State.wg?_updQuad]
    by_cases hk : k' = k
    · exact ⟨w.updQuad q f, by rw [if_pos hk, hw]; rfl, rfl⟩
    · exact ⟨w, by rw [if_neg hk, hw], rfl⟩

/-- The issuer that an instruction finds is the quad that has the turn. -/
theorem State.HasTurn.issuer_eq {s : State} {k q : Nat} {x : Quad} {w : Wg} (h : s.HasTurn k q x) (hw : s.wg? k = some w) :
    s.issuer = some ⟨k, q, w, x⟩ := by
  have hx : w.quads.find q = some x := by
    have hq := h.quad
    unfold State.quad? at hq
    unfold State.wg? at hw
    simpa [hw] using hq
  simp [State.issuer, h.focus, hw, hx]

/-! ### What the writes keep -/

/-- `y` is `x` with other registers. -/
def OnlyRegs (x y : Quad) : Prop := y = { x with regs := y.regs }

/-- `y` is `x` with other predicates. -/
def OnlyPreds (x y : Quad) : Prop := y = { x with preds := y.preds }

theorem OnlyRegs.trans {x y z : Quad} (h : OnlyRegs x y) (g : OnlyRegs y z) : OnlyRegs x z := by
  unfold OnlyRegs at *
  rw [g, h]

theorem OnlyPreds.trans {x y z : Quad} (h : OnlyPreds x y) (g : OnlyPreds y z) : OnlyPreds x z := by
  unfold OnlyPreds at *
  rw [g, h]

theorem OnlyRegs.depth {x y : Quad} (h : OnlyRegs x y) : y.depth = x.depth := by rw [h]
theorem OnlyRegs.preds {x y : Quad} (h : OnlyRegs x y) : y.preds = x.preds := by rw [h]
theorem OnlyRegs.fpstat {x y : Quad} (h : OnlyRegs x y) : y.fpstat = x.fpstat := by rw [h]
theorem OnlyRegs.phys {x y : Quad} (h : OnlyRegs x y) (n : Nat) : y.phys n = x.phys n := by simp only [Quad.phys, h.depth]
theorem OnlyPreds.regs {x y : Quad} (h : OnlyPreds x y) : y.regs = x.regs := by rw [h]
theorem OnlyPreds.fpstat {x y : Quad} (h : OnlyPreds x y) : y.fpstat = x.fpstat := by rw [h]

theorem OnlyRegs.advance {x y : Quad} (h : OnlyRegs x y) (n : Nat) : AdvancesRegs x (y.advance n) n := by
  unfold OnlyRegs at h
  rw [h]
  rfl

theorem OnlyRegs.advance_flag {x y : Quad} (h : OnlyRegs x y) (f n : Nat) : AdvancesFlags x ((y.flag f).advance n) n := by
  unfold OnlyRegs at h
  rw [h]
  rfl

theorem OnlyPreds.advance {x y : Quad} (h : OnlyPreds x y) (n : Nat) : AdvancesFlags x (y.advance n) n := by
  unfold OnlyPreds at h
  rw [h]
  rfl

theorem OnlyPreds.advance_flag {x y : Quad} (h : OnlyPreds x y) (f n : Nat) : AdvancesFlags x ((y.flag f).advance n) n := by
  unfold OnlyPreds at h
  rw [h]
  rfl

theorem Quad.setGroup_onlyRegs (x : Quad) (l d c v : Nat) : OnlyRegs x (x.setGroup l d c v) := by
  induction c generalizing x d v with
  | zero => rfl
  | succ c ih => exact OnlyRegs.trans (y := x.setReg l d (BitVec.ofNat 32 v)) rfl (ih ..)

theorem Quad.writeGroups_onlyRegs (x : Quad) (ls : List Nat) (d c : Nat) (f : Nat → Nat) : OnlyRegs x (x.writeGroups ls d c f) := by
  unfold Quad.writeGroups
  induction ls generalizing x with
  | nil => rfl
  | cons l r ih => exact (x.setGroup_onlyRegs l d c (f l)).trans (ih _)

theorem Quad.writePreds_onlyPreds (x : Quad) (ls : List Nat) (d : Nat) (f : Nat → Bool) : OnlyPreds x (x.writePreds ls d f) := by
  unfold Quad.writePreds
  induction ls generalizing x with
  | nil => rfl
  | cons l r ih => exact OnlyPreds.trans (y := x.setPred l d (f l)) rfl (ih _)

/-! ### Groups of registers -/

theorem Quad.phys_lt (x : Quad) (n : Nat) : x.phys n < 256 := Nat.mod_lt _ (by decide)

/-- Registers less than 256 places apart are different physical registers. -/
theorem Quad.phys_ne (x : Quad) (d i : Nat) (hpos : 0 < i) (hlt : i < 256) : x.phys d ≠ x.phys (d + i) := by
  unfold Quad.phys
  omega

theorem Quad.reg_setReg_same (x : Quad) (l d : Nat) (v : Word) : (x.setReg l d v).reg l d = v := by
  rw [Quad.reg_setReg, if_pos rfl]

theorem Quad.reg_setReg_other (x : Quad) (l d m n : Nat) (v : Word) (h : ¬ (m = l ∧ x.phys n = x.phys d)) :
    (x.setReg l d v).reg m n = x.reg m n := by
  have hn := x.phys_lt n
  have hd := x.phys_lt d
  rw [Quad.reg_setReg, if_neg (by omega)]

theorem Quad.reg_setGroup_other (x : Quad) (l d c v m n : Nat) (h : ¬ (m = l ∧ ∃ i, i < c ∧ x.phys n = x.phys (d + i))) :
    (x.setGroup l d c v).reg m n = x.reg m n := by
  induction c generalizing x d v with
  | zero => rfl
  | succ c ih =>
    have htail : ¬ (m = l ∧ ∃ i, i < c ∧ x.phys n = x.phys (d + 1 + i)) := by
      rintro ⟨hm, i, hi, hp⟩
      exact h ⟨hm, i + 1, by omega, by rwa [Nat.add_right_comm] at hp⟩
    have hhead : ¬ (m = l ∧ x.phys n = x.phys d) := fun ⟨hm, hp⟩ => h ⟨hm, 0, by omega, hp⟩
    exact (ih (x.setReg l d (BitVec.ofNat 32 v)) (d + 1) (v / 2 ^ 32) htail).trans (x.reg_setReg_other l d m n _ hhead)

theorem Quad.group_congr {x y : Quad} {l d c : Nat} (h : ∀ i, i < c → y.reg l (d + i) = x.reg l (d + i)) :
    y.group l d c = x.group l d c := by
  induction c generalizing d with
  | zero => rfl
  | succ c ih =>
    have htail : y.group l (d + 1) c = x.group l (d + 1) c :=
      ih (fun i hi => by simpa only [Nat.add_assoc, Nat.add_comm 1 i] using h (i + 1) (by omega))
    have hhead : y.reg l d = x.reg l d := h 0 (by omega)
    simp only [Quad.group, hhead, htail]

/-- A group just written holds the low bits of what was written. -/
theorem Quad.group_setGroup (x : Quad) (l d c v : Nat) (hc : c ≤ 256) : (x.setGroup l d c v).group l d c = v % 2 ^ (32 * c) := by
  induction c generalizing x d v with
  | zero => simp [Quad.group, Nat.mod_one]
  | succ c ih =>
    have hhead : (x.setGroup l d (c + 1) v).reg l d = BitVec.ofNat 32 v := by
      refine ((x.setReg l d (BitVec.ofNat 32 v)).reg_setGroup_other l (d + 1) c (v / 2 ^ 32) l d ?_).trans (x.reg_setReg_same l d _)
      rintro ⟨-, i, hi, hp⟩
      exact x.phys_ne d (1 + i) (by omega) (by omega) (by rwa [← Nat.add_assoc])
    have htail : (x.setGroup l d (c + 1) v).group l (d + 1) c = v / 2 ^ 32 % 2 ^ (32 * c) :=
      ih (x.setReg l d (BitVec.ofNat 32 v)) (d + 1) (v / 2 ^ 32) (by omega)
    rw [Quad.group, hhead, htail, BitVec.toNat_ofNat, Nat.mul_succ, Nat.add_comm (32 * c) 32, Nat.pow_add, Nat.mod_mul]

theorem Quad.writeGroups_concat (x : Quad) (ls : List Nat) (m d c : Nat) (f : Nat → Nat) :
    x.writeGroups (ls ++ [m]) d c f = (x.writeGroups ls d c f).setGroup m d c (f m) := by simp [Quad.writeGroups]

/-- A write of a group in several lanes: each lane holds its own value, and no other register has changed. -/
theorem Quad.writeGroups_writes (x : Quad) (ls : List Nat) (d c : Nat) (f : Nat → Nat) (hc : c ≤ 256) :
    WritesGroup x (x.writeGroups ls d c f) ls d c f := by
  induction ls using List.reverseRecOn with
  | nil => exact ⟨by simp, fun _ _ _ => rfl⟩
  | append_singleton ls m ih =>
    have hphys := (x.writeGroups_onlyRegs ls d c f).phys
    rw [Quad.writeGroups_concat]
    constructor
    · intro l hl
      by_cases hm : l = m
      · rw [hm, Quad.group_setGroup _ _ _ _ _ hc]
      · have hother := fun i (_ : i < c) => (x.writeGroups ls d c f).reg_setGroup_other m d c (f m) l (d + i) (fun h => hm h.1)
        rw [Quad.group_congr hother, ih.written l (by simpa [hm] using hl)]
    · intro l n hn
      rw [Quad.reg_setGroup_other, ih.others]
      · exact fun ⟨hl, hi⟩ => hn ⟨by simp [hl], hi⟩
      · simp only [hphys]
        exact fun ⟨hl, hi⟩ => hn ⟨by simp [hl], hi⟩

/-- Only the registers and the place of the window matter to what has been written. -/
theorem WritesGroup.of_regs {x y z : Quad} {ls : List Nat} {d c : Nat} {f : Nat → Nat} (h : WritesGroup x y ls d c f)
    (hregs : z.regs = y.regs) (hdepth : z.depth = y.depth) : WritesGroup x z ls d c f := by
  have hreg : ∀ l n, z.reg l n = y.reg l n := fun l n => by simp only [Quad.reg, Quad.phys, hregs, hdepth]
  exact ⟨fun l hl => (Quad.group_congr (fun _ _ => hreg _ _)).trans (h.written l hl), fun l n hn => (hreg l n).trans (h.others l n hn)⟩

/-! ### Single registers and pairs, as groups of one and two -/

theorem Quad.writeLanes_eq_writeGroups (x : Quad) (ls : List Nat) (d : Nat) (f : Nat → Word) :
    x.writeLanes ls d f = x.writeGroups ls d 1 (fun l => (f l).toNat) := by
  simp [Quad.writeLanes, Quad.writeGroups, Quad.setGroup]

theorem Quad.setPair_eq_setGroup (x : Quad) (l d : Nat) (v : W64) : x.setPair l d v = x.setGroup l d 2 v.toNat := by
  have hlow : v.setWidth 32 = BitVec.ofNat 32 v.toNat := by simp
  have hhigh : v.extractLsb' 32 32 = BitVec.ofNat 32 (v.toNat / 2 ^ 32) := by
    simp [BitVec.extractLsb', Nat.shiftRight_eq_div_pow]
  simp only [Quad.setPair, Quad.setGroup, hlow, hhigh]

theorem Quad.writePairs_eq_writeGroups (x : Quad) (ls : List Nat) (d : Nat) (f : Nat → W64) :
    x.writePairs ls d f = x.writeGroups ls d 2 (fun l => (f l).toNat) := by
  simp only [Quad.writePairs, Quad.writeGroups, Quad.setPair_eq_setGroup]

theorem Quad.toNat_reg (x : Quad) (l d : Nat) : (x.reg l d).toNat = x.group l d 1 := by simp [Quad.group]

theorem Quad.toNat_pair (x : Quad) (l d : Nat) : (x.pair l d).toNat = x.group l d 2 := by
  rw [Quad.pair, BitVec.toNat_append, ← Nat.shiftLeft_add_eq_or_of_lt (x.reg l d).isLt, Nat.shiftLeft_eq]
  simp only [Quad.group]
  omega

theorem WritesGroup.writesReg {x y : Quad} {ls : List Nat} {d : Nat} {f : Nat → Word}
    (h : WritesGroup x y ls d 1 (fun l => (f l).toNat)) : WritesReg x y ls d f := by
  refine ⟨fun l hl => BitVec.eq_of_toNat_eq ?_, fun l n hn => h.others l n ?_⟩
  · rw [Quad.toNat_reg, h.written l hl, Nat.mod_eq_of_lt (f l).isLt]
  · rintro ⟨hl, i, hi, hp⟩
    obtain rfl : i = 0 := by omega
    exact hn ⟨hl, hp⟩

theorem WritesGroup.writesPair {x y : Quad} {ls : List Nat} {d : Nat} {f : Nat → W64}
    (h : WritesGroup x y ls d 2 (fun l => (f l).toNat)) : WritesPair x y ls d f := by
  refine ⟨fun l hl => BitVec.eq_of_toNat_eq ?_, fun l n hn => h.others l n ?_⟩
  · rw [Quad.toNat_pair, h.written l hl, Nat.mod_eq_of_lt (f l).isLt]
  · rintro ⟨hl, i, hi, hp⟩
    obtain rfl | rfl : i = 0 ∨ i = 1 := by omega
    · exact hn ⟨hl, .inl hp⟩
    · exact hn ⟨hl, .inr hp⟩

theorem Quad.writeLanes_onlyRegs (x : Quad) (ls : List Nat) (d : Nat) (f : Nat → Word) : OnlyRegs x (x.writeLanes ls d f) := by
  rw [Quad.writeLanes_eq_writeGroups]
  exact x.writeGroups_onlyRegs ..

theorem Quad.writePairs_onlyRegs (x : Quad) (ls : List Nat) (d : Nat) (f : Nat → W64) : OnlyRegs x (x.writePairs ls d f) := by
  rw [Quad.writePairs_eq_writeGroups]
  exact x.writeGroups_onlyRegs ..

theorem Quad.writeLanes_writes (x : Quad) (ls : List Nat) (d : Nat) (f : Nat → Word) : WritesReg x (x.writeLanes ls d f) ls d f := by
  rw [Quad.writeLanes_eq_writeGroups]
  exact (x.writeGroups_writes ls d 1 _ (by decide)).writesReg

theorem Quad.writePairs_writes (x : Quad) (ls : List Nat) (d : Nat) (f : Nat → W64) : WritesPair x (x.writePairs ls d f) ls d f := by
  rw [Quad.writePairs_eq_writeGroups]
  exact (x.writeGroups_writes ls d 2 _ (by decide)).writesPair

/-! ### Predicates -/

theorem Quad.pred_setPred_same (x : Quad) (l d n : Nat) (b : Bool) (hn : n < 24) :
    (x.setPred l d b).pred l n = if n = d then b else x.pred l n := by
  have hmask : (BitVec.ofNat 24 (2 ^ d)).getLsbD n = decide (d = n) := by
    rw [BitVec.getLsbD_ofNat, Nat.testBit_two_pow]
    simp [hn]
  simp only [Quad.pred, Quad.setPred_preds, Tab.get_set, if_true, eq_comm (a := n)]
  generalize BitVec.ofNat 24 (2 ^ d) = m at hmask ⊢
  cases b with
  | true => by_cases hd : d = n <;> simp only [if_true, BitVec.getLsbD_or, hmask] <;> simp [hd]
  | false => by_cases hd : d = n <;> simp only [Bool.false_eq_true, if_false, BitVec.getLsbD_and, BitVec.getLsbD_not, hmask] <;> simp [hd, hn]

theorem Quad.writePreds_concat (x : Quad) (ls : List Nat) (m d : Nat) (f : Nat → Bool) :
    x.writePreds (ls ++ [m]) d f = (x.writePreds ls d f).setPred m d (f m) := by simp [Quad.writePreds]

theorem Quad.writePreds_writes (x : Quad) (ls : List Nat) (d : Nat) (f : Nat → Bool) (hd : d < 24) :
    WritesPred x (x.writePreds ls d f) ls d f := by
  induction ls using List.reverseRecOn with
  | nil => exact ⟨by simp, fun _ _ _ _ => rfl⟩
  | append_singleton ls m ih =>
    rw [Quad.writePreds_concat]
    constructor
    · intro l hl
      by_cases hm : l = m
      · rw [hm, Quad.pred_setPred_same _ _ _ _ _ hd, if_pos rfl]
      · rw [Quad.pred_setPred_other _ _ _ _ _ _ hm, ih.written l (by simpa [hm] using hl)]
    · intro l n hn hout
      have hold : (x.writePreds ls d f).pred l n = x.pred l n := ih.others l n hn (fun h => hout ⟨by simp [h.1], h.2⟩)
      by_cases hm : l = m
      · have hne : n ≠ d := fun h => hout ⟨by simp [hm], h⟩
        rw [← hold, hm, Quad.pred_setPred_same _ _ _ _ _ hn, if_neg hne]
      · rw [Quad.pred_setPred_other _ _ _ _ _ _ hm, hold]

/-! ### Flags -/

/-- The flags of several parts, ORed into FPSTAT together or one after the other (R143). -/
theorem or_flagsOf (g : Word) (ls : List Nat) (f : Nat → Nat) :
    g ||| BitVec.ofNat 32 (flagsOf (ls.map f)) = ls.foldl (fun g l => g ||| BitVec.ofNat 32 (f l)) g := by
  have hfold : ∀ n, g ||| BitVec.ofNat 32 ((ls.map f).foldl (· ||| ·) n) =
      ls.foldl (fun g l => g ||| BitVec.ofNat 32 (f l)) (g ||| BitVec.ofNat 32 n) := by
    induction ls with
    | nil => exact fun _ => rfl
    | cons l r ih =>
      intro n
      simp only [List.map_cons, List.foldl_cons, ih, BitVec.ofNat_or, BitVec.or_assoc]
  simpa [flagsOf] using hfold 0

theorem or_flagsOf_zero (g : Word) (ls : List Nat) : g ||| BitVec.ofNat 32 (flagsOf (ls.map (fun _ => 0))) = g := by
  rw [or_flagsOf]
  simp

/-! ### The forms of the quad's arithmetic -/

section
variable {s : State} {k q : Nat} {x : Quad} (h : s.HasTurn k q x)
include h

theorem onQuad_writeLanes (ls : Quad → List Nat) (d n : Nat) (f : Quad → Nat → Word) :
    ∃ t y, (.next (s.onQuad (fun q => (q.writeLanes (ls q) d (f q)).advance n)) : Result) = .next t ∧ QuadBecomes s t k q y ∧
      AdvancesRegs x y n ∧ WritesReg x y (ls x) d (f x) := by
  have hw := x.writeLanes_writes (ls x) d (f x)
  exact ⟨_, _, rfl, h.onQuad_becomes _, (x.writeLanes_onlyRegs _ _ _).advance n, hw.written, hw.others⟩

theorem aluR_writes (a : RArgs) (f : Quad → Nat → Word) :
    ∃ t y, aluR s a f = .next t ∧ QuadBecomes s t k q y ∧ AdvancesRegs x y a.b.size ∧
      WritesReg x y (x.guarded a) a.d.toNat (f x) :=
  onQuad_writeLanes h (fun q => q.guarded a) _ _ f

theorem aluR64_writes (a : RArgs) (f : Quad → Nat → W64) :
    ∃ t y, aluR64 s a f = .next t ∧ QuadBecomes s t k q y ∧ AdvancesRegs x y a.b.size ∧
      WritesPair x y (x.guarded a) a.d.toNat (f x) := by
  have hw := x.writePairs_writes (x.guarded a) a.d.toNat (f x)
  exact ⟨_, _, rfl, h.onQuad_becomes _, (x.writePairs_onlyRegs _ _ _).advance _, hw.written, hw.others⟩

theorem groupR_writes (a : RArgs) (m n : Nat) (f : Nat → Nat × Nat) (hn : n ≤ 256) :
    ∃ t y, groupR s a m n f = .next t ∧ QuadBecomes s t k q y ∧ AdvancesFlags x y a.b.size ∧ y.preds = x.preds ∧
      WritesGroup x y (x.guarded a) a.d.toNat n (fun l => (f (x.group l a.a.toNat m)).1) ∧
      y.fpstat = (x.guarded a).foldl (fun g l => g ||| BitVec.ofNat 32 (f (x.group l a.a.toNat m)).2) x.fpstat := by
  have hr := x.writeGroups_onlyRegs (x.guarded a) a.d.toNat n (fun l => (f (x.group l a.a.toNat m)).1)
  have hw := x.writeGroups_writes (x.guarded a) a.d.toNat n (fun l => (f (x.group l a.a.toNat m)).1) hn
  refine ⟨_, _, rfl, h.onQuad_becomes _, hr.advance_flag _ _, hr.preds, hw.of_regs rfl rfl, ?_⟩
  rw [← or_flagsOf, ← hr.fpstat]
  rfl

theorem cmpP_writes (a : PArgs) (f : Quad → Nat → Bool × Nat) (hd : a.pd.toNat < 24) :
    ∃ t y, cmpP s a f = .next t ∧ QuadBecomes s t k q y ∧ AdvancesFlags x y a.b.size ∧ y.regs = x.regs ∧
      WritesPred x y x.active a.pd.toNat (fun l => combine a.cmb (x.pred l a.pd.toNat) (f x l).1) ∧
      y.fpstat = x.active.foldl (fun g l => g ||| BitVec.ofNat 32 (f x l).2) x.fpstat := by
  have hp := x.writePreds_onlyPreds x.active a.pd.toNat (fun l => combine a.cmb (x.pred l a.pd.toNat) (f x l).1)
  have hw := x.writePreds_writes x.active a.pd.toNat (fun l => combine a.cmb (x.pred l a.pd.toNat) (f x l).1) hd
  refine ⟨_, _, rfl, h.onQuad_becomes _, hp.advance_flag _ _, hp.regs, ⟨hw.written, hw.others⟩, ?_⟩
  rw [← or_flagsOf, ← hp.fpstat]
  rfl

theorem predR_writes (a : RArgs) (f : Quad → Nat → Bool) (hd : a.d.toNat < 24) :
    ∃ t y, predR s a f = .next t ∧ QuadBecomes s t k q y ∧ AdvancesFlags x y 1 ∧ y.regs = x.regs ∧ y.fpstat = x.fpstat ∧
      WritesPred x y (x.guarded a) a.d.toNat (f x) := by
  have hp := x.writePreds_onlyPreds (x.guarded a) a.d.toNat (f x)
  have hw := x.writePreds_writes (x.guarded a) a.d.toNat (f x) hd
  exact ⟨_, _, rfl, h.onQuad_becomes _, hp.advance 1, hp.regs, hp.fpstat, hw.written, hw.others⟩

end

end Sys2Proof.Machine
end

section
/-!
SUPPORT. The word functions of the integer forms are those of Tables 7-1 and 7-2, which are written over integers
(07_quad_compute R147 to R149).
-/
namespace Sys2Proof.Machine

open Sys2Proof

/-! ### Sums, products and shifts -/

theorem add_eq_ofNat {w : Nat} (a b : BitVec w) : a + b = BitVec.ofNat w (a.toNat + b.toNat) := by simp [BitVec.ofNat_add]

theorem sub_eq_ofInt {w : Nat} (a b : BitVec w) : a - b = BitVec.ofInt w ((a.toNat : Int) - b.toNat) := by
  simp [Int.sub_eq_add_neg, BitVec.ofInt_add, BitVec.ofInt_neg, BitVec.sub_eq_add_neg]

theorem mul_eq_ofNat {w : Nat} (a b : BitVec w) : a * b = BitVec.ofNat w (a.toNat * b.toNat) := by simp [BitVec.ofNat_mul]

theorem mulAdd_eq_ofNat (a b d : Word) : a * b + d = BitVec.ofNat 32 (a.toNat * b.toNat + d.toNat) := by
  simp [BitVec.ofNat_add, BitVec.ofNat_mul]

theorem mulWide_eq_ofNat (a b : Word) (d : W64) : a.setWidth 64 * b.setWidth 64 + d = BitVec.ofNat 64 (a.toNat * b.toNat + d.toNat) := by
  simp [BitVec.ofNat_add, BitVec.ofNat_mul]

theorem shiftLeft_eq_ofNat {w : Nat} (a : BitVec w) (n : Nat) : a <<< n = BitVec.ofNat w (a.toNat * 2 ^ n) := by
  apply BitVec.eq_of_toNat_eq
  rw [BitVec.toNat_shiftLeft, BitVec.toNat_ofNat, Nat.shiftLeft_eq]

theorem shiftRight_eq_ofNat {w : Nat} (a : BitVec w) (n : Nat) : a >>> n = BitVec.ofNat w (a.toNat / 2 ^ n) := by
  have hlt : a.toNat / 2 ^ n < 2 ^ w := Nat.lt_of_le_of_lt (Nat.div_le_self _ _) a.isLt
  apply BitVec.eq_of_toNat_eq
  rw [BitVec.toNat_ushiftRight, BitVec.toNat_ofNat, Nat.shiftRight_eq_div_pow, Nat.mod_eq_of_lt hlt]

theorem sarWord_eq_ofInt (a : Word) (n : Nat) : sarWord a n = BitVec.ofInt 32 (a.toInt / (2 : Int) ^ n) := by
  rw [sarWord, BitVec.sshiftRight, Int.shiftRight_eq_div_pow]
  norm_cast

/-- The high half of a number is its quotient, rounded down. -/
theorem extractHigh_ofInt (z : Int) : (BitVec.ofInt 64 z).extractLsb' 32 32 = BitVec.ofInt 32 (z / (2 ^ 32 : Int)) := by
  apply BitVec.eq_of_toNat_eq
  rw [BitVec.extractLsb'_toNat, BitVec.toNat_ofInt, BitVec.toNat_ofInt, Nat.shiftRight_eq_div_pow]
  omega

theorem mulHigh_eq_ofInt (a b : Word) : mulHigh a b = BitVec.ofInt 32 (a.toInt * b.toInt / (2 ^ 32 : Int)) := by
  rw [mulHigh, BitVec.signExtend, BitVec.signExtend, ← BitVec.ofInt_mul, extractHigh_ofInt]

theorem mulHighU_eq_ofNat (a b : Word) : mulHighU a b = BitVec.ofNat 32 (a.toNat * b.toNat / (2 ^ 32 : Nat)) := by
  have hprod : a.setWidth 64 * b.setWidth 64 = BitVec.ofInt 64 ((a.toNat * b.toNat : Nat) : Int) := by
    rw [BitVec.ofInt_natCast, BitVec.ofNat_mul, BitVec.ofNat_toNat, BitVec.ofNat_toNat]
  rw [mulHighU, hprod, extractHigh_ofInt, ← BitVec.ofInt_natCast]
  norm_cast

/-! ### Lesser and greater -/

theorem ite_sle_eq_min (a b : Word) : (if a.sle b then a else b) = BitVec.ofInt 32 (min a.toInt b.toInt) := by
  rw [BitVec.sle_eq_decide, min_def, apply_ite (BitVec.ofInt 32)]
  simp

theorem ite_sle_eq_max (a b : Word) : (if a.sle b then b else a) = BitVec.ofInt 32 (max a.toInt b.toInt) := by
  rw [BitVec.sle_eq_decide, max_def, apply_ite (BitVec.ofInt 32)]
  simp

theorem ite_ule_eq_min (a b : Word) : (if a.ule b then a else b) = BitVec.ofNat 32 (min a.toNat b.toNat) := by
  rw [BitVec.ule_eq_decide, min_def, apply_ite (BitVec.ofNat 32)]
  simp

theorem ite_ule_eq_max (a b : Word) : (if a.ule b then b else a) = BitVec.ofNat 32 (max a.toNat b.toNat) := by
  rw [BitVec.ule_eq_decide, max_def, apply_ite (BitVec.ofNat 32)]
  simp

/-! ### Sums of products of bytes -/

theorem signExtend_byte (a : Word) (i : Nat) : (a.extractLsb' (8 * i) 8).signExtend 32 = BitVec.ofInt 32 (byteS a i) := by
  have hbyte : (a.extractLsb' (8 * i) 8).toInt = byteS a i := by
    rw [BitVec.toInt_eq_toNat_cond, BitVec.extractLsb'_toNat, Nat.shiftRight_eq_div_pow]
    unfold byteS signed
    split <;> split <;> omega
  rw [BitVec.signExtend, hbyte]

theorem setWidth_byte (a : Word) (i : Nat) : (a.extractLsb' (8 * i) 8).setWidth 32 = BitVec.ofInt 32 (byteU a i) := by
  rw [← BitVec.ofNat_toNat, BitVec.extractLsb'_toNat, Nat.shiftRight_eq_div_pow]
  exact (BitVec.ofInt_natCast ..).symm

theorem dot4_eq_dotF (sgn : Bool) (a b d : Word) : dot4 sgn a b d = dotF (if sgn then byteS else byteU) a b d := by
  cases sgn with
  | true =>
    simp only [dot4, dotF, signExtend_byte, BitVec.ofInt_add, BitVec.ofInt_mul, BitVec.ofInt_natCast, BitVec.ofNat_toNat, BitVec.setWidth_eq,
      if_true]
  | false =>
    simp only [dot4, dotF, setWidth_byte, BitVec.ofInt_add, BitVec.ofInt_mul, BitVec.ofInt_natCast, BitVec.ofNat_toNat, BitVec.setWidth_eq,
      Bool.false_eq_true, if_false]

/-! ### Counts and fields of bits -/

theorem popCount_eq_countP (a : Word) : popCount a = BitVec.ofNat 32 ((List.range 32).countP (fun i => a.getLsbD i)) := by
  rw [popCount, List.countP_eq_length_filter]

/-- The leading zeros are the shifts that keep a number below 2^32. -/
theorem leadingZeros_eq_find (a : Word) :
    leadingZeros a = BitVec.ofNat 32 (((List.range 33).find? (fun n => decide (2 ^ 32 ≤ a.toNat * 2 ^ (n + 1)))).getD 32) := by
  unfold leadingZeros
  by_cases h0 : a = 0
  · have hnone : (List.range 33).find? (fun n => decide (2 ^ 32 ≤ a.toNat * 2 ^ (n + 1))) = none := by simp [h0]
    rw [if_pos h0, hnone, Option.getD_none]
  · have hne : a.toNat ≠ 0 := fun h => h0 (BitVec.eq_of_toNat_eq (by simpa using h))
    have hlog : a.toNat.log2 ≤ 31 := Nat.lt_succ_iff.1 ((Nat.log2_lt hne).2 a.isLt)
    have hlow : 2 ^ a.toNat.log2 ≤ a.toNat := Nat.log2_self_le hne
    have hhigh : a.toNat < 2 ^ (a.toNat.log2 + 1) := Nat.lt_log2_self
    have hfirst : (List.range 33).find? (fun n => decide (2 ^ 32 ≤ a.toNat * 2 ^ (n + 1))) = some (31 - a.toNat.log2) := by
      rw [List.find?_range_eq_some]
      refine ⟨?_, by simp; omega, fun j hj => ?_⟩
      · rw [decide_eq_true_iff]
        calc 2 ^ 32 = 2 ^ a.toNat.log2 * 2 ^ (31 - a.toNat.log2 + 1) := by rw [← Nat.pow_add]; congr 1; omega
          _ ≤ a.toNat * 2 ^ (31 - a.toNat.log2 + 1) := Nat.mul_le_mul_right _ hlow
      · rw [Bool.not_eq_true', decide_eq_false_iff_not, Nat.not_le]
        calc a.toNat * 2 ^ (j + 1) < 2 ^ (a.toNat.log2 + 1) * 2 ^ (j + 1) := Nat.mul_lt_mul_of_pos_right hhigh (Nat.two_pow_pos _)
          _ = 2 ^ (a.toNat.log2 + 1 + (j + 1)) := (Nat.pow_add ..).symm
          _ ≤ 2 ^ 32 := Nat.pow_le_pow_right (by decide) (by omega)
    rw [if_neg h0, hfirst, Option.getD_some]

/-- The powers of two below `2 ^ n` that `p` picks. -/
theorem sum_two_pow_lt (p : Nat → Bool) (n : Nat) : ((List.range n).map (fun i => if p i then 2 ^ i else 0)).sum < 2 ^ n := by
  induction n with
  | zero => simp
  | succ n ih =>
    simp only [List.range_succ, List.map_append, List.sum_append, List.map_cons, List.map_nil, List.sum_singleton]
    split <;> omega

/-- The sum of the powers of two that `p` picks has the bits that `p` picks. -/
theorem testBit_sum_two_pow (p : Nat → Bool) (n j : Nat) :
    (((List.range n).map (fun i => if p i then 2 ^ i else 0)).sum).testBit j = (decide (j < n) && p j) := by
  induction n with
  | zero => simp
  | succ n ih =>
    have hlt := sum_two_pow_lt p n
    simp only [List.range_succ, List.map_append, List.sum_append, List.map_cons, List.map_nil, List.sum_singleton]
    rw [Nat.add_comm]
    obtain hj | rfl | hj := Nat.lt_trichotomy j n
    · split
      · rw [Nat.testBit_two_pow_add_gt hj, ih]
        simp [hj, Nat.lt_succ_of_lt hj]
      · simp [ih, hj, Nat.lt_succ_of_lt hj]
    · split
      · next hp => rw [Nat.testBit_two_pow_add_eq, Nat.testBit_lt_two_pow hlt]; simp [hp]
      · next hp => simp [ih, hp]
    · have hbig : (if p n then 2 ^ n else 0) + ((List.range n).map (fun i => if p i then 2 ^ i else 0)).sum < 2 ^ j := calc
        _ < 2 ^ n + 2 ^ n := by split <;> omega
        _ = 2 ^ (n + 1) := by ring
        _ ≤ 2 ^ j := Nat.pow_le_pow_right (by decide) hj
      rw [Nat.testBit_lt_two_pow hbig, decide_eq_false (by omega), Bool.false_and]

theorem bitReverse_eq_reverse (a : Word) : bitReverse a = a.reverse := by
  apply BitVec.eq_of_getLsbD_eq
  intro i hi
  rw [bitReverse, BitVec.getLsbD_ofNat, ← List.sum_eq_foldl, testBit_sum_two_pow (fun i => a.getLsbD (31 - i)),
    BitVec.getLsbD_reverse, BitVec.getMsbD]
  simp [hi]

theorem fieldPos_eq (b : Word) : fieldPos b = b.toNat % 32 := by simp [fieldPos, bits]

theorem fieldWidth_eq (b : Word) : fieldWidth b = min (b.toNat / 32 % 64) 32 := by simp [fieldWidth, bits]

theorem fieldExtract_eq_bfxF (a b : Word) : fieldExtract a b = bfxF a b := by
  have hwidth : 2 ^ fieldWidth b ≤ 2 ^ 32 := Nat.pow_le_pow_right (by decide) (Nat.min_le_right _ _)
  have hmask : (BitVec.ofNat 32 (2 ^ fieldWidth b - 1)).toNat = 2 ^ fieldWidth b - 1 := by
    rw [BitVec.toNat_ofNat, Nat.mod_eq_of_lt (by omega)]
  have hfit : a.toNat / 2 ^ fieldPos b % 2 ^ fieldWidth b < 2 ^ 32 := Nat.lt_of_lt_of_le (Nat.mod_lt _ (Nat.two_pow_pos _)) hwidth
  have hbfx : bfxF a b = BitVec.ofNat 32 (a.toNat / 2 ^ fieldPos b % 2 ^ fieldWidth b) := by rw [bfxF, fieldPos_eq, fieldWidth_eq]
  apply BitVec.eq_of_toNat_eq
  rw [fieldExtract, hbfx, BitVec.toNat_and, hmask, Nat.and_two_pow_sub_one_eq_mod, BitVec.toNat_ushiftRight, Nat.shiftRight_eq_div_pow,
    BitVec.toNat_ofNat, Nat.mod_eq_of_lt hfit]

theorem fieldInsert_eq_bfiF (a b d : Word) : fieldInsert a b d = bfiF a b d := by
  simp only [fieldInsert, bfiF, fieldPos_eq, fieldWidth_eq, shiftLeft_eq_ofNat]

end Sys2Proof.Machine
end

section
/-!
O1. The integer forms on registers and pairs (07_quad_compute R147 to R149).
-/
namespace Sys2Proof.Machine

open Sys2Proof

/-! ### The meanings (R71) -/

theorem exec_iadd (a : RArgs) (s : State) : exec (.iadd a) s = execIadd a s := rfl
theorem exec_isub (a : RArgs) (s : State) : exec (.isub a) s = execIsub a s := rfl
theorem exec_imul (a : RArgs) (s : State) : exec (.imul a) s = execImul a s := rfl
theorem exec_imulh (a : RArgs) (s : State) : exec (.imulh a) s = execImulh a s := rfl
theorem exec_imulhu (a : RArgs) (s : State) : exec (.imulhu a) s = execImulhu a s := rfl
theorem exec_imad (a : RArgs) (s : State) : exec (.imad a) s = execImad a s := rfl
theorem exec_idp4 (a : RArgs) (s : State) : exec (.idp4 a) s = execIdp4 a s := rfl
theorem exec_idp4u (a : RArgs) (s : State) : exec (.idp4u a) s = execIdp4u a s := rfl
theorem exec_iand (a : RArgs) (s : State) : exec (.iand a) s = execIand a s := rfl
theorem exec_ior (a : RArgs) (s : State) : exec (.ior a) s = execIor a s := rfl
theorem exec_ixor (a : RArgs) (s : State) : exec (.ixor a) s = execIxor a s := rfl
theorem exec_andn (a : RArgs) (s : State) : exec (.andn a) s = execAndn a s := rfl
theorem exec_shl (a : RArgs) (s : State) : exec (.shl a) s = execShl a s := rfl
theorem exec_shr (a : RArgs) (s : State) : exec (.shr a) s = execShr a s := rfl
theorem exec_sar (a : RArgs) (s : State) : exec (.sar a) s = execSar a s := rfl
theorem exec_imin (a : RArgs) (s : State) : exec (.imin a) s = execImin a s := rfl
theorem exec_imax (a : RArgs) (s : State) : exec (.imax a) s = execImax a s := rfl
theorem exec_umin (a : RArgs) (s : State) : exec (.umin a) s = execUmin a s := rfl
theorem exec_umax (a : RArgs) (s : State) : exec (.umax a) s = execUmax a s := rfl
theorem exec_popc (a : RArgs) (s : State) : exec (.popc a) s = execPopc a s := rfl
theorem exec_clz (a : RArgs) (s : State) : exec (.clz a) s = execClz a s := rfl
theorem exec_brev (a : RArgs) (s : State) : exec (.brev a) s = execBrev a s := rfl
theorem exec_bfx (a : RArgs) (s : State) : exec (.bfx a) s = execBfx a s := rfl
theorem exec_bfi (a : RArgs) (s : State) : exec (.bfi a) s = execBfi a s := rfl
theorem exec_mov (a : RArgs) (s : State) : exec (.mov a) s = execMov a s := rfl
theorem exec_sel (a : RArgs) (s : State) : exec (.sel a) s = execSel a s := rfl
theorem exec_add64 (a : RArgs) (s : State) : exec (.add64 a) s = execAdd64 a s := rfl
theorem exec_sub64 (a : RArgs) (s : State) : exec (.sub64 a) s = execSub64 a s := rfl
theorem exec_madw (a : RArgs) (s : State) : exec (.madw a) s = execMadw a s := rfl
theorem exec_shl64 (a : RArgs) (s : State) : exec (.shl64 a) s = execShl64 a s := rfl
theorem exec_shr64 (a : RArgs) (s : State) : exec (.shr64 a) s = execShr64 a s := rfl

/-! ### The tables -/

theorem aluF_congr {s : State} {a : RArgs} {f g : Word → Word → Word → Word} (h : ∀ x y d, f x y d = g x y d) :
    aluF s a f = aluF s a g := by rw [funext fun x => funext fun y => funext fun d => h x y d]

theorem aluR64_congr {s : State} {a : RArgs} {f g : Quad → Nat → W64} (h : ∀ q l, f q l = g q l) : aluR64 s a f = aluR64 s a g := by
  rw [funext fun q => funext fun l => h q l]

theorem exec_table71Lo : ∀ e ∈ table71Lo, ∀ (a : RArgs) (s : State), exec (e.1 a) s = aluF s a e.2 := by
  simp only [table71Lo, List.forall_mem_cons, List.not_mem_nil, false_implies, implies_true, and_true]
  exact ⟨
    fun a s => (exec_iadd a s).trans <| aluF_congr fun x y _ => add_eq_ofNat x y,
    fun a s => (exec_isub a s).trans <| aluF_congr fun x y _ => sub_eq_ofInt x y,
    fun a s => (exec_imul a s).trans <| aluF_congr fun x y _ => mul_eq_ofNat x y,
    fun a s => (exec_imulh a s).trans <| aluF_congr fun x y _ => mulHigh_eq_ofInt x y,
    fun a s => (exec_imulhu a s).trans <| aluF_congr fun x y _ => mulHighU_eq_ofNat x y,
    fun a s => (exec_imad a s).trans <| aluF_congr mulAdd_eq_ofNat,
    fun a s => (exec_idp4 a s).trans <| aluF_congr (dot4_eq_dotF true),
    fun a s => (exec_idp4u a s).trans <| aluF_congr (dot4_eq_dotF false),
    exec_iand,
    exec_ior,
    exec_ixor,
    exec_andn⟩

theorem exec_table71Hi : ∀ e ∈ table71Hi, ∀ (a : RArgs) (s : State), exec (e.1 a) s = aluF s a e.2 := by
  simp only [table71Hi, List.forall_mem_cons, List.not_mem_nil, false_implies, implies_true, and_true]
  exact ⟨
    fun a s => (exec_shl a s).trans <| aluF_congr fun x y _ => shiftLeft_eq_ofNat x (y.toNat % 32),
    fun a s => (exec_shr a s).trans <| aluF_congr fun x y _ => shiftRight_eq_ofNat x (y.toNat % 32),
    fun a s => (exec_sar a s).trans <| aluF_congr fun x y _ => sarWord_eq_ofInt x (y.toNat % 32),
    fun a s => (exec_imin a s).trans <| aluF_congr fun x y _ => ite_sle_eq_min x y,
    fun a s => (exec_imax a s).trans <| aluF_congr fun x y _ => ite_sle_eq_max x y,
    fun a s => (exec_umin a s).trans <| aluF_congr fun x y _ => ite_ule_eq_min x y,
    fun a s => (exec_umax a s).trans <| aluF_congr fun x y _ => ite_ule_eq_max x y,
    fun a s => (exec_popc a s).trans <| aluF_congr fun x _ _ => popCount_eq_countP x,
    fun a s => (exec_clz a s).trans <| aluF_congr fun x _ _ => leadingZeros_eq_find x,
    fun a s => (exec_brev a s).trans <| aluF_congr fun x _ _ => bitReverse_eq_reverse x,
    fun a s => (exec_bfx a s).trans <| aluF_congr fun x y _ => fieldExtract_eq_bfxF x y,
    fun a s => (exec_bfi a s).trans <| aluF_congr fieldInsert_eq_bfiF,
    exec_mov⟩

/-- Each row of Table 7-1 but SEL is the R form of its F. -/
theorem exec_table71 : ∀ e ∈ table71, ∀ (a : RArgs) (s : State), exec (e.1 a) s = aluF s a e.2 := by
  intro e he
  rcases List.mem_append.1 he with he | he
  · exact exec_table71Lo e he
  · exact exec_table71Hi e he

/-- Each row of Table 7-2 but MADW is the R form over pairs of its F. -/
theorem exec_table72 : ∀ e ∈ table72, ∀ (a : RArgs) (s : State), exec (e.1 a) s = aluR64 s a (fun q l =>
    e.2.2 (q.pair l a.a.toNat).toNat (if e.2.1 then (q.src64 l a.b).toNat else (q.src l a.b).toNat) (q.pair l a.d.toNat).toNat) := by
  simp only [table72, List.forall_mem_cons, List.not_mem_nil, false_implies, implies_true, and_true, if_true, Bool.false_eq_true, if_false]
  exact ⟨
    fun a s => (exec_add64 a s).trans <| aluR64_congr fun q l => add_eq_ofNat (q.pair l a.a.toNat) (q.src64 l a.b),
    fun a s => (exec_sub64 a s).trans <| aluR64_congr fun q l => sub_eq_ofInt (q.pair l a.a.toNat) (q.src64 l a.b),
    fun a s => (exec_shl64 a s).trans <| aluR64_congr fun q l => shiftLeft_eq_ofNat (q.pair l a.a.toNat) ((q.src l a.b).toNat % 64),
    fun a s => (exec_shr64 a s).trans <| aluR64_congr fun q l => shiftRight_eq_ofNat (q.pair l a.a.toNat) ((q.src l a.b).toNat % 64)⟩

theorem exec_madw_eq (a : RArgs) (s : State) : exec (.madw a) s = aluR64 s a (fun q l =>
    BitVec.ofNat 64 ((q.reg l a.a.toNat).toNat * (q.src l a.b).toNat + (q.pair l a.d.toNat).toNat)) :=
  (exec_madw a s).trans <| aluR64_congr fun q l => mulWide_eq_ofNat (q.reg l a.a.toNat) (q.src l a.b) (q.pair l a.d.toNat)

theorem integerRegisterForms : Claims.IntegerRegisterForms := by
  constructor
  · intro e he s k q x a h
    rw [exec_table71 e he]
    exact aluR_writes h a _
  · intro s k q x a h
    rw [exec_sel]
    exact onQuad_writeLanes h Quad.active a.d.toNat a.b.size
      (fun q l => if q.guard l a.gn a.gp then q.reg l a.a.toNat else q.src l a.b)

theorem integerPairForms : Claims.IntegerPairForms := by
  constructor
  · intro e he s k q x a h
    rw [exec_table72 e he]
    exact aluR64_writes h a _
  · intro s k q x a h
    rw [exec_madw_eq]
    exact aluR64_writes h a _

/-- Settles O1: each row of Tables 7-1 and 7-2 is an R form of the F that the table gives over integers. -/
theorem integerForms : Obligations.IntegerForms := ⟨integerRegisterForms, integerPairForms⟩

end Sys2Proof.Machine
end

section
/-!
O3. The compares (07_quad_compute R151, R152).
-/
namespace Sys2Proof.Machine

open Sys2Proof

theorem exec_icmp (a : PArgs) (s : State) : exec (.icmp a) s = execIcmp a s := rfl
theorem exec_icmp64 (a : PArgs) (s : State) : exec (.icmp64 a) s = execIcmp64 a s := rfl
theorem exec_fcmp (a : PArgs) (s : State) : exec (.fcmp a) s = execFcmp a s := rfl

theorem ccHolds_eq_ccTable {w : Nat} (cc : BitVec 3) (a b : BitVec w) :
    ccHolds cc a b = ccTable cc.toNat a.toInt b.toInt a.toNat b.toNat := by
  have hlt : cc.toNat < 8 := cc.isLt
  rw [Bool.eq_iff_iff]
  unfold ccHolds ccTable
  generalize cc.toNat = n at hlt ⊢
  match n, hlt with
  | 0, _ => simp only [beq_iff_eq, decide_eq_true_eq, BitVec.toNat_inj]
  | 1, _ => simp only [bne_iff_ne, decide_eq_true_eq, ne_eq, BitVec.toNat_inj]
  | 2, _ => simp only [BitVec.slt_eq_decide]
  | 3, _ => simp only [BitVec.sle_eq_decide]
  | 4, _ => simp only [BitVec.slt_eq_decide]
  | 5, _ => simp only [BitVec.sle_eq_decide]
  | 6, _ => simp only [BitVec.ult_eq_decide]
  | 7, _ => simp only [BitVec.ule_eq_decide]
  | n + 8, h => omega

theorem combine_eq_cmbTable (cmb : BitVec 2) (old c : Bool) : combine cmb old c = cmbTable cmb.toNat old c := by
  have hlt : cmb.toNat < 4 := cmb.isLt
  unfold combine cmbTable
  generalize cmb.toNat = n at hlt ⊢
  match n, hlt with
  | 0, _ | 1, _ | 2, _ => rfl
  | 3, _ => cases old <;> cases c <;> rfl
  | n + 4, h => omega

/-- A compare without flags leaves FPSTAT as it was. -/
theorem cmpP_noFlags {s : State} {k q : Nat} {x : Quad} (h : s.HasTurn k q x) (a : PArgs) (c : Quad → Nat → Bool)
    (hd : a.pd.toNat < 24) :
    ∃ t y, cmpP s a (fun q l => (c q l, 0)) = .next t ∧ QuadBecomes s t k q y ∧ AdvancesFlags x y a.b.size ∧ y.regs = x.regs ∧
      y.fpstat = x.fpstat ∧ WritesPred x y x.active a.pd.toNat (fun l => combine a.cmb (x.pred l a.pd.toNat) (c x l)) := by
  obtain ⟨t, y, hexec, hquad, hadv, hregs, hpred, hflag⟩ := cmpP_writes h a (fun q l => (c q l, 0)) hd
  exact ⟨t, y, hexec, hquad, hadv, hregs, by simpa using hflag, hpred⟩

theorem compares : Claims.Compares := by
  intro s k q x a h hd
  simp only [exec_icmp, exec_icmp64, exec_fcmp, ← ccHolds_eq_ccTable, ← combine_eq_cmbTable]
  exact ⟨cmpP_noFlags h a (fun q l => ccHolds a.cc (q.reg l a.a.toNat) (q.src l a.b)) hd,
    cmpP_noFlags h a (fun q l => ccHolds a.cc (q.pair l a.a.toNat) (q.src64 l a.b)) hd,
    cmpP_writes h a (fun q l => fcmp a.cc.toNat (q.reg l a.a.toNat).toNat (q.src l a.b).toNat) hd⟩

theorem Num.isSig_of_not_isNan {x : Num} (h : x.isNan = false) : x.isSig = false := by
  cases x with
  | nan s => simp [Num.isNan] at h
  | inf s => rfl
  | fin s m e => rfl

/-- No value is both less and greater than another. -/
theorem Num.lt_asymm (x y : Num) (h : x.lt y = true) : y.lt x = false := by
  match x, y with
  | .nan _, _ => simp [Num.lt] at h
  | .inf _, .nan _ | .fin _ _ _, .nan _ => simp [Num.lt] at h
  | .inf s, .inf t => simp_all [Num.lt]
  | .inf s, .fin _ _ _ | .fin _ _ _, .inf s => simp_all [Num.lt]
  | .fin s m e, .fin t n g =>
    simp only [Num.lt, decide_eq_true_eq, decide_eq_false_iff_not, min_comm g e] at h ⊢
    omega

/-- A pattern whose magnitude bits are 0 is a zero of F32. -/
theorem F32.value_zero {a : Nat} (h : a % 2 ^ 31 = 0) : ∃ s, F32.value a = .fin s 0 (-149) := by
  have hm : a % 2 ^ 23 = 0 := by omega
  have he : a / 2 ^ 23 % 2 ^ 8 = 0 := by omega
  exact ⟨bit a 31, by simp only [Fmt.value, F32, Fmt.width, hm, he]; rfl⟩

theorem Num.lt_zero_zero (s t : Bool) (e g : Int) : (Num.fin s 0 e).lt (.fin t 0 g) = false := by
  cases s <;> cases t <;> simp [Num.lt, scaled]

theorem fcmp_nan {cc a b : Nat} (h : (F32.value a).isNan = true ∨ (F32.value b).isNan = true) :
    fcmp cc a b = (cc == 1 || cc == 7,
      if (F32.value a).isSig || (F32.value b).isSig || (2 ≤ cc && cc ≤ 5) then fNV else 0) := by
  have hun : ((F32.value a).isNan || (F32.value b).isNan) = true := by simpa using h
  simp [fcmp, hun]

/-- Without a NaN, FCMP is the table of R151 on the order of the two values, but for ord and uno. -/
theorem fcmp_ordered {cc a b : Nat} (hcc : cc < 8) (ha : (F32.value a).isNan = false) (hb : (F32.value b).isNan = false) :
    fcmp cc a b =
      (ccTable (if 6 ≤ cc then 0 else cc) (if (F32.value a).lt (F32.value b) then -1 else if (F32.value b).lt (F32.value a) then 1 else 0) 0
        (if (F32.value a).lt (F32.value b) || (F32.value b).lt (F32.value a) then 1 else 0) 0 && cc != 7 || cc == 6, 0) := by
  have hasymm := Num.lt_asymm (F32.value a) (F32.value b)
  simp only [fcmp, ha, hb, Num.isSig_of_not_isNan ha, Num.isSig_of_not_isNan hb, Bool.or_self, Bool.false_eq_true, if_false, Bool.false_and]
  generalize (F32.value a).lt (F32.value b) = lt at hasymm ⊢
  generalize (F32.value b).lt (F32.value a) = gt at hasymm ⊢
  match lt, gt, hasymm with
  | true, true, h => exact absurd (h rfl) (by decide)
  | true, false, _ | false, true, _ | false, false, _ =>
    match cc, hcc with
    | 0, _ | 1, _ | 2, _ | 3, _ | 4, _ | 5, _ | 6, _ | 7, _ => rfl
    | n + 8, h => omega

theorem floatCompareRules : Claims.FloatCompareRules := by
  intro cc a b hcc _ _
  refine ⟨fun ⟨ha, hb⟩ => ?_, fcmp_nan, fun ha hb => fcmp_ordered hcc ha hb⟩
  obtain ⟨s, hva⟩ := F32.value_zero ha
  obtain ⟨t, hvb⟩ := F32.value_zero hb
  rw [fcmp_ordered hcc (by rw [hva]; rfl) (by rw [hvb]; rfl), hva, hvb, Num.lt_zero_zero, Num.lt_zero_zero]
  match cc, hcc with
  | 0, _ | 1, _ | 2, _ | 3, _ | 4, _ | 5, _ | 6, _ | 7, _ => rfl
  | n + 8, h => omega

/-- Settles O3: the conditions are those of R151 over the two readings of a word, and FCMP's those of R152 by the order of the values. -/
theorem compareForms : Obligations.CompareForms := ⟨compares, floatCompareRules⟩

end Sys2Proof.Machine
end

section
/-!
O4. Predicate forms and the shuffle of a quad (07_quad_compute R153, R154).
-/
namespace Sys2Proof.Machine

open Sys2Proof

theorem exec_pand (a : RArgs) (s : State) : exec (.pand a) s = execPand a s := rfl
theorem exec_por (a : RArgs) (s : State) : exec (.por a) s = execPor a s := rfl
theorem exec_pxor (a : RArgs) (s : State) : exec (.pxor a) s = execPxor a s := rfl
theorem exec_pnot (a : RArgs) (s : State) : exec (.pnot a) s = execPnot a s := rfl
theorem exec_vtop (a : RArgs) (s : State) : exec (.vtop a) s = execVtop a s := rfl
theorem exec_ptov (a : RArgs) (s : State) : exec (.ptov a) s = execPtov a s := rfl
theorem exec_shfq (a : RArgs) (s : State) : exec (.shfq a) s = execShfq a s := rfl

theorem bne_eq_decide_ne (v w : Word) : (v != w) = decide (v ≠ w) := by
  rw [Bool.eq_iff_iff]
  simp

theorem predR_congr {s : State} {a : RArgs} {f g : Quad → Nat → Bool} (h : ∀ q l, f q l = g q l) : predR s a f = predR s a g := by
  rw [funext fun q => funext fun l => h q l]

/-- Each row of Table 7-4 but PTOV is the predicate form of its F. -/
theorem exec_table74 : ∀ e ∈ table74, ∀ (d p n : BitVec 6) (gn : Bool) (gp : BitVec 5) (s : State),
    exec (e.1 ⟨d, p, .reg n, gn, gp⟩) s =
      predR s ⟨d, p, .reg n, gn, gp⟩ (fun q l => e.2 (q.pred l p.toNat) (q.pred l n.toNat) (q.reg l p.toNat)) := by
  simp only [table74, List.forall_mem_cons, List.not_mem_nil, false_implies, implies_true, and_true]
  exact ⟨
    fun _ _ _ _ _ => exec_pand _,
    fun _ _ _ _ _ => exec_por _,
    fun _ _ _ _ _ s => (exec_pxor _ s).trans <| predR_congr fun _ _ => congrFun₂ Bool.bne_eq_xor.symm _ _,
    fun _ _ _ _ _ => exec_pnot _,
    fun _ _ _ _ _ s => (exec_vtop _ s).trans <| predR_congr fun _ _ => bne_eq_decide_ne _ _⟩

/-- Settles O4: Table 7-4's predicate forms are writes of a predicate, PTOV and SHFQ R forms. -/
theorem predicateAndShuffleForms : Obligations.PredicateAndShuffleForms := by
  constructor
  · intro e he s k q x d p n gn gp h hd
    rw [exec_table74 e he]
    exact predR_writes h _ _ hd
  · intro s k q x a h
    rw [exec_ptov, exec_shfq]
    exact ⟨aluR_writes h a (fun q l => if q.pred l a.a.toNat then 1 else 0),
      aluR_writes h a (fun q l => q.reg ((q.src l a.b).toNat % 4) a.a.toNat)⟩

end Sys2Proof.Machine
end

section
/-!
O8. Packers, unpackers, VQDEC and the modular forms (07_quad_compute R162 to R166).
-/
namespace Sys2Proof.Machine

open Sys2Proof

/-! ### The meanings (R71) -/

theorem exec_pk4e4m3 (a : RArgs) (s : State) : exec (.pk4e4m3 a) s = execPk4e4m3 a s := rfl
theorem exec_pk4e5m2 (a : RArgs) (s : State) : exec (.pk4e5m2 a) s = execPk4e5m2 a s := rfl
theorem exec_pk8e2m1 (a : RArgs) (s : State) : exec (.pk8e2m1 a) s = execPk8e2m1 a s := rfl
theorem exec_pk16e2m3 (a : RArgs) (s : State) : exec (.pk16e2m3 a) s = execPk16e2m3 a s := rfl
theorem exec_pk16e3m2 (a : RArgs) (s : State) : exec (.pk16e3m2 a) s = execPk16e3m2 a s := rfl
theorem exec_unpkb2 (a : RArgs) (s : State) : exec (.unpkb2 a) s = execUnpkb2 a s := rfl
theorem exec_unpkh2 (a : RArgs) (s : State) : exec (.unpkh2 a) s = execUnpkh2 a s := rfl
theorem exec_upk4e4m3 (a : RArgs) (s : State) : exec (.upk4e4m3 a) s = execUpk4e4m3 a s := rfl
theorem exec_upk4e5m2 (a : RArgs) (s : State) : exec (.upk4e5m2 a) s = execUpk4e5m2 a s := rfl
theorem exec_upk8e2m1 (a : RArgs) (s : State) : exec (.upk8e2m1 a) s = execUpk8e2m1 a s := rfl
theorem exec_upk16e2m3 (a : RArgs) (s : State) : exec (.upk16e2m3 a) s = execUpk16e2m3 a s := rfl
theorem exec_upk16e3m2 (a : RArgs) (s : State) : exec (.upk16e3m2 a) s = execUpk16e3m2 a s := rfl
theorem exec_vqdec (a : RArgs) (s : State) : exec (.vqdec a) s = execVqdec a s := rfl
theorem exec_addm64 (a : RArgs) (s : State) : exec (.addm64 a) s = execAddm64 a s := rfl
theorem exec_subm64 (a : RArgs) (s : State) : exec (.subm64 a) s = execSubm64 a s := rfl
theorem exec_mulm64 (a : RArgs) (s : State) : exec (.mulm64 a) s = execMulm64 a s := rfl
theorem exec_nttbf (a : RArgs) (s : State) : exec (.nttbf a) s = execNttbf a s := rfl

/-! ### Packers and unpackers -/

/-- `n` elements, each with its flags, lowest first, `w` bits apart. -/
def joined (w n : Nat) (el : Nat → Nat × Nat) : Nat × Nat :=
  (((List.range n).map (fun i => (el i).1 * 2 ^ (w * i))).sum, flagsOf ((List.range n).map (fun i => (el i).2)))

theorem joined_of_list (w n : Nat) (el : Nat → Nat × Nat) :
    (((List.range n).map (fun i => (((List.range n).map el).getD i (0, 0)).1 * 2 ^ (w * i))).foldl (· + ·) 0,
      flagsOf (((List.range n).map el).map (·.2))) = joined w n el := by
  have hget : ∀ i ∈ List.range n, (((List.range n).map el).getD i (0, 0)).1 * 2 ^ (w * i) = (el i).1 * 2 ^ (w * i) := by
    intro i hi
    simp [List.mem_range.1 hi]
  rw [joined, ← List.sum_eq_foldl, List.map_congr_left hget, List.map_map]
  rfl

theorem packN_eq_joined (f : Fmt) (n v : Nat) :
    packN f n v = joined f.width n (fun i => f.convert 0 true (F32.value (v / 2 ^ (32 * i) % 2 ^ 32))) :=
  joined_of_list ..

theorem unpackN_eq_joined (f : Fmt) (n v : Nat) :
    unpackN f n v = joined 32 n (fun i => F32.convert 0 false (f.value (v / 2 ^ (f.width * i) % 2 ^ f.width))) :=
  joined_of_list ..

/-- A group form whose F joins elements ORs the flags of every element of every lane into FPSTAT (R143). -/
theorem groupR_joined {s : State} {k q : Nat} {x : Quad} (h : s.HasTurn k q x) (a : RArgs) (m n w c : Nat)
    (el : Nat → Nat → Nat × Nat) (hn : n ≤ 256) :
    ∃ t y, groupR s a m n (fun v => joined w c (el v)) = .next t ∧ QuadBecomes s t k q y ∧ AdvancesFlags x y a.b.size ∧
      y.preds = x.preds ∧
      WritesGroup x y (x.guarded a) a.d.toNat n
        (fun l => ((List.range c).map (fun i => (el (x.group l a.a.toNat m) i).1 * 2 ^ (w * i))).sum) ∧
      y.fpstat = (x.guarded a).foldl
        (fun g l => (List.range c).foldl (fun g i => g ||| BitVec.ofNat 32 (el (x.group l a.a.toNat m) i).2) g) x.fpstat := by
  obtain ⟨t, y, hexec, hquad, hadv, hpreds, hgroup, hflag⟩ := groupR_writes h a m n (fun v => joined w c (el v)) hn
  simp only [joined, or_flagsOf] at hflag
  exact ⟨t, y, hexec, hquad, hadv, hpreds, hgroup, hflag⟩

theorem exec_packTable : ∀ e ∈ packTable, e.2.2.2 ≤ 256 ∧ ∀ (a : RArgs) (s : State), exec (e.1 a) s =
    groupR s a e.2.2.1 e.2.2.2 (packN e.2.1 e.2.2.1) := by
  simp only [packTable, List.forall_mem_cons, List.not_mem_nil, false_implies, implies_true, and_true]
  exact ⟨⟨by decide, exec_pk4e4m3⟩, ⟨by decide, exec_pk4e5m2⟩, ⟨by decide, exec_pk8e2m1⟩, ⟨by decide, exec_pk16e2m3⟩,
    ⟨by decide, exec_pk16e3m2⟩⟩

theorem exec_unpackTable : ∀ e ∈ unpackTable, e.2.2.2 ≤ 256 ∧ ∀ (a : RArgs) (s : State), exec (e.1 a) s =
    groupR s a e.2.2.1 e.2.2.2 (unpackN e.2.1 e.2.2.2) := by
  simp only [unpackTable, List.forall_mem_cons, List.not_mem_nil, false_implies, implies_true, and_true]
  exact ⟨⟨by decide, exec_unpkb2⟩, ⟨by decide, exec_unpkh2⟩, ⟨by decide, exec_upk4e4m3⟩, ⟨by decide, exec_upk4e5m2⟩,
    ⟨by decide, exec_upk8e2m1⟩, ⟨by decide, exec_upk16e2m3⟩, ⟨by decide, exec_upk16e3m2⟩⟩

/-! ### VQDEC (R163) -/

theorem vqGroup_eq_sum (book : Tab Word) (code : Nat) :
    vqGroup book code = ((List.range 8).map (fun j =>
      (BF16.convert 0 false (vqNum (Tab.get 0 book (code % 256)).toNat code j)).1 * 2 ^ (16 * j))).sum := by
  rw [vqGroup, ← List.sum_eq_foldl]
  rfl

/-- A group form without flags leaves FPSTAT as it was. -/
theorem groupR_noFlags {s : State} {k q : Nat} {x : Quad} (h : s.HasTurn k q x) (a : RArgs) (m n : Nat) (f : Nat → Nat)
    (hn : n ≤ 256) :
    ∃ t y, groupR s a m n (fun v => (f v, 0)) = .next t ∧ QuadBecomes s t k q y ∧ AdvancesRegs x y a.b.size ∧
      WritesGroup x y (x.guarded a) a.d.toNat n (fun l => f (x.group l a.a.toNat m)) := by
  obtain ⟨t, y, hexec, hquad, hadv, hpreds, hgroup, hflag⟩ := groupR_writes h a m n (fun v => (f v, 0)) hn
  have hfpstat : y.fpstat = x.fpstat := by simpa using hflag
  refine ⟨t, y, hexec, hquad, ?_, hgroup⟩
  unfold AdvancesFlags at hadv
  rwa [hpreds, hfpstat] at hadv

theorem execVqdec_set {s : State} {i : Issue} (a : RArgs) (hi : s.issuer = some i) (hbook : i.w.mtx.bookSet = true) :
    execVqdec a s = groupR s a 1 4 (fun v => (vqGroup i.w.mtx.book (v % 2 ^ 16), 0)) := by simp only [execVqdec, hi, hbook, if_true]

theorem execVqdec_unset {s : State} {i : Issue} (a : RArgs) (hi : s.issuer = some i) (hbook : i.w.mtx.bookSet = false) :
    execVqdec a s = .next (s.precise i cCODEBOOK_UNSET) := by simp only [execVqdec, hi, hbook, Bool.false_eq_true, if_false]

theorem groupForms : Claims.GroupForms := by
  refine ⟨fun e he s k q x a h => ?_, fun e he s k q x a h => ?_, fun s k q x w a h hw => ⟨fun hbook => ?_, fun hbook => ?_⟩⟩
  · obtain ⟨hn, hexec⟩ := exec_packTable e he
    rw [hexec, funext (packN_eq_joined e.2.1 e.2.2.1)]
    exact groupR_joined h a _ _ _ _ (fun v i => e.2.1.convert 0 true (F32.value (v / 2 ^ (32 * i) % 2 ^ 32))) hn
  · obtain ⟨hn, hexec⟩ := exec_unpackTable e he
    rw [hexec, funext (unpackN_eq_joined e.2.1 e.2.2.2)]
    exact groupR_joined h a _ _ _ _ (fun v i => F32.convert 0 false (e.2.1.value (v / 2 ^ (e.2.1.width * i) % 2 ^ e.2.1.width))) hn
  · rw [exec_vqdec, execVqdec_unset a (h.issuer_eq hw) hbook]
    rfl
  · rw [exec_vqdec, execVqdec_set a (h.issuer_eq hw) hbook]
    simpa only [Quad.toNat_reg, vqGroup_eq_sum] using groupR_noFlags h a 1 4 (fun v => vqGroup w.mtx.book (v % 2 ^ 16)) (by decide)

/-! ### The modular forms (R164 to R166) -/

theorem modulusOk_iff (m b : W64) : modulusOk m b = true ↔ 2 ≤ m.toNat ∧ b.toNat = 2 ^ (2 * (m.toNat.log2 + 1)) / m.toNat := by
  have hlen : 2 ≤ m.toNat → bitLength m.toNat = m.toNat.log2 + 1 := fun h => if_neg (by omega)
  simp only [modulusOk, Bool.and_eq_true, decide_eq_true_eq, beq_iff_eq]
  exact and_congr_right fun h => by rw [hlen h]

theorem modR_ok {s : State} {i : Issue} (a : RArgs) (f : Nat → Nat → Nat → Nat) (hi : s.issuer = some i)
    (hok : modulusOk i.x.modq i.x.modb = true) :
    modR s a f = aluR64 s a (fun q l => BitVec.ofNat 64 (f q.modq.toNat (q.pair l a.a.toNat).toNat (q.src64 l a.b).toNat)) := by
  simp only [modR, hi, hok, if_true]

theorem modR_bad {s : State} {i : Issue} (a : RArgs) (f : Nat → Nat → Nat → Nat) (hi : s.issuer = some i)
    (hbad : modulusOk i.x.modq i.x.modb = false) : modR s a f = .next (s.precise i cMOD_BAD) := by
  simp only [modR, hi, hbad, Bool.false_eq_true, if_false]

/-- The quad once NTTBF has written the sums x + t. -/
def Quad.nttSums (x : Quad) (a : RArgs) : Quad :=
  let m := x.modq.toNat
  x.writePairs (x.guarded a) a.d.toNat (fun l => BitVec.ofNat 64 (((x.pair l a.d.toNat).toNat % m +
    (x.src64 l a.b).toNat % m * ((x.pair l a.a.toNat).toNat % m) % m) % m))

/-- The quad once NTTBF has written the differences x − t too, of the values as they were before the sums. -/
def Quad.nttDiffs (x : Quad) (a : RArgs) : Quad :=
  let m := x.modq.toNat
  (x.nttSums a).writePairs (x.guarded a) a.a.toNat (fun l => BitVec.ofNat 64 (((x.pair l a.d.toNat).toNat % m + m -
    (x.src64 l a.b).toNat % m * ((x.pair l a.a.toNat).toNat % m) % m) % m))

theorem execNttbf_ok {s : State} {i : Issue} (a : RArgs) (hi : s.issuer = some i) (hok : modulusOk i.x.modq i.x.modb = true) :
    execNttbf a s = .next (s.onQuad (fun q => (q.nttDiffs a).advance a.b.size)) := by
  simp only [execNttbf, hi, hok, Bool.not_true, Bool.false_eq_true, if_false]
  rfl

theorem execNttbf_bad {s : State} {i : Issue} (a : RArgs) (hi : s.issuer = some i) (hbad : modulusOk i.x.modq i.x.modb = false) :
    execNttbf a s = .next (s.precise i cMOD_BAD) := by
  simp only [execNttbf, hi, hbad, Bool.not_false, if_true]

theorem modularForms : Claims.ModularForms := by
  intro s k q x w a h hw m v b
  have hissuer := h.issuer_eq hw
  rw [← modulusOk_iff, Bool.not_eq_true]
  refine ⟨fun hok => ⟨?_, fun _ => ?_⟩, fun hbad => ?_⟩
  · simp only [List.forall_mem_cons, List.not_mem_nil, false_implies, implies_true, and_true]
    rw [exec_addm64, exec_subm64, exec_mulm64, execAddm64, execSubm64, execMulm64, modR_ok a _ hissuer hok, modR_ok a _ hissuer hok,
      modR_ok a _ hissuer hok]
    exact ⟨aluR64_writes h a _, aluR64_writes h a _, aluR64_writes h a _⟩
  · have hsums := x.writePairs_onlyRegs (x.guarded a) a.d.toNat (fun l => BitVec.ofNat 64 ((v l a.d.toNat + b l * v l a.a.toNat % m) % m))
    have hdiffs := (x.nttSums a).writePairs_onlyRegs (x.guarded a) a.a.toNat
      (fun l => BitVec.ofNat 64 ((v l a.d.toNat + m - b l * v l a.a.toNat % m) % m))
    have hwrites := (x.nttSums a).writePairs_writes (x.guarded a) a.a.toNat
      (fun l => BitVec.ofNat 64 ((v l a.d.toNat + m - b l * v l a.a.toNat % m) % m))
    refine ⟨_, _, x.nttSums a, ?_, h.onQuad_becomes (fun q => (q.nttDiffs a).advance a.b.size), (hsums.trans hdiffs).advance _,
      x.writePairs_writes _ _ _, hsums.depth, hwrites.written, hwrites.others⟩
    rw [exec_nttbf, execNttbf_ok a hissuer hok]
  · simp only [List.forall_mem_cons, List.not_mem_nil, false_implies, implies_true, and_true]
    rw [exec_addm64, exec_subm64, exec_mulm64, exec_nttbf, execAddm64, execSubm64, execMulm64, modR_bad a _ hissuer hbad,
      modR_bad a _ hissuer hbad, modR_bad a _ hissuer hbad, execNttbf_bad a hissuer hbad]
    exact ⟨rfl, rfl, rfl, rfl⟩

/-- Settles O8: packers and unpackers join converted elements; VQDEC and the modular forms fault or write by the issuer's codebook and moduli. -/
theorem groupAndModularForms : Obligations.GroupAndModularForms := ⟨groupForms, modularForms⟩

end Sys2Proof.Machine
end

section
/-!
O9. BR, BRD, JOIN and JMPR: transfers of control and the reconvergence stack (03_encoding R50, 08_quad_control R169 to R174).
-/
namespace Sys2Proof.Machine

open Sys2Proof

/-! ### The meanings (R71) -/

theorem exec_br (a : BArgs) (s : State) : exec (.br a) s = execBr a s := rfl
theorem exec_brd (a : BArgs) (s : State) : exec (.brd a) s = execBrd a s := rfl
theorem exec_join (off : BitVec 16) (s : State) : exec (.join off) s = execJoin off s := rfl
theorem exec_jmpr (a : BitVec 6) (s : State) : exec (.jmpr a) s = execJmpr a s := rfl

/-! ### Where control goes -/

/-- R169's target of a branch. -/
theorem Cl.target_eq (c : Cl) (off : BitVec 16) : c.target off = c.hdr + BitVec.ofInt 64 (4 * off.toInt) := by
  rw [Cl.target, Int.mul_comm]

theorem State.Issues.hasTurn {s : State} {k q : Nat} {w : Wg} {x : Quad} (h : s.Issues k q w x) : s.HasTurn k q x :=
  ⟨h.focus, by rw [State.quad?, ← State.wg?, h.wg]; exact h.quad⟩

/-- A change of the issuing quad is a change of that quad alone. -/
theorem State.Issues.updQuad_becomes {s : State} {k q : Nat} {w : Wg} {x : Quad} (h : s.Issues k q w x) (f : Quad → Quad) :
    QuadBecomes s (s.updQuad k q f) k q (f x) := by
  rw [← s.onQuad_eq f k q h.focus]
  exact h.hasTurn.onQuad_becomes f

/-- An instruction that ends in the shared transfer of control does what R50 and R387 say of one. -/
theorem State.Issues.transfers {s : State} {k q : Nat} {w : Wg} {x : Quad} (h : s.Issues k q w x) {i : Instr} {target : W64}
    {f : Quad → Quad} (hexec : exec i s = .next (s.transfer ⟨k, q, w, x⟩ target f)) : s.Transfers k q w x i target (f x) := by
  constructor
  case goes =>
    intro hdr ht
    refine ⟨_, hexec, ?_⟩
    simp only [State.transfer, ht]
    exact h.updQuad_becomes (fun x => { f x with cl := Cl.enter target hdr, await := none, got := [] })
  case bad =>
    intro ht
    simp only [hexec, State.transfer, ht, State.precise]
  case refused =>
    intro r ht
    simp only [hexec, State.transfer, ht]
  case asks =>
    intro ht
    simp only [hexec, State.transfer, ht]

/-- An instruction that ends in the shared precise fault raises its cause for the quad as a whole. -/
theorem State.raises_of_precise {s : State} {k q : Nat} {w : Wg} {x : Quad} {i : Instr} {cause : Nat}
    (hexec : exec i s = .next (s.precise ⟨k, q, w, x⟩ cause)) : s.Raises k q x i cause := hexec

/-! ### BR (R169) -/

/-- R169's condition is 1 in some active lane. -/
abbrev Quad.SomeHold (x : Quad) (a : BArgs) : Prop := ∃ l ∈ x.active, x.guard l a.pn a.p = true

/-- R169's condition is 1 in every active lane. -/
abbrev Quad.AllHold (x : Quad) (a : BArgs) : Prop := ∀ l ∈ x.active, x.guard l a.pn a.p = true

theorem Quad.isEmpty_holding (x : Quad) (a : BArgs) : (x.holding a).isEmpty = !decide (x.SomeHold a) := by
  rw [Bool.eq_iff_iff, Bool.not_eq_true', decide_eq_false_iff_not, Quad.holding, List.isEmpty_iff, List.filter_eq_nil_iff]
  simp only [not_exists, not_and]

theorem Quad.length_holding (x : Quad) (a : BArgs) :
    ((x.holding a).length == x.active.length) = decide (x.AllHold a) := by
  rw [Bool.eq_iff_iff, decide_eq_true_iff, beq_iff_eq, Quad.holding, List.length_filter_eq_length_iff]

/-- BR's three outcomes, by whether the condition holds in some and in all of the active lanes. -/
theorem exec_br_eq {s : State} {i : Issue} (a : BArgs) (hi : s.issuer = some i) :
    exec (.br a) s =
      if a.mode.toNat = 2 ∧ i.x.SomeHold a ∧ ¬ i.x.AllHold a then .next (s.precise i cBR_UNIFORM)
      else if if a.mode.toNat = 0 then i.x.SomeHold a else i.x.AllHold a then .next (s.transfer i (i.x.cl.target a.off) id)
      else .next (s.updQuad i.k i.q (·.advance 1)) := by
  rw [exec_br]
  simp only [execBr, hi, Quad.isEmpty_holding, Quad.length_holding, Bool.not_not]
  by_cases hmode : a.mode.toNat = 0 <;> simp [hmode, and_assoc]

theorem branchForms : Claims.BranchForms := by
  intro s k q w x a h holds
  have hexec := exec_br_eq a (State.issuer_eq h)
  have hsome : (∃ l ∈ x.active, holds l) ↔ x.SomeHold a := Iff.rfl
  have hall : (∀ l ∈ x.active, holds l) ↔ x.AllHold a := Iff.rfl
  have hnone : (∀ l ∈ x.active, ¬ holds l) ↔ ¬ x.SomeHold a := by simp only [← hsome, not_exists, not_and]
  have hother : (∃ l ∈ x.active, ¬ holds l) ↔ ¬ x.AllHold a := by simp only [← hall, not_forall, exists_prop]
  rw [hsome, hall, hnone, hother, ← Cl.target_eq]
  refine ⟨fun htaken => ?taken, fun hfails => ?notTaken, fun hmode hs ho => ?mixed⟩
  case taken =>
    have huniform : ¬ (a.mode.toNat = 2 ∧ x.SomeHold a ∧ ¬ x.AllHold a) := by
      rintro ⟨hmode, -, ho⟩
      rw [if_neg (by omega)] at htaken
      exact ho htaken
    rw [if_neg huniform, if_pos htaken] at hexec
    exact h.transfers hexec
  case notTaken =>
    have huniform : ¬ (a.mode.toNat = 2 ∧ x.SomeHold a ∧ ¬ x.AllHold a) := by
      rintro ⟨hmode, hs, -⟩
      rw [if_neg (by omega)] at hfails
      exact hfails.2 hmode hs
    have htaken : ¬ if a.mode.toNat = 0 then x.SomeHold a else x.AllHold a := by
      by_cases hmode : a.mode.toNat = 0
      · rwa [if_pos hmode] at hfails ⊢
      · rw [if_neg hmode] at hfails ⊢
        exact hfails.1
    rw [if_neg huniform, if_neg htaken] at hexec
    exact ⟨_, _, hexec, h.updQuad_becomes (·.advance 1), rfl⟩
  case mixed =>
    rw [if_pos ⟨hmode, hs, ho⟩] at hexec
    exact State.raises_of_precise hexec

/-! ### BRD, JOIN and JMPR (R171, R172, R174) -/

theorem exec_brd_splits {s : State} {i : Issue} (a : BArgs) (hi : s.issuer = some i) (hroom : i.x.recon.length < 8)
    (hfailing : i.x.mask &&& ~~~maskOf (i.x.holding a) ≠ 0) :
    exec (.brd a) s = .next (s.updQuad i.k i.q (fun x => { x with
      recon := ⟨x.mask, maskOf (i.x.holding a), i.x.cl.target a.off⟩ :: x.recon,
      mask := i.x.mask &&& ~~~maskOf (i.x.holding a) }.advance 1)) := by
  simp only [exec_brd, execBrd, hi, if_neg (Nat.not_le.2 hroom), bne_iff_ne, if_pos hfailing]

theorem exec_brd_goes {s : State} {i : Issue} (a : BArgs) (hi : s.issuer = some i) (hroom : i.x.recon.length < 8)
    (hfailing : i.x.mask &&& ~~~maskOf (i.x.holding a) = 0) :
    exec (.brd a) s = .next (s.transfer i (i.x.cl.target a.off) (fun x => { x with
      recon := ⟨x.mask, 0, i.x.cl.target a.off⟩ :: x.recon, mask := maskOf (i.x.holding a) })) := by
  simp only [exec_brd, execBrd, hi, if_neg (Nat.not_le.2 hroom), bne_iff_ne, ne_eq, hfailing, not_true_eq_false, if_false]

theorem exec_brd_full {s : State} {i : Issue} (a : BArgs) (hi : s.issuer = some i) (hfull : 8 ≤ i.x.recon.length) :
    exec (.brd a) s = .next (s.precise i cRECONV_OVF) := by
  simp only [exec_brd, execBrd, hi, if_pos hfull]

theorem exec_join_empty {s : State} {i : Issue} (off : BitVec 16) (hi : s.issuer = some i) (hstack : i.x.recon = []) :
    exec (.join off) s = .next (s.transfer i (i.x.cl.target off) id) := by
  simp only [exec_join, execJoin, hi, hstack]

theorem exec_join_pending {s : State} {i : Issue} {m pm : BitVec 4} {ppc : W64} {rest : List Recon} (off : BitVec 16)
    (hi : s.issuer = some i) (hstack : i.x.recon = ⟨m, pm, ppc⟩ :: rest) (hpm : pm ≠ 0) :
    exec (.join off) s = .next (s.transfer i ppc (fun x => { x with mask := pm, recon := ⟨m, 0, ppc⟩ :: rest })) := by
  simp only [exec_join, execJoin, hi, hstack, bne_iff_ne, if_pos hpm]

theorem exec_join_finished {s : State} {i : Issue} {m : BitVec 4} {ppc : W64} {rest : List Recon} (off : BitVec 16)
    (hi : s.issuer = some i) (hstack : i.x.recon = ⟨m, 0, ppc⟩ :: rest) :
    exec (.join off) s = .next (s.transfer i (i.x.cl.target off) (fun x => { x with mask := m, recon := rest })) := by
  simp only [exec_join, execJoin, hi, hstack, bne_self_eq_false, Bool.false_eq_true, if_false]

theorem Quad.common_eq_some {x : Quad} {f : Nat → W64} (hagree : ∀ l ∈ x.active, f l = f x.lowest) :
    x.common f = some (f x.lowest) := by
  simp only [Quad.common, List.all_eq_true, beq_iff_eq, if_pos hagree]

theorem Quad.common_eq_none {x : Quad} {f : Nat → W64} (hdiffer : ∃ l ∈ x.active, f l ≠ f x.lowest) : x.common f = none := by
  have hnot : ¬ ∀ l ∈ x.active, f l = f x.lowest := by simpa only [not_forall, exists_prop] using hdiffer
  simp only [Quad.common, List.all_eq_true, beq_iff_eq, if_neg hnot]

theorem exec_jmpr_agree {s : State} {i : Issue} (a : BitVec 6) (hi : s.issuer = some i)
    (hagree : ∀ l ∈ i.x.active, i.x.pair l a.toNat = i.x.pair i.x.lowest a.toNat) :
    exec (.jmpr a) s = .next (s.transfer i (i.x.pair i.x.lowest a.toNat) id) := by
  simp only [exec_jmpr, execJmpr, hi, Quad.common_eq_some (f := fun l => i.x.pair l a.toNat) hagree]

theorem exec_jmpr_differ {s : State} {i : Issue} (a : BitVec 6) (hi : s.issuer = some i)
    (hdiffer : ∃ l ∈ i.x.active, i.x.pair l a.toNat ≠ i.x.pair i.x.lowest a.toNat) :
    exec (.jmpr a) s = .next (s.precise i cBR_UNIFORM) := by
  simp only [exec_jmpr, execJmpr, hi, Quad.common_eq_none (f := fun l => i.x.pair l a.toNat) hdiffer]

theorem divergenceAndJumpForms : Claims.DivergenceAndJumpForms := by
  intro s k q w x h target
  have hi := State.issuer_eq h
  have htarget : target = x.cl.target := funext fun off => (x.cl.target_eq off).symm
  rw [htarget]
  refine ⟨fun a => ⟨fun hroom hfailing => ?_, fun hroom hfailing => ?_, fun hfull => ?_⟩,
    fun off => ⟨fun hstack => ?_, fun m pm ppc rest hstack hpm => ?_, fun m ppc rest hstack => ?_⟩,
    fun a => ⟨fun hagree => ?_, fun hdiffer => ?_⟩⟩
  · exact ⟨_, exec_brd_splits a hi hroom hfailing, h.updQuad_becomes _⟩
  · exact h.transfers (exec_brd_goes a hi hroom hfailing)
  · exact State.raises_of_precise (exec_brd_full a hi hfull)
  · exact h.transfers (exec_join_empty off hi hstack)
  · exact h.transfers (exec_join_pending off hi hstack hpm)
  · exact h.transfers (exec_join_finished off hi hstack)
  · exact h.transfers (exec_jmpr_agree a hi hagree)
  · exact State.raises_of_precise (exec_jmpr_differ a hi hdiffer)

/-- Settles O9: each outcome of BR, BRD, JOIN and JMPR is the shared transfer of control, a change of the issuing quad or the
shared precise fault, chosen by what R169 to R174 say of the active lanes and the stack. -/
theorem branchesAndDivergence : Obligations.BranchesAndDivergence := ⟨branchForms, divergenceAndJumpForms⟩

end Sys2Proof.Machine
end
